-- ==== Sys2Proof/Word.lean ====
section
/-! DEFINITION. The word types of the machine: register words, masks and program counters (R5, R23, R24, R32). -/

namespace Sys2Proof

/-- A byte of memory (R5). -/
abbrev Byte := BitVec 8

/-- A 32-bit word: one lane of a v-register, or one code word (R23, R130). -/
abbrev Word32 := BitVec 32

/-- A scalar register or a global address (R110, R70). -/
abbrev Word64 := BitVec 64

/-- A set of lanes of a group: lane l is bit l (R24). -/
abbrev Mask := BitVec 96

/-- A lane number of a group (R23). -/
abbrev Lane := Fin 96

/-- A program counter: packet number in bits 29:0, slot in bits 31:30 (R32). -/
abbrev PC := BitVec 32

/-- A line of 128 bytes; byte k is bits 8k+7 : 8k (R12, R5). -/
abbrev Line := BitVec 1024

/-- One v-register: its 32-bit value in each of the 96 lanes (R23, R26). -/
abbrev Row := Vector Word32 96

/-- A row of zeros: what a v-register holds until it is written (R349). -/
def Row.zero : Row := Vector.replicate 96 0

end Sys2Proof
end

