-- ==== Sys2Proof/Config.lean ====
section
/-! DEFINITION. What the spec leaves open, as constants without a body (nothing can evaluate them), and the few
facts that are fixed for this stepping. -/

namespace Sys2Proof.Config

/-- Nanoseconds that pass during the n-th step of the machine; the spec fixes no duration (log entry 10). -/
opaque tick : Nat → Nat

/-- AES-256-XTS over one line (R387), by key and tweak, the line number PA[47:7]: encryption, with decryption as its
inverse (log entry 9). -/
opaque xts : BitVec 512 → Nat → Equiv.Perm Line

/-- The SHA-384 digest of a byte string (R380, R405; log entry 9). -/
opaque sha384 : List Byte → BitVec 384

/-- The Ed25519 check of a message and its signature against the fused key (R379; log entry 9). -/
opaque verifyEd : List Byte → List Byte → Bool

/-- The ML-DSA-65 check of a message and its signature against the fused key (R379; log entry 9). -/
opaque verifyMl : List Byte → List Byte → Bool

/-- The memory mode that the body of a configuration image sets: hbmcfg.FINE (R385; log entry 9). -/
opaque fineOf : List Byte → Bool

/-- Offset within its HBM4 stack at which the agent firmware of a die is placed (R384; log entry 9). -/
opaque fwPlace : Nat → Nat

/-- The fused minimum security version of a kind of image (R380; log entry 9). -/
opaque minSvn : BitVec 8 → Nat

/-- A fresh random key of an address space, by ASID and time of installation (R388; log entry 9). -/
opaque freshKey : Nat → Nat → BitVec 512

/-- The payload of a SPDM or DOE response that the spec leaves to the SPDM standard, from the request, the state's
measurements and a counter (R381, R411; log entry 9). -/
opaque spdmPayload : List Byte → BitVec 384 → Nat → List Byte

/-- Whether the accesses of the party that issues in the n-th step touch the k-th of the SRAM words with a standing error
(R413, R414; log entry 53). -/
opaque touches : Nat → Nat → Bool

/-- Signature of the trust die over a byte string (R381, R409; log entry 9). -/
opaque sign : List Byte → List Byte

/-- Elapsed core cycles of a live ejection record during the n-th step (R55; log entry 10). -/
opaque cycles : Nat → Nat

/-- Value of a datum that the spec names but does not fix, by the model's counter of free values. -/
opaque freeWord : Nat → Word64

/-- The word at an offset of the physical interface's partition registers, whose layout the spec does not give, from
every interface's clusters, ASID base and ASID count (R323; log entry 19). -/
opaque partWord : Nat → List (Nat × List Nat × Nat × Nat) → Word64

/-- What a write of a value at an offset of the physical interface's partition registers sets: the ASID range (true) or the
partition (false) of an interface, and the value in the model's layout; none where it sets nothing (R323; log entry
19). -/
opaque partSet : Nat → Word64 → Option (Bool × Nat × Word64)

/-- The command word of a firmware region while a restart is pending, whose layout the spec does not give: ring, index, H
(R342, R355; log entry 20). -/
opaque commandWord : Nat → BitVec 32 → Bool → Word64

/-- The package's serial number, as its SPDM certificate gives it (R407; log entry 9). -/
opaque serial : List Byte

/-- Stepping: letter in bits 7:4, number in bits 3:0 (R170). -/
def stepping : BitVec 8 := 0xA1#8

/-- Reproducibility contract version of this stepping (R128). -/
def contract : Nat := 1

/-- Shulys generation (R168). -/
def generation : Nat := 1

/-- Loupe clock and arithmetic clock in MHz (R170). -/
def lclk : Nat := 2500
def aclk : Nat := 1250

end Sys2Proof.Config
end

