-- ==== Sys2Proof/Machine/Store.lean ====
section
/-! DEFINITION. Sparse maps as plain data: a list of (key, value) pairs with keys strictly rising and no entry equal
to the value that an unlisted key reads as. Memory, register files and every numbered family of objects use it. -/

namespace Sys2Proof.Machine

/-- A sparse map from numbers; an unlisted key reads as a default that each use names. -/
abbrev Store (α : Type) := List (Nat × α)

variable {α : Type}

/-- The value at key k; d where k is not listed. -/
def Store.get (d : α) : Store α → Nat → α
  | [], _ => d
  | (k', v) :: t, k => if k' = k then v else Store.get d t k

/-- Drop key k. -/
def Store.erase : Store α → Nat → Store α
  | [], _ => []
  | (k', v) :: t, k => if k' = k then Store.erase t k else (k', v) :: Store.erase t k

/-- Put (k, v) before the first larger key. -/
def Store.insert : Store α → Nat → α → Store α
  | [], k, v => [(k, v)]
  | (k', v') :: t, k, v => if k < k' then (k, v) :: (k', v') :: t else (k', v') :: Store.insert t k v

/-- Write v at key k; writing the default removes the entry, so equal maps are equal lists. -/
def Store.set [DecidableEq α] (d : α) (m : Store α) (k : Nat) (v : α) : Store α :=
  if v = d then m.erase k else (m.erase k).insert k v

/-- Apply f at key k. -/
def Store.upd [DecidableEq α] (d : α) (m : Store α) (k : Nat) (f : α → α) : Store α :=
  m.set d k (f (m.get d k))

/-- Keys strictly rising. -/
def Store.sorted : Store α → Bool
  | [] => true
  | [_] => true
  | (k, _) :: (k', v') :: t => decide (k < k') && Store.sorted ((k', v') :: t)

/-- The canonical form: keys strictly rising, no entry equal to the default. -/
def Store.wf [DecidableEq α] (d : α) (m : Store α) : Bool :=
  m.sorted && m.all (fun c => decide (c.2 ≠ d))

end Sys2Proof.Machine
end

