-- ==== Sys2Proof/Syntax.lean ====
section
/-! DEFINITION. The instructions and events of the Bangalis as syntax: one constructor of `Instr` per row of
spec/opcode_table.json. Words of the instruction set come first, in the table's order; then the events that the
hardware, the firmware agents, the driver, the host and the management plane cause (spec/95). -/

namespace Sys2Proof

/-- Sub-field I of an integer vector form (R145). -/
inductive IType | s8 | n8 | s16 | n16 | s32 | n32 | s64 | n64
  deriving DecidableEq, Repr

/-- Sub-field L of a global load (R145). -/
inductive LType | s8 | n8 | s16 | n16 | b32 | b64
  deriving DecidableEq, Repr

/-- Sub-field W: raw 32 or 64 bits (R145). -/
inductive Wid | b32 | b64
  deriving DecidableEq, Repr

/-- Widths of a global store (R220). -/
inductive StW | b8 | b16 | b32 | b64
  deriving DecidableEq, Repr

/-- Widths of a tile or vault access (R220). -/
inductive TvW | b32 | b64 | b128
  deriving DecidableEq, Repr

/-- Sub-field J (R145). -/
inductive JType | s32 | n32 | s64 | n64
  deriving DecidableEq, Repr

/-- Sub-field F: the floating-point formats of R112. -/
inductive FType | f16 | bf16 | f32 | f64
  deriving DecidableEq, Repr

/-- Sub-field N: the rounding modes of R113. -/
inductive Rnd | rne | rz | ru | rd
  deriving DecidableEq, Repr

/-- Condition codes of integer compares (R145). -/
inductive Cond | eq | ne | lt | le | gt | ge
  deriving DecidableEq, Repr

/-- Conditions of FCMP .eq and .ne (R190). -/
inductive FCondE | eq | ne
  deriving DecidableEq, Repr

/-- Conditions of FCMP .lt and .le (R190). -/
inductive FCondL | lt | le
  deriving DecidableEq, Repr

/-- Conditions of FCMP .gt, .ge, .un and .ord (R190). -/
inductive FCondG | gt | ge | un | ord
  deriving DecidableEq, Repr

/-- Types of a scan or a reduction across lanes (R203). -/
inductive RType | s32 | n32 | s64 | n64 | f32 | f64
  deriving DecidableEq, Repr

/-- Types of AADD, red.add and red.min (R228, R229). -/
inductive AType | s32 | n32 | s64 | n64 | f32 | f64
  deriving DecidableEq, Repr

/-- Types of AMIN_32 and red.max's 32-bit integer forms. -/
inductive AType32 | s32 | n32
  deriving DecidableEq, Repr

/-- Types of AMIN's and red.max's wide and floating-point forms. -/
inductive AType64F | s64 | n64 | f32 | f64
  deriving DecidableEq, Repr

/-- Types of AMAX's integer forms. -/
inductive ATypeInt | s32 | n32 | s64 | n64
  deriving DecidableEq, Repr

/-- Types of AMAX's floating-point forms. -/
inductive ATypeFp | f32 | f64
  deriving DecidableEq, Repr

/-- Scope of an access or fence (R10, R87). -/
inductive Scope | core | clu | die | stk | ipr | pkg | sys
  deriving DecidableEq, Repr

/-- Order of an access (R88). -/
inductive Order | rlx | acq | rel | ar
  deriving DecidableEq, Repr

/-- Kinds of FENCE (R232). -/
inductive FenceKind | acq | rel | ar
  deriving DecidableEq, Repr

/-- Address spaces of Prism operations (R265). -/
inductive Space | glob | tile | vault
  deriving DecidableEq, Repr

/-- Operations of SWP (R210). -/
inductive SwpOp | copy | add | sub | mul | fma | min | max | abs | neg | scale | axpy | fill
  deriving DecidableEq, Repr

/-- Operations of SWPR (R211). -/
inductive SwprOp | add | max | min
  deriving DecidableEq, Repr

/-- Element types of PADD (R267). -/
inductive PaddTy | s32 | s64 | f32 | f64
  deriving DecidableEq, Repr

/-- Copy widths of PCPY (R266). -/
inductive PcpyW | w4 | w8 | w16
  deriving DecidableEq, Repr

/-- Types of a matrix operand (R239). -/
inductive MType | dx4 | dx8 | bf16 | fp16 | fp32 | fp64
  deriving DecidableEq, Repr

/-- A source operand of a V-format form or of a store, as R138 names it. A literal carries its value (R140). -/
inductive Src
  | v (r : Fin 96)
  | s (r : Fin 16)
  | int (k : Fin 4)
  | flt (k : Fin 4)
  | special (k : Fin 4)
  | lit32 (w : BitVec 32)
  | lit64 (w : BitVec 64)
  deriving DecidableEq, Repr

/-- The b9 operand of an S-format form (R136). -/
inductive SSrc
  | s (r : Fin 64)
  | imm (i : BitVec 8)
  | lit32 (w : BitVec 32)
  | lit64 (w : BitVec 64)
  deriving DecidableEq, Repr

/-- The address of an M-format access, by mode (R137). -/
inductive MAddr
  | s (r : Fin 64)
  | sv (base : Fin 8) (off : Fin 16)
  | pair (k : Fin 48)
  | slit (r : Fin 64) (w : BitVec 32)
  deriving DecidableEq, Repr

/-- The base of CSTORE and XLOAD: a scalar, or a scalar and a literal (R224). -/
inductive CAddr
  | s (r : Fin 64)
  | slit (r : Fin 64) (w : BitVec 32)
  deriving DecidableEq, Repr

/-- Scope and order fields of an M-format access (R87, R88). -/
structure Acc where
  scope : Scope
  order : Order
  deriving DecidableEq, Repr

/-- A packet-relative target: signed packet offset and slot (R131). -/
structure Target where
  off : BitVec 12
  slot : Fin 3
  deriving DecidableEq, Repr

/-- The fixed literal of BRD (R157). -/
structure BrdLit where
  tix : BitVec 16
  ep : Bool
  recon : Target
  deriving DecidableEq, Repr

/-- The condition of BZ and BNZ: a v-register or s0 to s15 (R155). -/
inductive BCond
  | v (r : Fin 96)
  | s (r : Fin 16)
  deriving DecidableEq, Repr

/-- A destination that may be a v-register or s0 to s15 (R139, R202, R203). -/
inductive VSDst
  | v (r : Fin 96)
  | s (r : Fin 16)
  deriving DecidableEq, Repr

/-- The b operand of LBC: codes 96 to 115 or a literal-32 (R202). -/
inductive LbcSrc
  | s (r : Fin 16)
  | int (k : Fin 4)
  | lit32 (w : BitVec 32)
  deriving DecidableEq, Repr

/-- System register numbers (R165, R340, R341). -/
inductive SysReg
  | ctxsave | gotb | trapvec | ejt | ejto | ejst | fault | faddr | fidx | mstat | fpstat | mode | place
  | agid | fwbase | apoll | aasid
  deriving DecidableEq, Repr

/-- The swizzle of a matrix B operand or of PCPYS: chunk code and field code (R245, R246). -/
structure Swz where
  cs : Fin 4
  sb : Fin 4
  deriving DecidableEq, Repr

/-- The fields that MMA and MMAC share (R246). -/
structure MmaF where
  x : Fin 96
  glob : Bool
  sreg : Fin 64
  t : Fin 10
  ta : MType
  tb : MType
  tacc : Bool
  bla : Bool
  blb : Bool
  keep : Bool
  e : Fin 128
  scope : Scope
  swz : Option Swz
  deriving DecidableEq, Repr

/-- The MMAC fields of the fixed literal (R253). -/
structure MmacF where
  splitK : Bool
  hm : Fin 3
  wm : Fin 4
  deriving DecidableEq, Repr

/-- Fields of MRD and MWR (R259). -/
structure MrwF where
  v : Fin 96
  g : Fin 4
  t : Fin 10
  rnd : Rnd
  f : FType
  tf64 : Bool
  deriving DecidableEq, Repr

/-- A function of the readiness bitmap (R383). -/
inductive Func
  | key
  | peer (l : Fin 8)
  | cxl (p : Fin 4)
  | hbm (h : Fin 8)
  | base (s : Fin 4)
  | vault (d : Fin 8)
  | die (d : Fin 8)
  deriving DecidableEq, Repr

/-- Registers that the host or the firmware reads and writes outside the instruction set (R7): an interface's window,
the context tables, the transcode windows, the management window, and the driver's settings. -/
inductive HostReg
  | viinfo (vi : Nat)
  | vistat (vi : Nat)
  | rbase (vi : Nat)
  | rcfg (vi : Nat)
  | rcmd (vi : Nat)
  /-- An offset of the partition registers, in the window of an interface. -/
  | part (vi off : Nat)
  | qctl (vi q : Nat)
  | qbase (vi q : Nat)
  | qctx (vi q : Nat)
  | qwr (vi q : Nat)
  | qrd (vi q : Nat)
  | qdl (vi q : Nat)
  | qdec (vi q : Nat)
  | qres (vi q : Nat)
  | ctxWord (vi n : Nat) (w : Nat)
  | twap (stack n : Nat)
  | twsize (stack n : Nat)
  | twelem (stack n : Nat)
  | twscale (stack n : Nat)
  | twctl (stack n : Nat)
  | rdymap
  | rdyfail
  | hbmcfg
  | keyctl
  | keybase
  | keylen
  | dqctl (d : Nat)
  /-- The partition and the ASID range of an interface, as the driver of an interface writes them. -/
  | partition (by' vi : Nat)
  | asidRange (by' vi : Nat)
  | fwRegion (vi : Nat)
  | ctxTable (vi : Nat)
  | fwRoot
  | occupancy (pcore : Nat)
  | lpool (asid : Nat)
  | other (off : Nat)
  deriving DecidableEq, Repr

/-- An image offered to the trust die for verification: its bytes, header and body (R379). -/
structure Image where
  bytes : List Byte
  deriving DecidableEq, Repr

/-- A drain query or its answer: the cluster whose release drains, the slice asked, by its place among those of the
release's scope, and that scope (R93, R96). -/
structure DrainAsk where
  clu : Nat
  slice : Nat
  scope : Scope
  deriving DecidableEq, Repr

/-- Operation of an atomic performed on one word (R228 to R230). -/
inductive AtOp | add | min | max | and | or | xor | xchg | cas | incw | pbf
  deriving DecidableEq, Repr

/-- Where an error of a memory stands (R406, R413): a line of HBM, or a word of the SRAM of a structure in a unit. The
units of structure 6, the directories, are the compute dies 0 to 7 and then the base dies. -/
inductive EccPlace
  | hbm (line : Nat)
  | sram (part : Fin 10) (unit word : Nat)
  deriving DecidableEq, Repr

/-- An error of a memory (R413, R414): its place, how many symbols of the line or bits of the word are wrong, and
whether it arises behind the scrub, and so stands until an access or a later pass meets it. -/
structure EccErr where
  place : EccPlace
  wrong : Nat
  later : Bool
  deriving DecidableEq, Repr

/-- What an incoming peer request does (R402): a read, a write of the value, an atomic of a type with the value as its
operand, or a compare and exchange of up to 16 bytes. -/
inductive PeerOp
  | read
  | write
  | atomic (op : AtOp) (t : AType)
  | cas (cmp new : BitVec 128)
  deriving DecidableEq, Repr

/-- Instructions of the machine and the events that happen to it: one constructor per row of the opcode table. -/
inductive Instr
  -- control (R154 to R163)
  | nop
  | br (t : Target)
  | bz (c : BCond) (t : Target)
  | bnz (c : BCond) (t : Target)
  | bp (p : Fin 8) (t : Target)
  | brd (p : Fin 8) (t : Target) (l : BrdLit)
  | jmpi (a : Fin 64)
  | call (l : Fin 16) (t : Target)
  | calli (d a : Fin 64)
  | ret (a : Fin 64)
  | exit
  | trap (code : BitVec 8)
  | tret
  | hdone
  | srd (d : Fin 64) (r : SysReg)
  | swr (r : SysReg) (b : SSrc)
  | featq (d : Fin 64) (b : SSrc)
  | physq (d : Fin 64) (b : SSrc)
  | time (d : Fin 64)
  | bkpt
  -- scalar (R172 to R179)
  | smov (d : Fin 64) (b : SSrc)
  | sadd (d a : Fin 64) (b : SSrc)
  | saddSat (u : Bool) (d a : Fin 64) (b : SSrc)
  | ssub (d a : Fin 64) (b : SSrc)
  | ssubSatS64 (d a : Fin 64) (b : SSrc)
  | ssubSatN64 (d a : Fin 64) (b : SSrc)
  | smul (d a : Fin 64) (b : SSrc)
  | smulh (u : Bool) (d a : Fin 64) (b : SSrc)
  | sdiv (u : Bool) (d a : Fin 64) (b : SSrc)
  | srem (u : Bool) (d a : Fin 64) (b : SSrc)
  | sand (d a : Fin 64) (b : SSrc)
  | sor (d a : Fin 64) (b : SSrc)
  | sxor (d a : Fin 64) (b : SSrc)
  | sshl (d a : Fin 64) (b : SSrc)
  | sshr (d a : Fin 64) (b : SSrc)
  | ssra (d a : Fin 64) (b : SSrc)
  | ssel (d a : Fin 64) (b : SSrc)
  | sminS64 (d a : Fin 64) (b : SSrc)
  | sminN64 (d a : Fin 64) (b : SSrc)
  | smaxS64 (d a : Fin 64) (b : SSrc)
  | smaxN64 (d a : Fin 64) (b : SSrc)
  | spopc (d : Fin 64) (b : SSrc)
  | sclz (d : Fin 64) (b : SSrc)
  | sbfxS64 (d a : Fin 64) (b : SSrc)
  | sbfxN64 (d a : Fin 64) (b : SSrc)
  | sbfi (d a : Fin 64) (b : SSrc)
  | sadda (d a : Fin 64) (b : SSrc)
  | scmp (c : Cond) (u : Bool) (d a : Fin 64) (b : SSrc)
  | sld (w : Wid) (d a : Fin 64) (b : SSrc)
  | sst (w : Wid) (d a : Fin 64) (b : SSrc)
  | sldg (d : Fin 64) (b : SSrc)
  | sldl (w : Wid) (d : Fin 64) (t : Target)
  | vtos (d a : Fin 64) (v : Fin 96)
  -- vector, integer and logic (R180 to R188)
  | vadd (t : IType) (d : Fin 96) (a b : Src)
  | vaddSat (t : IType) (d : Fin 96) (a b : Src)
  | vsub (t : IType) (d : Fin 96) (a b : Src)
  | vsubSat (t : IType) (d : Fin 96) (a b : Src)
  | vmul (t : IType) (d : Fin 96) (a b : Src)
  | vmulh (t : IType) (d : Fin 96) (a b : Src)
  | vmad (t : IType) (d : Fin 96) (a b : Src)
  | vmin (t : IType) (d : Fin 96) (a b : Src)
  | vmax (t : IType) (d : Fin 96) (a b : Src)
  | vshl (w : Wid) (d : Fin 96) (a b : Src)
  | vshr (w : Wid) (d : Fin 96) (a b : Src)
  | vsra (w : Wid) (d : Fin 96) (a b : Src)
  | vmov (w : Wid) (d : Fin 96) (a : Src)
  | vand (w : Wid) (d : Fin 96) (a b : Src)
  | vor (w : Wid) (d : Fin 96) (a b : Src)
  | vxor (w : Wid) (d : Fin 96) (a b : Src)
  | vnot (w : Wid) (d : Fin 96) (a : Src)
  | vbfx (t : JType) (d : Fin 96) (a b : Src)
  | vbfi (w : Wid) (d : Fin 96) (a b : Src)
  | vaddc (w : Wid) (d : Fin 96) (a b : Src)
  | vsel (p : Fin 8) (w : Wid) (d : Fin 96) (a b : Src)
  | vabs (t : IType) (d : Fin 96) (a : Src)
  | vneg (t : IType) (d : Fin 96) (a : Src)
  | vcmp (c : Cond) (t : IType) (p : Fin 7) (a b : Src)
  | vpopc (w : Wid) (d : Fin 96) (a : Src)
  | vclz (w : Wid) (d : Fin 96) (a : Src)
  -- vector, floating point (R189 to R196)
  | fadd (f : FType) (n : Rnd) (d : Fin 96) (a b : Src)
  | fsub (f : FType) (n : Rnd) (d : Fin 96) (a b : Src)
  | fmul (f : FType) (n : Rnd) (d : Fin 96) (a b : Src)
  | ffma (f : FType) (n : Rnd) (d : Fin 96) (a b : Src)
  | fdiv (f : FType) (d : Fin 96) (a b : Src)
  | fcmpEqNe (c : FCondE) (f : FType) (p : Fin 7) (a b : Src)
  | fcmpLtLe (c : FCondL) (f : FType) (p : Fin 7) (a b : Src)
  | fcmpGtGeUnOrd (c : FCondG) (f : FType) (p : Fin 7) (a b : Src)
  | fmin (f : FType) (d : Fin 96) (a b : Src)
  | fmax (f : FType) (d : Fin 96) (a b : Src)
  | fscale (f : FType) (n : Rnd) (d : Fin 96) (a b : Src)
  | fabs (f : FType) (d : Fin 96) (a : Src)
  | fneg (f : FType) (d : Fin 96) (a : Src)
  | fclass (f : FType) (d : Fin 96) (a : Src)
  | frnd (f : FType) (n : Rnd) (d : Fin 96) (a : Src)
  | frcp (f : FType) (d : Fin 96) (a : Src)
  | frsq (f : FType) (d : Fin 96) (a : Src)
  | fsqrt (f : FType) (d : Fin 96) (a : Src)
  | fexp2 (f : FType) (d : Fin 96) (a : Src)
  | flog2 (f : FType) (d : Fin 96) (a : Src)
  | fsinp (f : FType) (d : Fin 96) (a : Src)
  | fcosp (f : FType) (d : Fin 96) (a : Src)
  | ftanh (f : FType) (d : Fin 96) (a : Src)
  | cvt (r f : FType) (n : Rnd) (d : Fin 96) (a : Src)
  | cvtiF2i (j : JType) (f : FType) (n : Rnd) (d : Fin 96) (a : Src)
  | cvtiI2f (j : JType) (f : FType) (n : Rnd) (d : Fin 96) (a : Src)
  | dxenc (scl b16 dx4 : Bool) (d : Fin 96) (a : Src)
  | dxdec (dx4 : Bool) (d : Fin 96) (a : Src)
  -- lane instructions (R200 to R205)
  | qswx (w : Wid) (d a : Fin 96)
  | qswy (w : Wid) (d a : Fin 96)
  | qswd (w : Wid) (d a : Fin 96)
  | qbc (w : Wid) (k : Fin 4) (d a : Fin 96)
  | lshfl (d a : Fin 96) (b : Src)
  | lbc (d : VSDst) (a : Fin 96) (b : LbcSrc)
  | lscanAdd (t : RType) (exc : Bool) (d a : Fin 96)
  | lscanMax (t : RType) (exc : Bool) (d a : Fin 96)
  | lredAdd (t : RType) (d : VSDst) (a : Fin 96)
  | lredMax (t : RType) (d : VSDst) (a : Fin 96)
  | lredMin (t : RType) (d : VSDst) (a : Fin 96)
  | lredOr (w : Wid) (d : VSDst) (a : Fin 96)
  | ballot (d : Fin 14) (p : Fin 8)
  | syncm (a : Fin 94)
  -- sweeps (R206 to R213)
  | swp (op : SwpOp) (n : Rnd) (y : Fin 64) (z : Fin 64)
  | swpr (op : SwprOp) (n : Rnd) (acc : Bool) (axis : Fin 4) (y : Fin 64)
  | swpc (n : Rnd) (y : Fin 64)
  | itrst
  -- memory (R220 to R226)
  | ld (t : LType) (d : Fin 96) (m : MAddr) (x : Acc)
  | st (w : StW) (a : Src) (m : MAddr) (x : Acc)
  | ldq (d : Fin 96) (m : MAddr) (x : Acc)
  | stq (d : Fin 96) (m : MAddr) (x : Acc)
  | pref (m : MAddr)
  | ldt (w : TvW) (d : Fin 96) (m : MAddr) (x : Acc)
  | stt (w : TvW) (a : Src) (m : MAddr) (x : Acc)
  | ldv (w : TvW) (d : Fin 96) (m : MAddr) (x : Acc)
  | stv (w : TvW) (a : Src) (m : MAddr) (x : Acc)
  | ldac (v : Fin 96) (t : Fin 10) (g : Fin 4) (f64 : Bool) (x : Acc)
  | stac (v : Fin 96) (t : Fin 10) (g : Fin 4) (f64 : Bool) (x : Acc)
  | cstore (w : Wid) (a : Src) (m : CAddr) (x : Acc)
  | xload (w : Wid) (d : Fin 96) (m : CAddr) (x : Acc)
  -- atomics and reductions (R227 to R231)
  | aadd (t : AType) (d : Fin 96) (m : MAddr) (x : Acc)
  | amin32 (t : AType32) (d : Fin 96) (m : MAddr) (x : Acc)
  | amin64Fp (t : AType64F) (d : Fin 96) (m : MAddr) (x : Acc)
  | amaxInt (t : ATypeInt) (d : Fin 96) (m : MAddr) (x : Acc)
  | amaxFp (t : ATypeFp) (d : Fin 96) (m : MAddr) (x : Acc)
  | aand (w : Wid) (d : Fin 96) (m : MAddr) (x : Acc)
  | aor (w : Wid) (d : Fin 96) (m : MAddr) (x : Acc)
  | axor (w : Wid) (d : Fin 96) (m : MAddr) (x : Acc)
  | axchg (w : Wid) (d : Fin 96) (m : MAddr) (x : Acc)
  | acas (w : Wid) (d : Fin 96) (m : MAddr) (x : Acc)
  | acasB128 (d : Fin 96) (m : MAddr) (x : Acc)
  | aincwN32 (d : Fin 96) (m : MAddr) (x : Acc)
  | aincwN64 (d : Fin 96) (m : MAddr) (x : Acc)
  | redAdd (t : AType) (a : Src) (m : MAddr) (x : Acc)
  | redAddPbf16 (a : Src) (m : MAddr) (x : Acc)
  | redMin (t : AType) (a : Src) (m : MAddr) (x : Acc)
  | redMax32 (t : AType32) (a : Src) (m : MAddr) (x : Acc)
  | redMax64Fp (t : AType64F) (a : Src) (m : MAddr) (x : Acc)
  | redAnd (w : Wid) (a : Src) (m : MAddr) (x : Acc)
  | redOr (w : Wid) (a : Src) (m : MAddr) (x : Acc)
  | redXor (w : Wid) (a : Src) (m : MAddr) (x : Acc)
  -- synchronisation (R232 to R238)
  | fence (s : Scope) (k : FenceKind)
  | fenceV
  | bar (n : Fin 16)
  | cbar
  | waitc (k : Fin 32) (a : Fin 64) (s : Scope) (t : Target)
  | waitq (d a : Fin 64) (s : Scope) (k : Fin 16)
  -- matrix (R246 to R259)
  | mma (f : MmaF)
  | mmac (f : MmaF) (c : MmacF)
  | mzero (f64 : Bool) (t : Fin 10)
  | mrd (f : MrwF)
  | mwr (f : MrwF)
  -- engines, counters, rings and tasks (R264 to R286)
  | pcpy (w : PcpyW) (ring : Bool) (d s : Fin 48) (dsp ssp : Space) (ch : Fin 8)
  | pcpyi (dir : Bool) (ch : Fin 8) (n : Fin 62)
  | pcpys (ch : Fin 2) (n : Fin 62) (z : Swz)
  | padd (ty : PaddTy) (d s : Fin 48) (dsp ssp : Space) (ch : Fin 8)
  | zrst (n : Fin 64)
  | zprl (n : Fin 64)
  | zcpy (n : Fin 64)
  | ztbl (k : Fin 32) (n : Fin 64) (slot : Fin 4)
  | tcrd (d : Fin 64) (k : Fin 32)
  | tcinc (s : Scope) (k : Fin 32) (a : Fin 64)
  | qpubClaim (d : Fin 64) (k : Fin 16) (a : Fin 64)
  | qpubPub (s : Scope) (k : Fin 16) (a : Fin 63)
  | qrel (s : Scope) (k : Fin 16) (a : Fin 63)
  | qerr (k : Fin 16) (code : BitVec 7)
  | qstat (d : Fin 64) (k : Fin 16) (w : Fin 8)
  | qrestart (d : Fin 64) (a : Fin 63) (h : Bool)
  | temit (s : Scope) (k : Fin 16) (a : Fin 64) (p : Fin 8)
  | tdone (s : Scope) (a : Fin 64) (p : Fin 8)
  -- a word whose opcode is not assigned (R143, R144): here because the decoder makes it
  | unassignedOpcode (w : BitVec 32)
  -- events: registers, readiness and deferred accesses
  | registerWrite (r : HostReg) (v : BitVec 64)
  | functionReady (f : Func)
  | functionMarkedFailed (f : Func)
  | deferredDataArrival (page : Nat)
  | secondTierTimeout (page : Nat)
  -- events of groups, fragments, blocks and Loupe threads
  | parkedResume (gid ent : Nat)
  | fragmentFusion (gid tag : Nat)
  | deferralAdvance (gid ent : Nat)
  | asyncEventTaken (gid : Nat)
  | preemption (vi n : Nat)
  | forcedSave (bid : Nat)
  | resume (coh pcore : Nat)
  | recall (tid : Nat)
  | rejoin (tid : Nat)
  | recordFusion (gid r : Nat)
  | rejoinTimeout (gid : Nat)
  | heldLaneSend (gid r : Nat)
  -- vaults and transcode windows
  | vownWrite (vault : Nat) (v : BitVec 64)
  | vaultScrubDone (vault : Nat)
  | vaultAccess (gid vault : Nat)
  | vaultWriteAck (gid vault : Nat)
  | twctlEnable (win : Nat)
  | twctlDisable (win : Nat)
  | twFlushDone (win : Nat)
  -- caches, directories and their messages
  | llcEviction (line : Nat)
  | clusterCacheEviction (clu line : Nat)
  | wt (core : Nat)
  | rds (clu line : Nat)
  | rdx (clu line : Nat) (s : Scope)
  | upg (clu line : Nat) (s : Scope)
  | fwd (unit line : Nat)
  | inv (unit line : Nat)
  | inva (unit line : Nat)
  | pub (unit line : Nat)
  | puba (unit line : Nat)
  | drq (q : DrainAsk)
  | dra (q : DrainAsk)
  | ath (clu pa : Nat) (op : AtOp) (t : AType) (x : BitVec 64)
  | data (clu line : Nat)
  -- engines and rings
  | engineOpComplete (bid k num : Nat)
  | engineFaultStall (bid k num : Nat)
  | ringPcpyPublish (ring : Nat) (i : BitVec 32)
  -- queues, packets and agents
  | dependencyDecrement (vi n : Nat) (addr : BitVec 64)
  | remainDecrement (lrec : Nat)
  | readyListPush (vi l : Nat)
  | queueEnable (vi q : Nat)
  | queueReset (vi q : Nat)
  | quiesceToken (isCtx : Bool) (vi n : Nat)
  | quiesceTokenTimeout (vi q die : Nat)
  | queueDoorbell (vi q : Nat) (v : BitVec 32)
  | packetAdmission (vi q : Nat)
  | qdecWrite (vi q : Nat) (addr : BitVec 64)
  | ringCreate (vi : Nat)
  | ringDestroy (vi n : Nat)
  | ringRestart (vi n : Nat)
  | signalExecute (pkt : Nat)
  | fenceqComplete (pkt : Nat)
  | startRecordTake (pcore : Nat)
  | agentClaimPass (pcore : Nat)
  | agentReset (pcore : Nat) (code : BitVec 8)
  | blockKill (bid : Nat)
  | waitCycleExchange
  -- contexts
  | ctxCreate (vi n : Nat)
  | ctxStop (vi n : Nat)
  | ctxResume (vi n : Nat)
  | ctxEnd (vi n : Nat)
  | ctxReplay (vi n : Nat)
  | ctxInvalidate (vi n : Nat)
  | atsInvalidateRequest (vi : Nat) (pasid : BitVec 20) (va : BitVec 64) (lg : Nat)
  | invalidationComplete (vi n : Nat)
  | fltrdWrite (vi n : Nat) (v : BitVec 32)
  -- bring-up, keys, quiesce
  | powerGood
  | baseDieRelease (s : Fin 4) (img cfg : Image) (body : List Byte)
  | linkTrained (f : Func)
  | computeDieRelease (d : Fin 8) (die vault agent : Image)
  | keyInstall (asid : Fin 512)
  | keyDestroy (asid : Fin 512)
  | keySeal (asid : Fin 512)
  | keyctlComplete
  | dieQuiesce (d : Fin 8)
  | dieDrainComplete (d : Fin 8)
  | dieQuiesceDeadline (d : Fin 8)
  | rebuildComplete (d : Fin 8)
  | dieReturn (d : Fin 8) (die vault agent : Image)
  -- SPDM requests (R381)
  | getVersion
  | getCapabilities
  | negotiateAlgorithms (req : List Byte)
  | getDigests
  | getCertificate (slot : Fin 8) (off len : Nat)
  | challenge (slot : Fin 8) (nonce : BitVec 256)
  | getMeasurements (idx : BitVec 8) (sign : Bool) (nonce : BitVec 256)
  | keyExchange (req : List Byte)
  | finish (req : List Byte)
  -- outside accesses
  | hostMemoryAccess (write : Bool) (pa : Nat) (size : Nat) (v : BitVec 64)
  | backInvalidate (line : Nat)
  | peerRequest (link : Fin 8) (op : PeerOp) (pa : Nat) (size : Nat) (v : BitVec 64)
  -- log, power and the management plane
  | mirror (addr : BitVec 64) (lg : Nat)
  | logack (seq : Nat)
  | logrd (seq n : Nat)
  | ckpt (seq : Nat)
  | telem
  | pwrcap (w : Nat)
  | logAppend (typ : BitVec 8) (loc : BitVec 16) (data : BitVec 64)
  | droopSag (clu : Fin 64) (k : Fin 16)
  | droopStepDown (clu : Fin 64)
  | powerCapLoop (k : Fin 16)
  | thermalThrottle (loc : BitVec 16) (temp : BitVec 8) (k : Fin 16)
  | thermalTrip (loc : BitVec 16) (temp : BitVec 8)
  | packageReset (cause : BitVec 8)
  | patrolScrub (e : EccErr)
  | cxlCacheSnoop (line : Nat) (invalidate : Bool)
  | powerLoss
  | liveMigration (vi : Nat) (incoming : Bool) (stop : BitVec 64)
  | reservedDoeRequest (code : BitVec 8)
  deriving DecidableEq, Repr

end Sys2Proof
end

