-- ==== Sys2Proof/Machine/State.lean ====
section
/-! DEFINITION. The state of one package as plain data: groups and their fragments, blocks and cohorts, the memory
system, rings, interfaces, agents, the management plane; and the fields of the model's own. -/

namespace Sys2Proof.Machine

/-- Why the machine stops for good. -/
inductive Fault
  /-- Raised by `step` while the module's power is removed (thermal trip, R417; POWER_LOSS, R410) and no event of the
  agenda brings it back: safe, since no party of the package executes. -/
  | powerOff
  deriving DecidableEq, Repr

/-- Why an instruction has no meaning in this model. -/
inductive Refusal
  /-- Raised only by an arm of `exec` whose instruction has not been modelled yet: safe. -/
  | notModelled (mnemonic : String)
  deriving DecidableEq, Repr

/-- Pipes of R132. -/
inductive Pipe | s | v | m | x | b
  deriving DecidableEq, Repr

/-! ### Fragments (R32, R46) -/

/-- STATE of a split-table entry (R32). -/
inductive FState | ready | parked | waiting | recalled | held
  deriving DecidableEq, Repr

/-- What a sweep that stands at an element boundary has read: its records, the scalar, sr.mode.FTZ (R207, R208). -/
structure SweepKeep where
  recs : List Nat
  x : Word64
  ftz : Bool
  deriving DecidableEq, Repr

/-- What a parked fragment waits for (R31, R44, R238, R368). -/
inductive Wait
  | none
  /-- WAITC: counter handle and target. -/
  | counter (k : Nat) (n : Word64)
  /-- WAITQ: ring number and slot index. -/
  | ring (r : Nat) (i : BitVec 32)
  /-- A ring PCPY without room (R268). -/
  | room (r : Nat)
  /-- TEMIT of n records (R285). -/
  | emit (r n : Nat)
  /-- BAR n at a generation (R38); barrier 16 is the handlers' barrier (R45). -/
  | bar (n gen : Nat)
  | cbar (gen : Nat)
  | syncm
  | mmac
  /-- A deferred response for a page (R20, R82). -/
  | deferred (page : Nat)
  /-- A function of the readiness bitmap that is not ready (R20). -/
  | notReady (f : Func)
  /-- A vault that is being scrubbed (R77). -/
  | scrub (vault : Nat)
  /-- Lanes whose accesses wait for different targets: functions, pages and vaults (R20). -/
  | several (fs : List Func) (pages vaults : List Nat)
  /-- A page fault (R368). -/
  | fault
  /-- A page fault whose record, by its number, is held (R367). -/
  | record (k : BitVec 32)
  /-- A Loupe thread that no split-table entry is free for (R60). -/
  | entry
  /-- HDONE while engine operations of the block are outstanding (R263). -/
  | engines
  /-- An accumulator tile, or an FP64 pair, that an MMAC at its rendezvous uses (R223). -/
  | acc (f64 : Bool) (t : Nat)
  /-- A sweep that has stopped at an element boundary, and holds the X pipe (R44, R208). -/
  | sweep (k : SweepKeep)
  /-- A sweep whose writes have still to be performed or accepted (R208). -/
  | stores
  /-- SRD or SWR of a flag register, behind an earlier word of the group that sets flags (R164). -/
  | flags
  deriving DecidableEq, Repr

/-- The waits of an access: one for each target (R20). -/
def Wait.parts (w : Wait) : List Wait := match w with
  | .several fs ps vs => fs.map .notReady ++ ps.map .deferred ++ vs.map .scrub
  | w => [w]

/-- The wait of several accesses of one instruction. -/
def Wait.join (ws : List Wait) : Wait := match (ws.flatMap Wait.parts).eraseDups with
  | [w] => w
  | ps => .several
    (ps.filterMap fun w => match w with
      | .notReady f => some f
      | _ => Option.none)
    (ps.filterMap fun w => match w with
      | .deferred p => some p
      | _ => Option.none)
    (ps.filterMap fun w => match w with
      | .scrub v => some v
      | _ => Option.none)

/-- A sweep that holds its core's X pipe (R208). -/
def Wait.holdsPipe (w : Wait) : Bool := match w with
  | .sweep _ | .stores => true
  | _ => false

/-- What the sources of a chain's words are read from: registers and mask as they stood before it (R133). -/
structure Snap where
  v : Store Row
  p : Store Mask
  s : Store Word64
  mask : Mask
  deriving DecidableEq, Repr

/-- An entry of the split table, or the handler fragment beside it (R32, R46). -/
structure Entry where
  valid : Bool := false
  st : FState := .ready
  /-- STATE and wait before the entry was trap-held (R45); the wait of a barrier stands (R44). -/
  saved : FState := .ready
  pc : PC := 0
  mask : Mask := 0
  dom : Mask := 0
  rpc : PC := 0xFFFFFFFF
  join : Nat := 15
  srpc : PC := 0xFFFFFFFF
  sjoin : Nat := 15
  wait : Wait := .none
  /-- Step at which the fragment became ready: the issue order of R30. -/
  since : Nat := 0
  /-- Wait sequence: the step at which the latest wait began (R357). -/
  wseq : Nat := 0
  /-- It is parked at a word that was issued and sets flags: a sweep, MMA or MMAC (R116, R126, R164). -/
  flagged : Bool := false
  /-- Only the word at pc is issued, and the fragment then goes on at this program counter: the parked word of a
  chain whose other words have taken effect (R154). -/
  cont : Option PC := none
  /-- A word on the B pipe of the same chain, to be issued alone once the parked word has been passed (R154). -/
  after : Option PC := none
  /-- What that word reads its sources from. -/
  pre : Option Snap := none
  deriving DecidableEq, Repr

/-- A record of the deferral stack (R35). -/
structure Defer where
  owner : Nat := 0
  rpc : PC := 0
  pc : PC := 0
  mask : Mask := 0
  arrived : Mask := 0
  phase : Bool := false
  deriving DecidableEq, Repr

/-- An ejection record (R55). -/
structure Rec where
  valid : Bool := false
  tix : BitVec 16 := 0
  rpc : PC := 0
  srpc : PC := 0
  sjoin : Nat := 0
  onl : Mask := 0
  held : Mask := 0
  dom : Mask := 0
  mask : Mask := 0
  timer : BitVec 32 := 0
  stopped : Bool := false
  /-- Step at which the held lanes asked for Loupe contexts (R57, R68). -/
  asked : Nat := 0
  /-- The record's ejection table entry, fixed while the context exists (R53, R307). -/
  lin : Mask := 0
  lout : Mask := 0
  pin : BitVec 7 := 0
  pout : BitVec 7 := 0
  /-- Program counter and scalar image of each held lane, keyed by lane. -/
  hpc : Store PC := []
  hscl : Store (Store Word64) := []
  deriving DecidableEq, Repr

/-- A waiting set of SYNCM (R205): membership, arrived lanes, and the entries that wait in it. -/
structure SyncSet where
  m : Mask
  arrived : Mask
  ents : List Nat
  deriving DecidableEq, Repr

/-- A held keep latch (R252): its tag and A operand, with the exponent image. -/
structure Keep where
  x : Nat
  e : Nat
  ta : MType
  bla : Bool
  regs : List Row
  exps : List Row
  deriving DecidableEq, Repr

/-- A handler in progress (R45, R161, R421): the code of the event served. -/
structure Handler where
  code : BitVec 8
  /-- The pre-emption save handler, before HDONE. -/
  save : Bool
  /-- The restore handler (R48). -/
  restore : Bool
  deriving DecidableEq, Repr

/-- An asynchronous event held for a group (R44): its code with the data of R366. -/
structure Pend where
  code : BitVec 8
  info : BitVec 16
  deriving DecidableEq, Repr

/-- The arrival of a group at an MMAC (R255). -/
structure MmacArrival where
  f : MmaF
  c : MmacF
  ent : Nat
  a : List Row
  e : List Row
  /-- Address of its B operand. -/
  b : Word64
  mask : Mask
  deriving DecidableEq, Repr

/-- What kind of issuing party a group value stands for. -/
inductive GKind
  | user
  | agent
  /-- A Loupe thread: the group it serves, its ejection record, its lane (R58). -/
  | loupe (parent recNo lane : Nat)
  deriving DecidableEq, Repr

/-- System registers of a group that hold state of their own (R50 to R52, R115, R116, R126, R165, R225, R340). -/
structure SysRegs where
  ctxsave : Word64 := 0
  gotb : Word64 := 0
  trapvec : Word64 := 0
  ejt : BitVec 4 := 4
  ejto : BitVec 32 := 0x00400000
  /-- sr.ejst.ACT as last written, REC, TOUT (R52). -/
  act : Bool := false
  recNo : BitVec 2 := 0
  tout : BitVec 4 := 0
  fault : Word64 := 0x7F <<< 41
  faddr : Word64 := 0
  fidxV : Bool := false
  fidxIx : BitVec 7 := 0
  fidxPc : PC := 0
  mnv : Bool := false
  mov : Bool := false
  /-- NX, UF, OF, DZ, NV in bits 4:0 (R116). -/
  fpstat : BitVec 5 := 0
  ftz : Bool := false
  vcore : BitVec 9 := 0
  /-- Interface, OUT of sr.agid (R340). -/
  ifn : BitVec 8 := 0
  agOut : Bool := false
  fwbase : Word64 := 0
  apoll : BitVec 13 := 256
  aasid : BitVec 9 := 0
  aasidV : Bool := false
  deriving DecidableEq, Repr

/-- Sweep index state (R209). -/
structure SweepIx where
  valid : Bool := false
  pc : PC := 0
  idx : Nat := 0
  deriving DecidableEq, Repr

/-- A group, the slot-16 agent of a core, or a Loupe thread. -/
structure Group where
  live : Bool := false
  kind : GKind := .user
  bid : Nat := 0
  /-- Group index in the block: operand code 121. -/
  gix : Nat := 0
  v : Store Row := []
  p : Store Mask := []
  s : Store Word64 := []
  helper : Mask := 0
  exited : Mask := 0
  tab : Store Entry := []
  defer : List Defer := []
  recs : Store Rec := []
  sr : SysRegs := {}
  mig : Bool := false
  sweep : SweepIx := {}
  /-- The sweep index state of the interrupted program, while a handler runs (R209). -/
  sweep0 : SweepIx := {}
  keep : Option Keep := none
  syncm : List SyncSet := []
  hnd : Option Handler := none
  /-- Copy of s0 to s3 in the hardware header (R45). -/
  hdr : Store Word64 := []
  /-- Registers whose frozen value the save handler's first write has copied to the image (R372). -/
  cow : BitVec 163 := 0
  pend : List Pend := []
  /-- Rings that its fragments were parked on when it was frozen (R44, R281). -/
  onRings : List Nat := []
  mmacN : Nat := 0
  mmacAt : Option MmacArrival := none
  hdone : Bool := false
  forced : Bool := false
  /-- A synchronous trap for the driver has frozen the group (R365). -/
  frozen : Bool := false
  deriving DecidableEq, Repr

/-- A group that does not exist. -/
def Group.empty : Group := {}

/-! ### Blocks, cohorts and engine contexts -/

/-- A block barrier (R38), or a cohort's (R235): its arrivals by group index in the block, or by 16 * block + group
index; those that count towards later generations; its generation. -/
structure Bar where
  arrived : List Nat := []
  early : List (Nat × Nat) := []
  gen : Nat := 0
  deriving DecidableEq, Repr

/-- What a counter handle is bound to (R262). -/
inductive Binding | unbound | prism (c : Nat) | zoom | soft
  deriving DecidableEq, Repr

/-- An engine operation with its operands as captured at issue (R105, R263). -/
inductive EOp
  /-- PCPY: width, spaces, (source, destination) of each lane, and the ring slot to publish (R266, R268). -/
  | copy (w : Nat) (dsp ssp : Space) (xs : List (Word64 × Word64)) (pub : Option (Nat × BitVec 32))
  /-- PADD (R267). -/
  | add (ty : PaddTy) (dsp ssp : Space) (xs : List (Word64 × Word64))
  /-- PCPYI (R270): direction, element size, factor, count, source, destination. -/
  | interleave (unpack : Bool) (esz f n : Nat) (dsp ssp : Space) (src dst : Word64)
  /-- PCPYS (R271). -/
  | swizzle (z : Swz) (n : Nat) (dsp ssp : Space) (src dst : Word64)
  /-- ZTBL: slot and the table's bytes (R274). -/
  | table (slot : Nat) (bytes : List Byte)
  /-- ZRST, ZPRL, ZCPY: the transfer record's bytes (R272, R275). -/
  | transfer (bytes : List Byte)
  deriving DecidableEq, Repr

/-- An operation issued and not complete, with its number (R106). -/
structure EPend where
  num : Nat
  gid : Nat
  op : EOp
  /-- Program counter and slot of the word that issued it, for a fault record (R367). -/
  pc : PC := 0
  slot : Nat := 0
  deriving DecidableEq, Repr

/-- A counter handle of a block (R106, R262). -/
structure Tc where
  bind : Binding := .unbound
  value : Word64 := 0
  issued : Nat := 0
  pend : List EPend := []
  /-- Numbers complete above the counter's value. -/
  done : List Nat := []
  /-- The operation stalled on a translation fault, if any (R263). -/
  stall : Option Nat := none
  /-- Number of the stall's fault record, while it is held (R367). -/
  held : Option (BitVec 32) := none
  /-- Zoom table slots (R273, R297): the table's bytes. -/
  tables : Store (List Byte) := []
  deriving DecidableEq, Repr

/-- A task record's fields that the block keeps (R284, R353). -/
structure Trec where
  addr : Word64 := 0
  count : Nat := 0
  deriving DecidableEq, Repr

/-- Where a cohort may stand (R41). -/
inductive Level | core | neigh | clu | die | stk | ipr | pkg
  deriving DecidableEq, Repr

/-- Kernel descriptor fields as loaded at block start (R303, R307). -/
structure Kernel where
  addr : Word64 := 0
  tcb : List Byte := []
  ratt : List Byte := []
  tvec : List (BitVec 32) := []
  qn : Nat := 0
  cmem : Nat := 1
  ch : Nat := 0
  cw : Nat := 0
  clvl : Nat := 0
  grp : Nat := 1
  accn : Nat := 0
  tile4k : Nat := 0
  regs : Nat := 16
  klife : Nat := 0
  entry : BitVec 32 := 0
  ejta : Word64 := 0
  ejtn : BitVec 32 := 0
  gota : Word64 := 0
  cbase : Word64 := 0
  /-- Literal-pool flag of the code object (R142). -/
  lpool : Bool := false
  deriving DecidableEq, Repr

/-- A block (R23, R26, R36 to R38, R369). -/
structure Block where
  live : Bool := false
  vi : Nat := 0
  ctx : Nat := 0
  asid : Nat := 0
  pcore : Nat := 0
  /-- Slot of each group, by group index; 2 ^ 20 once the slot has been released (R45). -/
  slots : List Nat := []
  kern : Kernel := {}
  tileSize : Nat := 0
  tile : Store Byte := []
  /-- Accumulator words, keyed 6144 * tile + 64 * row + column (R76). -/
  acc : Store Word32 := []
  /-- Physical accumulator tiles taken on the core (R346). -/
  accm : Nat := 0
  bars : Store Bar := []
  tc : Store Tc := []
  /-- Ring numbers bound to q0 to q15 (R262). -/
  q : List Nat := []
  bix : BitVec 32 := 0
  coh : Nat := 0
  member : Nat := 0
  /-- Window map: core in die of each member (R43, R348). -/
  win : List (Option Nat) := []
  /-- Address of the launch's record or of the task records, and the launch extent in lanes (R25, R349). -/
  argp : Word64 := 0
  extent : Nat := 0
  lane0 : Nat := 0
  att : BitVec 8 := 1
  norel : Bool := false
  area : Option Nat := none
  saved : Bool := false
  stopping : Bool := false
  /-- Only engine operations of the block are left: it has been stopped (R263, R337). -/
  killed : Bool := false
  lrec : Nat := 0
  launch : List Word64 := []
  preempted : Bool := false
  deriving DecidableEq, Repr

def Block.empty : Block := {}

/-- A cohort (R41, R42, R235). -/
structure Cohort where
  live : Bool := false
  level : Level := .core
  h : Nat := 1
  w : Nat := 1
  members : List Nat := []
  cbar : Bar := {}
  deriving DecidableEq, Repr

def Cohort.empty : Cohort := {}

/-! ### Memory system -/

/-- A line as one unit holds it (R93 to R96). A cluster cache and an LLC hold its data; a directory holds tags and
states, and the data of its entry is the value published at its level, which the copies inside that it lists hold, so
an entry ends with the last of them. With it, the bytes written within the unit and not published to the next wider
level (for an LLC, not written back), and the child that the directory names as owner. -/
structure Copy where
  valid : Bool := false
  data : Line := 0
  dirty : BitVec 128 := 0
  owner : Option Nat := none
  /-- ASID whose key the line is held under in the LLC (R387). -/
  tag : Nat := 0
  deriving DecidableEq, Repr

def Copy.empty : Copy := {}

/-- A request in a core's write-through buffer: bytes of one line that one instruction of a group stores (R90, R91). -/
structure WtEntry where
  core : Nat
  gid : Nat
  line : Nat
  scope : Scope
  data : Line
  mask : BitVec 128
  asid : Nat
  deriving DecidableEq, Repr

/-- A directory message in flight (R93). -/
inductive Msg
  | inva (unit line : Nat) (data : Line) (mask : BitVec 128)
  | puba (unit line : Nat)
  /-- To the cluster whose drain asked, from a slice of the directory of a scope. -/
  | dra (clu slice : Nat) (x : Scope)
  /-- To a cluster, from the die of the holder. -/
  | data (clu line : Nat) (d : Line) (die : Nat)
  deriving DecidableEq, Repr

/-- A vault write issued by a group and not acknowledged (R79). -/
structure VWrite where
  gid : Nat
  vault : Nat
  off : Nat
  bytes : List Byte
  performed : Bool := false
  deriving DecidableEq, Repr

/-- A vault's owner register (R77). -/
structure Vown where
  valid : Bool := false
  scrub : Bool := false
  asid : BitVec 9 := 0
  deriving DecidableEq, Repr

/-- A transcode window (R83). -/
structure Window where
  busy : Bool := false
  err : Bool := false
  blen : Bool := false
  fmt : Bool := false
  en : Bool := false
  ap : Nat := 0
  size : Nat := 0
  elem : Nat := 0
  scale : Nat := 0
  deriving DecidableEq, Repr

/-- A cached translation (R376): the core or cluster TLB that holds it, and the page. -/
structure TlbEntry where
  /-- Core c is c; cluster k is 512 + k. -/
  unit : Nat
  /-- 512 is the tag of the firmware table. -/
  asid : Nat
  va : Nat
  lg : Nat
  pa : Nat
  r : Bool
  w : Bool
  x : Bool
  deriving DecidableEq, Repr

/-- A key of an address space in the memory controllers (R387, R388). -/
structure Key where
  key : BitVec 512 := 0
  valid : Bool := false
  /-- Keys installed so far. -/
  gen : Nat := 0
  deriving DecidableEq, Repr

/-! ### Rings (R277) -/

inductive RState | active | error | halted
  deriving DecidableEq, Repr

structure Ring where
  live : Bool := false
  ecode : BitVec 8 := 0
  st : RState := .active
  scope : Scope := .core
  lsize : Nat := 6
  lcount : Nat := 0
  fill : BitVec 32 := 0
  pub : BitVec 32 := 0
  read : BitVec 32 := 0
  base : Word64 := 0
  /-- Marked slots, by free-running index: published out of order, released out of order (R279, R280). -/
  pmark : List (BitVec 32) := []
  rmark : List (BitVec 32) := []
  vi : Nat := 0
  asid : Nat := 0
  home : Nat := 0
  /-- Slots claimed by ring copies whose publication is still to come (R268). -/
  pend : List (BitVec 32) := []
  /-- Blocks that produce and consume, and sets that have become open (R357). -/
  prods : List Nat := []
  conss : List Nat := []
  /-- Groups of those blocks that did so, as 16 * block + group index. -/
  pgrp : List Nat := []
  cgrp : List Nat := []
  pOpen : Bool := false
  cOpen : Bool := false
  deriving DecidableEq, Repr

def Ring.empty : Ring := {}

/-! ### Contexts (R361) -/

/-- CSTATE. -/
inductive CState | free | live | stopping | stopped | ending
  deriving DecidableEq, Repr

/-- A context table entry (R361); its words as the driver wrote them, and the fields that the device keeps. -/
structure Ctx where
  fltring : Word64 := 0
  fltwr : BitVec 32 := 0
  fltrd : BitVec 32 := 0
  fltlog : BitVec 8 := 4
  invva : Word64 := 0
  invlog : BitVec 8 := 0
  pasid : BitVec 20 := 0
  feat1 : Word64 := 0
  feat0 : Word64 := 0
  usrsz : BitVec 32 := 0
  saven : BitVec 32 := 0
  savemap : Word64 := 0
  saveb : Word64 := 0
  ptroot : Word64 := 0
  endc : BitVec 8 := 0
  err : Bool := false
  busy : Bool := false
  cmd : BitVec 4 := 0
  vec : BitVec 5 := 0
  hold : Bool := false
  debug : Bool := false
  cstate : CState := .free
  asid : BitVec 9 := 0
  /-- Fault records held while the ring is full, oldest first (R367). -/
  recs : List (List Byte) := []
  /-- Directories whose quiesce token of an end is outstanding (R363). -/
  tokens : List Nat := []
  invalidating : Bool := false
  deriving DecidableEq, Repr

def Ctx.empty : Ctx := {}

/-- Occupancy word of a core at reset (R345): outside any partition, everything free. -/
def occReset : Word64 := 0x8000FFFF808003FF

def Entry.free : Entry := {}

def Rec.free : Rec := {}

def Tc.unbound : Tc := {}

def Bar.zero : Bar := {}

def Vown.reset : Vown := {}

def Window.reset : Window := {}

def Key.none : Key := {}

/-- The party for which a word is executed (log entry 5): a group, agent or Loupe thread and one of its fragments;
8 is the handler fragment (R46). -/
structure Cur where
  gid : Nat := 0
  ent : Nat := 0
  deriving DecidableEq, Repr

/-- The chain being issued (R132, R133): first word, packet slot of the word now executed, and
the group as it stood before the chain. -/
structure Chain where
  start : PC
  slot : Nat
  snap : Group
  deriving DecidableEq, Repr

/-! ### Queues, packets and the firmware's structures (R326, R332, R343, R348, R350) -/

inductive QState | disabled | active | error | resetting
  deriving DecidableEq, Repr

/-- Registers of a queue (R326). -/
structure Queue where
  ecode : BitVec 8 := 0
  vec : BitVec 5 := 0
  lsize : Nat := 0
  /-- Bounded class. -/
  cls : Bool := false
  st : QState := .disabled
  base : Word64 := 0
  asid : Nat := 0
  ctxn : Nat := 0
  wr : BitVec 32 := 0
  rd : BitVec 32 := 0
  dl : Nat := 100
  res : Nat := 0
  /-- The FENCEQ that holds later packets (R334). -/
  fence : Option Nat := none
  /-- Directories whose quiesce token of a reset is outstanding (R337). -/
  tokens : List Nat := []
  deriving DecidableEq, Repr

/-- Where an admitted packet stands (R330, R334). -/
inductive PktState | armed | pushed | running | fence
  deriving DecidableEq, Repr

/-- A packet as captured at admission (R328). -/
structure Pkt where
  vi : Nat := 0
  q : Nat := 0
  ctxn : Nat := 0
  asid : Nat := 0
  list : Nat := 1
  st : PktState := .pushed
  bytes : List Byte := []
  /-- Rings that a LAUNCH or NODE binds: q0 first, then a NODE's input ring (R325, R334). -/
  rings : List Nat := []
  /-- Its descriptor as loaded (R303). -/
  kern : Kernel := {}
  deriving DecidableEq, Repr

/-- A ready-list entry (R343). -/
structure REntry where
  relaunch : Bool
  rlcoh : Nat
  ctxn : Nat
  q : Nat
  /-- Packet, or the launch record of a relaunch. -/
  item : Nat
  /-- Blocks of a relaunch, as start records (R354). -/
  blocks : List Nat
  deriving DecidableEq, Repr

/-- A ready list: push index, ticket, entries not yet claimed by index, and pushes that wait (R342, R343). -/
structure RList where
  p : Nat := 0
  t : Nat := 0
  ents : List (Nat × REntry) := []
  waiting : List REntry := []
  deriving DecidableEq, Repr

/-- A launch or node record (R350). -/
structure LRec where
  live : Bool := false
  vi : Nat := 0
  pkt : Nat := 0
  node : Bool := false
  remain : Nat := 0
  next : Nat := 0
  t0 : Option Nat := none
  /-- Where the owner keeps its copy of the ready-list entry. -/
  ent : Word64 := 0
  run : Nat := 0
  nbat : Nat := 0
  /-- Package core of the agent that owns the record (R339). -/
  owner : Option Nat := none
  deriving DecidableEq, Repr

/-- A start record (R348). -/
structure StartRec where
  kd : Word64
  argp : Word64
  trec : Nat
  lrec : Nat
  win : List (Option Nat)
  lane0 : Nat
  extent : Nat
  coh : Nat
  cohort : Nat
  mbr : Nat
  nrec : Nat
  ridx : BitVec 32
  rnum : Nat
  vi : Nat
  ctxn : Nat
  asid : Nat
  accm : Nat
  slotm : Nat
  relaunch : Bool
  area : Option Nat
  kern : Kernel
  level : Level
  deriving DecidableEq, Repr

/-- A start mailbox (R348): ticket, records consumed, the records of placement passes by start index, and the words of
the slots and the ready words that instructions of agents have written. -/
structure Mailbox where
  ticket : Nat := 0
  consumed : Nat := 0
  recs : List (Nat × StartRec) := []
  slots : Store Word64 := []
  rdys : Store Nat := []
  deriving DecidableEq, Repr

/-- Registers and partition of an interface (R322 to R325, R342). -/
structure Iface where
  ufl : Bool := false
  rfl : Bool := false
  dfl : Bool := false
  rbase : Word64 := 0
  rcfg : Word64 := 0
  rbusy : Bool := false
  rerr : Bool := false
  rlast : BitVec 12 := 0
  /-- Clusters of the partition. -/
  clus : List Nat := []
  asidBase : Nat := 0
  asidCount : Nat := 0
  fwbase : Word64 := 0
  /-- Where the context table stands in the firmware's address space (R341, R360). -/
  ctxTab : Word64 := 0
  /-- Pending restart: ring, repaired index, H (R355). -/
  restart : Option (Nat × BitVec 32 × Bool) := none
  deriving DecidableEq, Repr

/-- A decrement that the completion engine has still to apply (R329): interface, queue, ASID, context to end on a fault,
counter address. -/
structure Dec where
  vi : Nat
  q : Nat
  asid : Nat
  ctxn : Nat
  addr : Word64
  qdec : Bool
  deriving DecidableEq, Repr

/-! ### Management plane -/

/-- State of a compute die (R391). -/
inductive DState | service | quiescing | rebuilding | fenced | returning
  deriving DecidableEq, Repr

/-- A die quiesce register (R391). -/
structure Dq where
  busy : Bool := false
  forced : Bool := false
  dline : Nat := 500
  st : DState := .service
  /-- ASIDs of the dirty set (R393). -/
  dirty : List Nat := []
  deriving DecidableEq, Repr

/-- A key command in progress (R388, R389). -/
inductive KeyOp | install (asid : Nat) | destroy (asid : Nat) | seal (asid base n : Nat)
  deriving DecidableEq, Repr

/-- Key registers (R388, R389). -/
structure KeyRegs where
  err : Bool := false
  asid : BitVec 9 := 0
  busy : Option KeyOp := none
  keybase : Word64 := 0
  keylen : Word64 := 0
  deriving DecidableEq, Repr

/-- The SPDM responder (R380, R381): measurements by index, what has been negotiated, the session. -/
structure Spdm where
  measured : Store (BitVec 384) := []
  version : Bool := false
  caps : Bool := false
  algs : Bool := false
  session : Bool := false
  finished : Bool := false
  deriving DecidableEq, Repr

/-- An entry of the Speculum log (R404). -/
structure LogEntry where
  seq : Nat
  time : Word64
  typ : BitVec 8
  loc : BitVec 16
  data : Word64
  chk : BitVec 32
  deriving DecidableEq, Repr

/-- A checkpoint (R408): its signed bytes with signatures. -/
structure Ckpt where
  seq : Nat
  bytes : List Byte
  deriving DecidableEq, Repr

/-- The Speculum log (R403 to R411). -/
structure SLog where
  ents : List LogEntry := []
  seq : Nat := 0
  acked : Nat := 0
  dropped : Nat := 0
  digest : BitVec 384 := 0
  boot : Word64 := 0
  ckpts : List Ckpt := []
  /-- Mirror base and log2 of its entries. -/
  mirror : Option (Nat × Nat) := none
  /-- Entries written to the mirror: its write index. -/
  written : Nat := 0
  /-- Counts of entries 0x01 to 0x04 since reset (R418). -/
  counts : Store Nat := []
  /-- The epoch has started: its first entries have been appended. -/
  live : Bool := false
  /-- The last epoch ended in a thermal trip (R417). -/
  trip : Bool := false
  deriving DecidableEq, Repr

/-- The digest before the first entry of the epoch of a boot counter (R407): of the package's serial number, 16 bytes,
and the counter. -/
def chainStart (boot : Word64) : BitVec 384 :=
  Config.sha384 ((Config.serial ++ List.replicate 16 0).take 16
    ++ (List.range 8).map fun k => BitVec.ofNat 8 (boot.toNat / 256 ^ k))

/-- A block that live migration moves (R419): its interface, its number, and what the machine holds of it, of its cohort
and of its groups beside the copied memory. -/
structure Moved where
  vi : Nat
  bid : Nat
  block : Block
  cohort : Cohort
  groups : List (Nat × Group)
  deriving DecidableEq, Repr

/-- Stretching of one cluster, or of the package under the cap or throttle (R416, R417). -/
structure Stretch where
  k : Nat := 0
  deep : Nat := 0
  start : Word64 := 0
  /-- End of the last interval, while the next may still join it. -/
  stop : Option Word64 := none
  deriving DecidableEq, Repr

/-- Power, temperature and stretching (R415 to R418). -/
structure Power where
  droop : Store Stretch := []
  cap : Nat := 3000
  capS : Stretch := {}
  /-- Step to which a die's temperature stretches every cluster, by LOC (R417). -/
  therm : Store Nat := []
  /-- Junction temperature of a unit as last reported, by LOC. -/
  temps : Store Nat := []
  /-- Time at each step of a cluster, in ns, keyed 16 * cluster + step (R418). -/
  atK : Store Nat := []
  deriving DecidableEq, Repr

/-- A parked node of the wait-cycle detector as exchanged (R357, R358). -/
structure WNode where
  gid : Nat
  ent : Nat
  seq : Nat
  edges : List Nat
  deriving DecidableEq, Repr


/-- The machine. -/
structure State where
  groups : Store Group
  blocks : Store Block
  cohorts : Store Cohort
  mem : Store (BitVec 8)
  coh : Store Copy
  l1 : Store Copy
  /-- The cores' constant caches: 8 bytes of a global offset table by core and address (R177). -/
  consts : Store (Option Word64)
  wtq : List WtEntry
  net : List Msg
  vault : Store (BitVec 8)
  vown : Store Vown
  vq : List VWrite
  pred : Store (BitVec 2)
  win : Store Window
  tlb : List TlbEntry
  flash : List Nat
  keys : Store Key
  rings : Store Ring
  ctxs : Store Ctx
  /-- Groups of saved blocks, keyed 16 * block + group index: what the save layout does not hold (log entry 12). -/
  savedG : Store Group
  /-- MSI-X messages sent, oldest first: interface and vector (R333, R367). -/
  msix : List (Nat × Nat)
  occ : Store Word64
  hbmFine : Bool
  /-- hbmcfg has been loaded since package reset (R385). -/
  hbmSet : Bool
  /-- Functions that the trust die has released from reset, numbered as in rdymap (R19, R384). -/
  released : Word64
  lastAth : Store Nat
  /-- Physical address of the firmware page table (R341). -/
  fwRoot : Nat
  /-- Code base of the agent firmware (R384). -/
  fwCode : Word64
  queues : Store Queue
  pkts : Store Pkt
  pktNext : Nat
  rlists : Store RList
  lrecs : Store LRec
  mail : Store Mailbox
  /-- Batch areas by number: the task records of blocks (R342, R353). -/
  batches : Store (List (List Byte))
  /-- Start record of each block, by block number (R353, R354). -/
  starts : Store StartRec
  ifaces : Store Iface
  decs : List Dec
  /-- Save areas whose bit in the bitmap is still to be cleared: context key and index (R369). -/
  frees : List (Nat × Nat)
  /-- Launch records of blocks that have ended and whose REMAIN decrement is to come (R350). -/
  ends : List Nat
  /-- Relaunch entries that an agent has claimed and not placed yet (R354). -/
  inHand : List (Nat × REntry)
  /-- Code objects in literal-pool mode: ASID and code base (R142). -/
  pools : List (Nat × Word64)
  /-- ATS invalidations and commands whose completion is to come: interface and context. -/
  invs : List (Nat × Nat)
  dqs : Store Dq
  lost : List (Nat × Nat × Nat)
  keyr : KeyRegs
  spdm : Spdm
  /-- Responses sent over DOE, oldest first (R381, R411). -/
  doe : List (List Byte)
  log : SLog
  power : Power
  /-- 128-byte lines of HBM that hold an uncorrectable error (R414). -/
  bad : List Nat
  /-- Other errors that stand in memories: their places, and how many bits or symbols are wrong (R413, R414). -/
  latent : List (EccPlace × Nat)
  /-- Errors that an access has met in the step and that are still to be logged, in the order of R409. -/
  met : List (EccPlace × Nat)
  /-- Blocks of a migrating interface on their way to the destination (R419). -/
  moved : List Moved
  wnodes : List WNode
  /-- Module power has been removed (R410, R417). -/
  off : Bool
  rdymap : Word64
  rdyfail : Word64
  times : Store Word64
  cur : Cur
  /-- Program counter after the word or chain being issued. -/
  next : PC
  chain : Option Chain
  agenda : List Instr
  sched : List Cur
  /-- Issues of each core's decoder A until it may take the agent again (R30). -/
  cool : Store Nat
  /-- What decoder A issued last, for decoder B beside it: the fragment, where it stood, its mask (R29). -/
  decA : Option (Cur × PC × Mask)
  /-- Elements after which the sweeps to be issued stop at a boundary, in order; an unlisted one does not (R44). -/
  cuts : List Nat
  clock : Nat
  free : Nat
  /-- Words that ended without their effect: traps, replayed faults, parks before any effect. -/
  stops : Nat
  /-- Those of them that ended so by the illegal-encoding trap: step 4 of R143. -/
  fails : Nat
  deriving DecidableEq, Repr

/-- The machine right after package reset: nothing is ready, no group and no context exists. The reset values that the
spec gives stand in the defaults above; log entries 1 to 8 name the others. -/
def State.reset : State where
  groups := []
  blocks := []
  cohorts := []
  mem := []
  coh := []
  l1 := []
  consts := []
  wtq := []
  net := []
  vault := []
  vown := []
  vq := []
  pred := []
  win := []
  tlb := []
  flash := []
  keys := []
  rings := []
  ctxs := []
  savedG := []
  msix := []
  occ := []
  hbmFine := false
  hbmSet := false
  released := 0
  lastAth := []
  fwRoot := 0
  fwCode := 0xFF00000000000000
  queues := []
  pkts := []
  pktNext := 0
  rlists := []
  lrecs := []
  mail := []
  batches := []
  starts := []
  ifaces := []
  decs := []
  frees := []
  ends := []
  inHand := []
  pools := []
  invs := []
  dqs := []
  lost := []
  keyr := {}
  spdm := {}
  doe := []
  log := { digest := chainStart 0 }
  power := {}
  bad := []
  latent := []
  met := []
  moved := []
  wnodes := []
  off := false
  rdymap := 0
  rdyfail := 0
  times := []
  cur := {}
  next := 0
  chain := none
  agenda := []
  sched := []
  cool := []
  decA := none
  cuts := []
  clock := 0
  free := 0
  stops := 0
  fails := 0

end Sys2Proof.Machine
end

