-- ==== Sys2Proof/Machine/Bits.lean ====
section
/-! DEFINITION. Bit fields, masks, lanes and byte order: the helpers that the meanings share (R5, R24, R25, R32). -/

namespace Sys2Proof

/-- Bits lo + n - 1 : lo of a word. -/
def bits {w : Nat} (x : BitVec w) (lo n : Nat) : Nat := x.toNat / 2 ^ lo % 2 ^ n

/-- A flag as a number. -/
def ofBool (b : Bool) : Nat := if b then 1 else 0

/-- The lanes of a group in increasing order (R23). -/
def lanes : List Lane := List.finRange 96

/-- Lane l is in the set m (R24). -/
def Mask.has (m : Mask) (l : Nat) : Bool := m.getLsbD l

/-- The set of all 96 lanes. -/
def Mask.all : Mask := BitVec.allOnes 96

/-- The set that holds lane l alone. -/
def Mask.one (l : Nat) : Mask := 1#96 <<< l

/-- The lanes of m in increasing order. -/
def Mask.list (m : Mask) : List Lane := lanes.filter fun l => Mask.has m l.val

/-- The number of lanes of m. -/
def Mask.count (m : Mask) : Nat := (Mask.list m).length

/-- Lowest lane of m, if any. -/
def Mask.low (m : Mask) : Option Nat := (Mask.list m).head?.map Fin.val

/-- The set of lanes that satisfy f. -/
def Mask.ofFn (f : Nat → Bool) : Mask :=
  lanes.foldl (fun m l => if f l.val then m ||| Mask.one l.val else m) 0

/-- The row whose lane l is f l. -/
def Row.ofFn (f : Lane → Word32) : Row := Vector.ofFn f

/-- Lane l of a row; 0 past lane 95. -/
def Row.at (r : Row) (l : Nat) : Word32 := if h : l < 96 then r[l] else 0

/-- Replace the lanes of m by f's values, keep the others (R180). -/
def Row.merge (m : Mask) (old : Row) (f : Lane → Word32) : Row :=
  Row.ofFn fun l => if Mask.has m l.val then f l else old.at l.val

/-- n bytes of a value, least significant first (R5). -/
def toBytes (n : Nat) (x : Nat) : List Byte := (List.range n).map fun i => BitVec.ofNat 8 (x / 256 ^ i)

/-- The value of little-endian bytes (R5). -/
def ofBytes : List Byte → Nat
  | [] => 0
  | b :: t => b.toNat + 256 * ofBytes t

/-- The number that bytes a to a + n - 1 hold. -/
def numAt (bs : List Byte) (a n : Nat) : Nat := ofBytes ((bs.drop a).take n)

/-- Byte k of a line (R5). -/
def Line.byte (d : Line) (k : Nat) : Byte := d.extractLsb' (8 * k) 8

/-- Packet of a program counter (R32). -/
def pcPacket (pc : PC) : Nat := pc.toNat % 2 ^ 30

/-- Slot of a program counter (R32). -/
def pcSlot (pc : PC) : Nat := pc.toNat / 2 ^ 30

/-- The program counter of a packet and slot; packets wrap at 30 bits. -/
def mkPc (packet slot : Nat) : PC := BitVec.ofNat 32 (packet % 2 ^ 30 + slot % 4 * 2 ^ 30)

/-- The program counter n words further on (R131). -/
def pcAdd (pc : PC) (n : Nat) : PC :=
  mkPc (pcPacket pc + (pcSlot pc + n) / 3) ((pcSlot pc + n) % 3)

/-- The target of a packet-relative transfer from the packet of pc (R131). -/
def Target.pc (t : Target) (pc : PC) : PC :=
  BitVec.ofNat 32 (((BitVec.ofNat 30 (pcPacket pc) + t.off.signExtend 30)).toNat + t.slot.val * 2 ^ 30)

/-- No reconvergence program counter (R32). -/
def noPc : PC := 0xFFFFFFFF

/-- Bits 63:57 equal bit 56 (R71). -/
def canonical (va : Word64) : Bool := va == (va.truncate 57).signExtend 64

/-- Address va is a multiple of n. -/
def aligned (va : Word64) (n : Nat) : Bool := va.toNat % n == 0

/-- Smallest value of a list of numbers, if any. -/
def minOf : List Nat → Option Nat
  | [] => none
  | a :: t => match minOf t with
    | none => some a
    | some b => some (if a ≤ b then a else b)

/-- The first element that satisfies f with its position. -/
def findIx {α : Type} (f : α → Bool) : List α → Nat → Option (Nat × α)
  | [], _ => none
  | a :: t, i => if f a then some (i, a) else findIx f t (i + 1)

/-- floor(log2 n) for n > 0, and 0 for 0. -/
def log2 (n : Nat) : Nat := Nat.log2 n

/-! ### Units of the package (R10, R13) -/

/-- Compute die of a package core. -/
def dieOf (pcore : Nat) : Nat := pcore / 64

/-- Stack of a package core. -/
def stkOf (pcore : Nat) : Nat := pcore / 128

/-- Package cluster of a package core: clusters tile the 8 by 8 mesh of a die, 2 rows by 4 columns each (R13). -/
def cluOf (pcore : Nat) : Nat :=
  dieOf pcore * 8 + pcore % 64 / 8 / 2 * 2 + pcore % 8 / 4

/-- Core within its cluster (R13). -/
def cicOf (pcore : Nat) : Nat := pcore % 64 / 8 % 2 * 4 + pcore % 4

/-- Units of a cluster's path, cluster cache first and then the directories: package cluster k is k, die d is 64 + d,
stack s is 72 + s, interposer i is 76 + i, the package is 78. The LLC of stack s is unit 80 + s. -/
def cluPath (k : Nat) : List Nat := [k, 64 + k / 8, 72 + k / 16, 76 + k / 32, 78]

/-- Position of a scope on the path: core and cluster 0, die 1, stack 2, interposer 3, package and system 4. -/
def Scope.depth : Scope → Nat
  | .core | .clu => 0
  | .die => 1
  | .stk => 2
  | .ipr => 3
  | .pkg | .sys => 4

/-- Widest of two scopes by code (R87). -/
def Scope.num : Scope → Nat
  | .core => 0
  | .clu => 1
  | .die => 2
  | .stk => 3
  | .ipr => 4
  | .pkg => 5
  | .sys => 6

/-- Unit u lies within unit p. -/
def inUnit (u p : Nat) : Bool :=
  u == p ||
  (if u < 64 then p == 64 + u / 8 || p == 72 + u / 16 || p == 76 + u / 32 || p == 78
   else if u < 72 then p == 72 + (u - 64) / 2 || p == 76 + (u - 64) / 4 || p == 78
   else if u < 76 then p == 76 + (u - 72) / 2 || p == 78
   else u < 78 && p == 78)

end Sys2Proof
end

