-- ==== Sys2Proof/Machine/Float.lean ====
section
/-! DEFINITION. IEEE 754 arithmetic computed exactly and rounded once (R112 to R117, R129, R189 to R196). Values of a
format are bit patterns held as numbers; flags are NX, UF, OF, DZ, NV in bits 4:0 (R116). -/

namespace Sys2Proof.Machine

/-- A binary interchange format: exponent and fraction widths (R112). -/
structure Fmt where
  eb : Nat
  fb : Nat
  deriving DecidableEq, Repr

def Fmt.f16 : Fmt := ⟨5, 10⟩
def Fmt.bf16 : Fmt := ⟨8, 7⟩
def Fmt.f32 : Fmt := ⟨8, 23⟩
def Fmt.f64 : Fmt := ⟨11, 52⟩

/-- Exponent bias. -/
def Fmt.bias (f : Fmt) : Nat := 2 ^ (f.eb - 1) - 1

/-- Width in bits. -/
def Fmt.width (f : Fmt) : Nat := f.eb + f.fb + 1

/-- The exponent field of all ones. -/
def Fmt.emax (f : Fmt) : Nat := 2 ^ f.eb - 1

/-- Canonical NaN (R112). -/
def Fmt.nan (f : Fmt) : Nat := f.emax * 2 ^ f.fb + 2 ^ (f.fb - 1)

/-- Infinity, zero and largest finite value of a sign. -/
def Fmt.sgn (f : Fmt) (neg : Bool) : Nat := if neg then 2 ^ (f.eb + f.fb) else 0
def Fmt.inf (f : Fmt) (neg : Bool) : Nat := f.sgn neg + f.emax * 2 ^ f.fb
def Fmt.zero (f : Fmt) (neg : Bool) : Nat := f.sgn neg
def Fmt.maxFin (f : Fmt) (neg : Bool) : Nat := f.inf neg - 1

/-- Flags of R116. -/
abbrev Flags := BitVec 5
def flNV : Flags := 1
def flDZ : Flags := 2
def flOF : Flags := 4
def flUF : Flags := 8
def flNX : Flags := 16

/-- What a bit pattern stands for: finite values are (-1)^neg * m * 2^e. -/
inductive FV
  | nan (signalling : Bool)
  | inf (neg : Bool)
  | fin (neg : Bool) (m : Nat) (e : Int)
  deriving DecidableEq, Repr

/-- The value of a bit pattern (R112). -/
def Fmt.val (f : Fmt) (x : Nat) : FV :=
  let neg := x / 2 ^ (f.eb + f.fb) % 2 == 1
  let ex := x / 2 ^ f.fb % 2 ^ f.eb
  let fr := x % 2 ^ f.fb
  if ex = f.emax then (if fr = 0 then .inf neg else .nan (fr / 2 ^ (f.fb - 1) == 0))
  else if ex = 0 then .fin neg fr (1 - (f.bias : Int) - f.fb)
  else .fin neg (fr + 2 ^ f.fb) ((ex : Int) - f.bias - f.fb)

/-- The pattern is a subnormal number. -/
def Fmt.isSub (f : Fmt) (x : Nat) : Bool := x / 2 ^ f.fb % 2 ^ f.eb == 0 && x % 2 ^ f.fb != 0

/-- A subnormal operand read as zero of its sign where FTZ is 1 (R115). -/
def Fmt.flush (f : Fmt) (ftz : Bool) (x : Nat) : Nat :=
  if ftz && f.isSub x then f.zero (x / 2 ^ (f.eb + f.fb) % 2 == 1) else x

/-- Round the quotient of m by 2^sh to an integer, by mode; more: the true value lies strictly above m. -/
def roundShift (rnd : Rnd) (neg : Bool) (m sh : Nat) (more : Bool) : Nat × Bool :=
  let q := m / 2 ^ sh
  let r := m % 2 ^ sh
  let half := if sh = 0 then 1 else 2 ^ (sh - 1)
  let inexact := r != 0 || more
  let up := match rnd with
    | .rne => sh != 0 && (decide (half < r) || (r == half && (more || q % 2 == 1)))
    | .rz => false
    | .ru => inexact && !neg
    | .rd => inexact && neg
  (if up then q + 1 else q, inexact)

/-- Overflow result of a mode (R113). -/
def Fmt.overflow (f : Fmt) (rnd : Rnd) (neg : Bool) : Nat :=
  match rnd with
  | .rne => f.inf neg
  | .rz => f.maxFin neg
  | .ru => if neg then f.maxFin neg else f.inf neg
  | .rd => if neg then f.inf neg else f.maxFin neg

/-- Round a magnitude m * 2^e (m nonzero; more: strictly between m and m + 1) to the format, with the flags of R113:
tininess after rounding. With ftz a tiny result is zero with UF and NX (R115). -/
def Fmt.round (f : Fmt) (rnd : Rnd) (ftz neg : Bool) (m : Nat) (e : Int) (more : Bool) : Nat × Flags :=
  let emin : Int := 1 - (f.bias : Int)
  let top : Int := e + log2 m
  let q0 : Int := top - f.fb
  let q : Int := if q0 < emin - f.fb then emin - f.fb else q0
  let at' := fun (q : Int) =>
    if e ≤ q then roundShift rnd neg m (q - e).toNat more
    else roundShift rnd neg (m * 2 ^ (e - q).toNat) 0 more
  let (r, inexact) := at' q
  let tiny := decide (top < emin) && decide ((at' q0).1 < 2 ^ (f.fb + 1) ∨ top < emin - 1)
  let nx := if inexact then flNX else 0
  if tiny && ftz then (f.zero neg, flUF ||| flNX)
  else
    let (r, q) := if r = 2 ^ (f.fb + 1) then (2 ^ f.fb, q + 1) else (r, q)
    if r < 2 ^ f.fb then (f.sgn neg + r, if tiny && inexact then flUF ||| flNX else nx)
    else
      let ex : Int := q + f.fb + f.bias
      if (f.emax : Int) ≤ ex then (f.overflow rnd neg, flOF ||| flNX)
      else (f.sgn neg + ex.toNat * 2 ^ f.fb + (r - 2 ^ f.fb), if tiny && inexact then flUF ||| flNX else nx)

/-- Round an exact signed number z * 2^e; zero takes the sign given. -/
def Fmt.roundInt (f : Fmt) (rnd : Rnd) (ftz zneg : Bool) (z : Int) (e : Int) : Nat × Flags :=
  if z = 0 then (f.zero zneg, 0) else f.round rnd ftz (decide (z < 0)) z.natAbs e false

/-- A signalling NaN among the operands sets NV (R114). -/
def nvOf : List FV → Flags
  | [] => 0
  | .nan true :: _ => flNV
  | _ :: t => nvOf t

def FV.isNan : FV → Bool
  | .nan _ => true
  | _ => false

def FV.neg : FV → Bool
  | .nan _ => false
  | .inf n => n
  | .fin n _ _ => n

/-- Signed mantissa. -/
def sgnM (neg : Bool) (m : Nat) : Int := if neg then -(m : Int) else m

/-- The sum of two finite values as z * 2^e. -/
def addExact (n1 : Bool) (m1 : Nat) (e1 : Int) (n2 : Bool) (m2 : Nat) (e2 : Int) : Int × Int :=
  let e := if e1 ≤ e2 then e1 else e2
  (sgnM n1 m1 * 2 ^ (e1 - e).toNat + sgnM n2 m2 * 2 ^ (e2 - e).toNat, e)

/-- Sign of an exact zero sum: that of the operands where they agree, else minus only under rd (R189). -/
def zeroSign (rnd : Rnd) (n1 n2 : Bool) : Bool := if n1 == n2 then n1 else rnd == .rd

/-- a + b of two values, rounded into f (R189). -/
def Fmt.addV (f : Fmt) (rnd : Rnd) (ftz : Bool) (a b : FV) : Nat × Flags :=
  match a, b with
  | .inf n1, .inf n2 => if n1 == n2 then (f.inf n1, 0) else (f.nan, flNV)
  | .inf n, .fin _ _ _ => (f.inf n, 0)
  | .fin _ _ _, .inf n => (f.inf n, 0)
  | .fin n1 m1 e1, .fin n2 m2 e2 =>
    let (z, e) := addExact n1 m1 e1 n2 m2 e2
    f.roundInt rnd ftz (zeroSign rnd n1 n2) z e
  | a, b => (f.nan, nvOf [a, b])

def FV.negate : FV → FV
  | .nan s => .nan s
  | .inf n => .inf !n
  | .fin n m e => .fin (!n) m e

def Fmt.add (f : Fmt) (rnd : Rnd) (ftz : Bool) (a b : Nat) : Nat × Flags :=
  f.addV rnd ftz (f.val (f.flush ftz a)) (f.val (f.flush ftz b))

def Fmt.sub (f : Fmt) (rnd : Rnd) (ftz : Bool) (a b : Nat) : Nat × Flags :=
  f.addV rnd ftz (f.val (f.flush ftz a)) (f.val (f.flush ftz b)).negate

/-- a * b (R189). -/
def Fmt.mul (f : Fmt) (rnd : Rnd) (ftz : Bool) (a b : Nat) : Nat × Flags :=
  match f.val (f.flush ftz a), f.val (f.flush ftz b) with
  | .inf n1, .inf n2 => (f.inf (n1 != n2), 0)
  | .inf n1, .fin n2 m _ => if m = 0 then (f.nan, flNV) else (f.inf (n1 != n2), 0)
  | .fin n1 m _, .inf n2 => if m = 0 then (f.nan, flNV) else (f.inf (n1 != n2), 0)
  | .fin n1 m1 e1, .fin n2 m2 e2 =>
    f.roundInt rnd ftz (n1 != n2) (sgnM (n1 != n2) (m1 * m2)) (e1 + e2)
  | a, b => (f.nan, nvOf [a, b])

/-- a * b + d of values, rounded once into f (R114, R189). An infinity times zero is invalid whatever d is. -/
def Fmt.fmaV (f : Fmt) (rnd : Rnd) (ftz : Bool) (a b d : FV) : Nat × Flags :=
  let bad := match a, b with
    | .inf _, .fin _ m _ => m == 0
    | .fin _ m _, .inf _ => m == 0
    | _, _ => false
  if a.isNan || b.isNan || d.isNan || bad then (f.nan, nvOf [a, b, d] ||| (if bad then flNV else 0))
  else
    let pn := a.neg != b.neg
    match a, b, d with
    | .fin _ m1 e1, .fin _ m2 e2, .fin n3 m3 e3 =>
      let (z, e) := addExact pn (m1 * m2) (e1 + e2) n3 m3 e3
      f.roundInt rnd ftz (zeroSign rnd pn n3) z e
    | .fin _ _ _, .fin _ _ _, .inf n3 => (f.inf n3, 0)
    | _, _, .inf n3 => if pn == n3 then (f.inf n3, 0) else (f.nan, flNV)
    | _, _, _ => (f.inf pn, 0)

def Fmt.fma (f : Fmt) (rnd : Rnd) (ftz : Bool) (a b d : Nat) : Nat × Flags :=
  f.fmaV rnd ftz (f.val (f.flush ftz a)) (f.val (f.flush ftz b)) (f.val (f.flush ftz d))

/-- Round the quotient of magnitudes (m1 * 2^e1) / (m2 * 2^e2), both nonzero. -/
def Fmt.roundQuot (f : Fmt) (ftz neg : Bool) (m1 : Nat) (e1 : Int) (m2 : Nat) (e2 : Int) : Nat × Flags :=
  let k := f.fb + 4 + log2 m2
  let n := m1 * 2 ^ k
  f.round .rne ftz neg (n / m2) (e1 - e2 - k) (n % m2 != 0)

/-- a / b, to nearest even (R118, R119, R189). -/
def Fmt.div (f : Fmt) (ftz : Bool) (a b : Nat) : Nat × Flags :=
  match f.val (f.flush ftz a), f.val (f.flush ftz b) with
  | .inf _, .inf _ => (f.nan, flNV)
  | .inf n1, .fin n2 _ _ => (f.inf (n1 != n2), 0)
  | .fin n1 _ _, .inf n2 => (f.zero (n1 != n2), 0)
  | .fin n1 m1 e1, .fin n2 m2 e2 =>
    if m2 = 0 then (if m1 = 0 then (f.nan, flNV) else (f.inf (n1 != n2), flDZ))
    else if m1 = 0 then (f.zero (n1 != n2), 0)
    else f.roundQuot ftz (n1 != n2) m1 e1 m2 e2
  | a, b => (f.nan, nvOf [a, b])

/-! ### Comparison, minimum, maximum, class (R190, R191, R194) -/

/-- Order of two values that are no NaN: +0 and -0 are equal. -/
def cmpV (a b : FV) : Ordering :=
  match a, b with
  | .inf n1, .inf n2 => if n1 == n2 then .eq else if n1 then .lt else .gt
  | .inf n1, _ => if n1 then .lt else .gt
  | _, .inf n2 => if n2 then .gt else .lt
  | .fin n1 m1 e1, .fin n2 m2 e2 =>
    let e := if e1 ≤ e2 then e1 else e2
    compare (sgnM n1 m1 * 2 ^ (e1 - e).toNat) (sgnM n2 m2 * 2 ^ (e2 - e).toNat)
  | _, _ => .eq

/-- a lies below b with -0 below +0 (R191). -/
def ltV (a b : FV) : Bool :=
  match cmpV a b with
  | .lt => true
  | .gt => false
  | .eq => a.neg && !b.neg

/-- minimumNumber or maximumNumber on bit patterns; FTZ does not act (R191). -/
def Fmt.minmax (f : Fmt) (mx : Bool) (a b : Nat) : Nat × Flags :=
  let va := f.val a
  let vb := f.val b
  (if va.isNan && vb.isNan then f.nan
   else if va.isNan then b
   else if vb.isNan then a
   else if mx then (if ltV va vb then b else a)
   else (if ltV vb va then b else a), nvOf [va, vb])

/-- FCMP: the relation and NV (R190). -/
inductive FRel | eq | ne | lt | le | gt | ge | un | ord
  deriving DecidableEq, Repr

def Fmt.cmp (f : Fmt) (c : FRel) (a b : Nat) : Bool × Flags :=
  let va := f.val a
  let vb := f.val b
  let un := va.isNan || vb.isNan
  let o := cmpV va vb
  let quiet := nvOf [va, vb]
  let any := if un then flNV else 0
  match c with
  | .eq => (!un && o == .eq, quiet)
  | .ne => (un || o != .eq, quiet)
  | .lt => (!un && o == .lt, any)
  | .le => (!un && o != .gt, any)
  | .gt => (!un && o == .gt, any)
  | .ge => (!un && o != .lt, any)
  | .un => (un, quiet)
  | .ord => (!un, quiet)

/-- FCLASS mask (R194). -/
def Fmt.classOf (f : Fmt) (x : Nat) : Nat :=
  match f.val x with
  | .nan true => 1
  | .nan false => 2
  | .inf true => 4
  | .inf false => 512
  | .fin neg m _ =>
    if m = 0 then (if neg then 32 else 64)
    else if f.isSub x then (if neg then 16 else 128)
    else if neg then 8 else 256

/-- FABS and FNEG: arithmetic for NaNs (R114, R193). They are not among the operations on which FTZ acts (R113,
R115). -/
def Fmt.signOp (f : Fmt) (flip : Bool) (x : Nat) : Nat × Flags :=
  match f.val x with
  | .nan s => (f.nan, if s then flNV else 0)
  | v => (x % 2 ^ (f.eb + f.fb) + f.sgn (flip && !v.neg), 0)

/-! ### Conversions (R117, R193, R195, R196) -/

/-- CVT from format g into format f (R117, R195). -/
def Fmt.cvt (f g : Fmt) (rnd : Rnd) (ftz : Bool) (x : Nat) : Nat × Flags :=
  match g.val (g.flush ftz x) with
  | .nan s => (f.nan, if s then flNV else 0)
  | .inf n => (f.inf n, 0)
  | .fin n m e => if m = 0 then (f.zero n, 0) else f.round rnd ftz n m e false

/-- A finite value rounded to an integer by mode, with whether it was inexact. -/
def toIntegral (rnd : Rnd) (neg : Bool) (m : Nat) (e : Int) : Nat × Bool :=
  if 0 ≤ e then (m * 2 ^ e.toNat, false) else roundShift rnd neg m (-e).toNat false

/-- FRND: round to an integral value in its own format (R193). -/
def Fmt.rnd (f : Fmt) (r : Rnd) (ftz : Bool) (x : Nat) : Nat × Flags :=
  let x := f.flush ftz x
  match f.val x with
  | .nan s => (f.nan, if s then flNV else 0)
  | .inf n => (f.inf n, 0)
  | .fin n m e =>
    let (i, inexact) := toIntegral r n m e
    (if i = 0 then f.zero n else (f.round .rne false n i 0 false).1, if inexact then flNX else 0)

/-- Bounds of an integer type of a width. -/
def intMin (signed : Bool) (w : Nat) : Int := if signed then -(2 ^ (w - 1) : Int) else 0
def intMax (signed : Bool) (w : Nat) : Int := if signed then 2 ^ (w - 1) - 1 else 2 ^ w - 1

/-- CVTI, floating to integer (R117): the integer as a bit pattern of width w. -/
def Fmt.toInt (f : Fmt) (signed : Bool) (w : Nat) (rnd : Rnd) (ftz : Bool) (x : Nat) : Nat × Flags :=
  let enc := fun (z : Int) => (z % (2 ^ w : Int)).toNat
  match f.val (f.flush ftz x) with
  | .nan _ => (0, flNV)
  | .inf n => (enc (if n then intMin signed w else intMax signed w), flNV)
  | .fin n m e =>
    let (i, inexact) := toIntegral rnd n m e
    let z := sgnM n i
    if z < intMin signed w then (enc (intMin signed w), flNV)
    else if intMax signed w < z then (enc (intMax signed w), flNV)
    else (enc z, if inexact then flNX else 0)

/-- CVTI, integer to floating (R117). -/
def Fmt.ofInt (f : Fmt) (rnd : Rnd) (z : Int) : Nat × Flags := f.roundInt rnd false false z 0

/-- FSCALE: a * 2^b (R192). -/
def Fmt.scale (f : Fmt) (rnd : Rnd) (ftz : Bool) (a : Nat) (b : Int) : Nat × Flags :=
  match f.val (f.flush ftz a) with
  | .nan s => (f.nan, if s then flNV else 0)
  | .inf n => (f.inf n, 0)
  | .fin n m e =>
    if m = 0 then (f.zero n, 0)
    else
      -- beyond these bounds the rounding cannot differ
      let b' : Int := if b < -5000 then -5000 else if 5000 < b then 5000 else b
      f.round rnd ftz n m (e + b') false

/-- The format of a type code (R112). -/
def FType.fmt : FType → Fmt
  | .f16 => .f16
  | .bf16 => .bf16
  | .f32 => .f32
  | .f64 => .f64

/-- Widen a binary32 literal to binary64 exactly, NaN payload kept (R140). -/
def widenLit (x : Nat) : Nat :=
  match Fmt.f32.val x with
  | .nan _ => x / 2 ^ 31 % 2 * 2 ^ 63 + 2047 * 2 ^ 52 + x % 2 ^ 23 * 2 ^ 29
  | _ => (Fmt.f64.cvt .f32 .rne false x).1

/-! ### Atomics and reductions in memory (R129, R230) -/

/-- Add as the memory performs it: to nearest even, subnormals kept, no flag. -/
def Fmt.atomAdd (f : Fmt) (m x : Nat) : Nat := (f.add .rne false m x).1

/-- Minimum or maximum as the memory performs it. -/
def Fmt.atomMinmax (f : Fmt) (mx : Bool) (m x : Nat) : Nat := (f.minmax mx m x).1

end Sys2Proof.Machine
end

