-- ==== Sys2Proof/Machine/Trans.lean ====
section
/-! DEFINITION. The special functions, correctly rounded to nearest even (R118, R119): roots by integer square root,
the others by fixed-point series with an enclosure of the exact value (log entry 11). -/

namespace Sys2Proof.Machine

/-- floor of the square root of n, bit by bit from bit i - 1 down. -/
def isqrtGo (n : Nat) : Nat → Nat → Nat
  | 0, r => r
  | i + 1, r => if (r + 2 ^ i) * (r + 2 ^ i) ≤ n then isqrtGo n i (r + 2 ^ i) else isqrtGo n i r

def isqrt (n : Nat) : Nat := isqrtGo n (log2 n / 2 + 1) 0

/-- FRCP (R118, R119). -/
def Fmt.rcp (f : Fmt) (ftz : Bool) (x : Nat) : Nat × Flags :=
  match f.val (f.flush ftz x) with
  | .nan s => (f.nan, if s then flNV else 0)
  | .inf n => (f.zero n, 0)
  | .fin n m e => if m = 0 then (f.inf n, flDZ) else f.roundQuot ftz n 1 0 m e

/-- FSQRT. -/
def Fmt.sqrt (f : Fmt) (ftz : Bool) (x : Nat) : Nat × Flags :=
  match f.val (f.flush ftz x) with
  | .nan s => (f.nan, if s then flNV else 0)
  | .inf n => if n then (f.nan, flNV) else (f.inf false, 0)
  | .fin n m e =>
    if m = 0 then (f.zero n, 0)
    else if n then (f.nan, flNV)
    else
      -- m * 2^e = M * 2^(2h) with M of at least 2 (fb + 4) bits
      let k : Nat := 2 * (f.fb + 4) + (if (e - 2 * (f.fb + 4)) % 2 = 0 then 0 else 1)
      let big := m * 2 ^ k
      let r := isqrt big
      f.round .rne ftz false r ((e - k) / 2) (r * r != big)

/-- FRSQ: 1 / sqrt. -/
def Fmt.rsqrt (f : Fmt) (ftz : Bool) (x : Nat) : Nat × Flags :=
  match f.val (f.flush ftz x) with
  | .nan s => (f.nan, if s then flNV else 0)
  | .inf n => if n then (f.nan, flNV) else (f.zero false, 0)
  | .fin n m e =>
    if m = 0 then (f.inf n, flDZ)
    else if n then (f.nan, flNV)
    else
      -- 1 / sqrt(m * 2^e) = sqrt(2^k / m) * 2^(-(k + e) / 2) with k + e even
      let k : Nat := 2 * (f.fb + 4) + 2 * log2 m + (if e % 2 = 0 then 0 else 1)
      let q := 2 ^ k / m
      let r := isqrt q
      f.round .rne ftz false r (-((k + e) / 2)) (r * r * m != 2 ^ k)

/-! ### Enclosures: a number is known to lie strictly between lo * 2^e and hi * 2^e -/

/-- Round a value enclosed strictly by lo and hi, which is no dyadic number: the two ends round alike when the
enclosure is fine enough. -/
def Fmt.roundIn (f : Fmt) (ftz neg : Bool) (lo hi : Nat) (e : Int) : Option (Nat × Flags) :=
  let a := f.round .rne ftz neg lo e true
  let b := f.round .rne ftz neg (hi - 1) e true
  if a = b then some a else none

/-- The first precision whose enclosure decides the rounding; the lower end of the last one otherwise. -/
def Fmt.roundEncl (f : Fmt) (ftz neg : Bool) (encl : Nat → Nat × Nat × Int) : List Nat → Nat × Flags
  | [] => let (lo, _, e) := encl 256; f.round .rne ftz neg lo e true
  | p :: ps => let (lo, hi, e) := encl p
    match f.roundIn ftz neg lo hi e with
    | some r => r
    | none => f.roundEncl ftz neg encl ps

/-- Precisions tried, in bits. -/
def precs : List Nat := [160, 320, 640]

/-- Slack added to both ends of an enclosure, in units of the last place of the fixed-point sum. -/
def slack : Nat := 2 ^ 20

/-- Sum of the first n terms t, t * x / (2^p * d k), ...: term k + 1 is term k times x / (2^p * d (k + 1)). -/
def seriesGo (p x : Nat) (d : Nat → Nat) : Nat → Nat → Nat → Nat → Nat
  | 0, _, _, acc => acc
  | n + 1, k, t, acc => seriesGo p x d n (k + 1) (t * x / 2 ^ p / d (k + 1)) (acc + t)

/-- 2 * atanh(z) for z = x / 2^p below 1/2: 2 (z + z^3/3 + z^5/5 + ...). -/
def atanhGo (p x2 : Nat) : Nat → Nat → Nat → Nat → Nat
  | 0, _, _, acc => 2 * acc
  | n + 1, k, t, acc => atanhGo p x2 n (k + 1) (t * x2 / 2 ^ p) (acc + t / (2 * k + 1))

/-- ln(m / d) * 2^p for a ratio near 1, m at least d. -/
def lnRatio (p m d : Nat) : Nat :=
  let z := (m - d) * 2 ^ p / (m + d)
  atanhGo p (z * z / 2 ^ p) p 0 z 0

/-- ln 2 times 2^p. -/
def ln2 (p : Nat) : Nat := lnRatio p 2 1

/-- atan(1/n) times 2^p, for n at least 2. -/
def atanInvGo (p n2 : Nat) : Nat → Nat → Nat → Nat → Nat → Nat
  | 0, _, _, pos, neg => pos - neg
  | c + 1, k, t, pos, neg =>
    if k % 2 = 0 then atanInvGo p n2 c (k + 1) (t / n2) (pos + t / (2 * k + 1)) neg
    else atanInvGo p n2 c (k + 1) (t / n2) pos (neg + t / (2 * k + 1))

def atanInv (p n : Nat) : Nat := atanInvGo p (n * n) p 0 (2 ^ p / n) 0 0

/-- pi times 2^p, by Machin's formula. -/
def piFix (p : Nat) : Nat := 4 * (4 * atanInv p 5 - atanInv p 239)

/-- exp(y) * 2^p for y = x / 2^p below 1. -/
def expFix (p x : Nat) : Nat := seriesGo p x (fun k => k) (p / 2) 0 (2 ^ p) 0

/-- (exp(y) - 1) / y * 2^p for y = x / 2^p below 1. -/
def expm1Ratio (p x : Nat) : Nat := seriesGo p x (fun k => k + 1) (p / 2) 0 (2 ^ p) 0

/-- Alternating series with terms t_(k+1) = t_k * x / 2^p / d(k+1). -/
def altFix (p x : Nat) (d : Nat → Nat) : Nat → Nat → Nat → Nat → Nat → Nat
  | 0, _, _, pos, neg => pos - neg
  | n + 1, k, t, pos, neg =>
    if k % 2 = 0 then altFix p x d n (k + 1) (t * x / 2 ^ p / d (k + 1)) (pos + t) neg
    else altFix p x d n (k + 1) (t * x / 2 ^ p / d (k + 1)) pos (neg + t)

/-- 2^x for x = n + fr / 2^k with 0 < fr < 2^k. -/
def exp2Encl (n : Int) (fr k p : Nat) : Nat × Nat × Int :=
  let y := fr * ln2 p / 2 ^ k
  let v := expFix p y
  ((if v - slack < 2 ^ p then 2 ^ p else v - slack), v + slack, n - p)

/-- FEXP2. -/
def Fmt.exp2 (f : Fmt) (ftz : Bool) (x : Nat) : Nat × Flags :=
  match f.val (f.flush ftz x) with
  | .nan s => (f.nan, if s then flNV else 0)
  | .inf n => if n then (f.zero false, 0) else (f.inf false, 0)
  | .fin n m e =>
    if m = 0 then f.round .rne ftz false 1 0 false
    else if 0 ≤ e ∨ m % 2 ^ (-e).toNat = 0 then
      -- an integer exponent: exact but for the range
      let i : Nat := if 0 ≤ e then (if 20 ≤ e then 2 ^ 20 else m * 2 ^ e.toNat) else m / 2 ^ (-e).toNat
      let i := if i < 2 ^ 14 then i else 2 ^ 14
      f.round .rne ftz false 1 (sgnM n i) false
    else
      let k := (-e).toNat
      let i := m / 2 ^ k
      let r := m % 2 ^ k
      let i := if i < 2 ^ 14 then i else 2 ^ 14
      let (ip, fr) := if n then (-(i : Int) - 1, 2 ^ k - r) else ((i : Int), r)
      f.roundEncl ftz false (exp2Encl ip fr k) precs

/-- FLOG2 of a value above 1 or below 1: E + ln(m / d) / ln 2 with the ratio within [sqrt 1/2, sqrt 2). -/
def log2Encl (m : Nat) (e : Int) (p : Nat) : Nat × Nat × Int × Bool :=
  -- m * 2^e = (m / 2^l) * 2^(e + l); the ratio is taken below 3/2, else against 2^(l+1)
  let l := log2 m
  let low := 2 * m < 3 * 2 ^ l
  let big : Int := e + l + (if low then 0 else 1)
  let lr : Int := if low then (lnRatio p m (2 ^ l) : Int) else -(lnRatio p (2 ^ (l + 1)) m : Int)
  let v : Int := big * 2 ^ p + lr * 2 ^ p / (ln2 p : Int)
  let a := v.natAbs
  (a - slack, a + slack, -(p : Int), decide (v < 0))

def Fmt.log2 (f : Fmt) (ftz : Bool) (x : Nat) : Nat × Flags :=
  match f.val (f.flush ftz x) with
  | .nan s => (f.nan, if s then flNV else 0)
  | .inf n => if n then (f.nan, flNV) else (f.inf false, 0)
  | .fin n m e =>
    if m = 0 then (f.inf true, flDZ)
    else if n then (f.nan, flNV)
    else
      let l := Nat.log2 m
      if m = 2 ^ l then f.roundInt .rne ftz false (e + l) 0
      else f.roundEncl ftz (log2Encl m e 160).2.2.2
        (fun p => let (lo, hi, q, _) := log2Encl m e p; (lo, hi, q)) precs

/-- sin(pi r) for r = m / 2^k at most 1/4, to relative precision 2^-p: r * pi * (1 - (pi r)^2 / 6 + ...). -/
def sinEncl (m k p : Nat) : Nat × Nat × Int :=
  let pi := piFix p
  let pr := pi * m / 2 ^ k
  let x2 := pr * pr / 2 ^ p
  let g := altFix p x2 (fun j => 2 * j * (2 * j + 1)) (p / 2) 0 (2 ^ p) 0 0
  let v := pi * g / 2 ^ p
  (m * (v - slack), m * (v + slack), -(k : Int) - p)

/-- cos(pi r) for r = m / 2^k at most 1/4. -/
def cosEncl (m k p : Nat) : Nat × Nat × Int :=
  let pr := piFix p * m / 2 ^ k
  let x2 := pr * pr / 2 ^ p
  let g := altFix p x2 (fun j => 2 * j * (2 * j - 1)) (p / 2) 0 (2 ^ p) 0 0
  (g - slack, (if 2 ^ p < g + slack then 2 ^ p else g + slack), -(p : Int))

/-- sin(pi x) by the octant of the angle j / 2^k, 0 < j < 2^(k+1) not a multiple of 2^(k-1), k at least 2. -/
def Fmt.sinOct (f : Fmt) (ftz neg : Bool) (j k : Nat) : Nat × Flags :=
  let (neg, j) := if 2 ^ k < j then (!neg, j - 2 ^ k) else (neg, j)
  let j := if 2 ^ (k - 1) < j then 2 ^ k - j else j
  if j ≤ 2 ^ (k - 2) then f.roundEncl ftz neg (sinEncl j k) precs
  else f.roundEncl ftz neg (cosEncl (2 ^ (k - 1) - j) k) precs

/-- FSINP and FCOSP: cosine is sine a quarter turn on (R118, R119). -/
def Fmt.sinp (f : Fmt) (ftz cosine : Bool) (x : Nat) : Nat × Flags :=
  match f.val (f.flush ftz x) with
  | .nan s => (f.nan, if s then flNV else 0)
  | .inf _ => (f.nan, flNV)
  | .fin n m e =>
    if m = 0 then (if cosine then f.round .rne ftz false 1 0 false else (f.zero n, 0))
    else
      -- |x| mod 2 = j / 2^k with k at least 2
      let k : Nat := if e ≤ -2 then (-e).toNat else 2
      let j := m * 2 ^ (e + k).toNat % 2 ^ (k + 1)
      if cosine then
        let j := (j + 2 ^ (k - 1)) % 2 ^ (k + 1)
        (if j % 2 ^ k = 0 then (f.zero false, 0)
         else if j % 2 ^ (k - 1) = 0 then f.round .rne ftz (decide (2 ^ k < j)) 1 0 false
         else f.sinOct ftz false j k)
      else if j % 2 ^ k = 0 then (f.zero n, 0)
      else if j % 2 ^ (k - 1) = 0 then f.round .rne ftz (n != decide (2 ^ k < j)) 1 0 false
      else f.sinOct ftz n j k

/-- Square a fixed-point number n times. -/
def sqrGo (p : Nat) : Nat → Nat → Nat
  | 0, v => v
  | n + 1, v => sqrGo p n (v * v / 2 ^ p)

/-- tanh of m / 2^k: for 2x below 1 as y h / (y h + 2) with h = (e^y - 1) / y; else (e^y - 1) / (e^y + 1). -/
def tanhEncl (m k p : Nat) : Nat × Nat × Int :=
  if 2 * m < 2 ^ k then
    let y := 2 * m * 2 ^ p / 2 ^ k
    let h := expm1Ratio p y
    let b := h * 2 ^ p / (y * h / 2 ^ p + 2 * 2 ^ p)
    (2 * m * (b - slack), 2 * m * (b + slack), -(k : Int) - p)
  else if m / 2 ^ k < 128 then
    let y := 2 * m * 2 ^ p / 2 ^ k
    let v := sqrGo p 8 (expFix p (y / 2 ^ 8))
    let b := (v - 2 ^ p) * 2 ^ p / (v + 2 ^ p)
    (b - slack, (if 2 ^ p < b + slack then 2 ^ p else b + slack), -(p : Int))
  else (2 ^ p - 1, 2 ^ p, -(p : Int))

/-- FTANH. -/
def Fmt.tanh (f : Fmt) (ftz : Bool) (x : Nat) : Nat × Flags :=
  match f.val (f.flush ftz x) with
  | .nan s => (f.nan, if s then flNV else 0)
  | .inf n => f.round .rne ftz n 1 0 false
  | .fin n m e =>
    if m = 0 then (f.zero n, 0)
    else
      let k : Nat := if e < 0 then (-e).toNat else 0
      f.roundEncl ftz n (tanhEncl (m * 2 ^ (e + k).toNat) k) precs

end Sys2Proof.Machine
end

