-- ==== Sys2Proof/Machine/Flags.lean ====
section
/-! DEFINITION. Arithmetic of whole values with the flags it raises: integers (R111, R172, R182 to R187), dual-exponent
blocks (R120 to R123), and the matrix accumulation order with its status bits (R124 to R127). -/

namespace Sys2Proof.Machine

/-! ### Integers of a width, held as numbers below 2^w (R110, R111) -/

/-- The signed value of a w-bit pattern. -/
def sval (w x : Nat) : Int := if x % 2 ^ w < 2 ^ (w - 1) then ((x % 2 ^ w : Nat) : Int) else (x % 2 ^ w : Nat) - (2 ^ w : Int)

/-- The value of a w-bit pattern as a signed or unsigned integer. -/
def ival (signed : Bool) (w x : Nat) : Int := if signed then sval w x else ((x % 2 ^ w : Nat) : Int)

/-- The w-bit pattern of an integer, wrapping. -/
def wrap (w : Nat) (z : Int) : Nat := (z % (2 ^ w : Int)).toNat

/-- Saturate at the type's bounds (R111). -/
def saturate (signed : Bool) (w : Nat) (z : Int) : Nat :=
  wrap w (if z < intMin signed w then intMin signed w else if intMax signed w < z then intMax signed w else z)

/-- Quotient by R111: toward zero, 0 for a zero divisor, wrapping for the most negative by -1. -/
def idiv (signed : Bool) (w a b : Nat) : Nat := wrap w ((ival signed w a).tdiv (ival signed w b))

/-- Remainder by R111: the sign of the dividend; the dividend for a zero divisor. -/
def irem (signed : Bool) (w a b : Nat) : Nat := wrap w ((ival signed w a).tmod (ival signed w b))

/-- Shifts with the count read as an unsigned value (R172, R183). -/
def shl (w a b : Nat) : Nat := if b < w then a * 2 ^ b % 2 ^ w else 0
def shr (w a b : Nat) : Nat := if b < w then a % 2 ^ w / 2 ^ b else 0
def sra (w a b : Nat) : Nat := wrap w (sval w a / 2 ^ (if b < w then b else w))

/-- Ones of a w-bit pattern. -/
def popcount (w a : Nat) : Nat := ((List.range w).filter fun i => a.testBit i).length

/-- Leading zeros of a w-bit pattern; w for 0. -/
def clz (w a : Nat) : Nat := if a % 2 ^ w = 0 then w else w - 1 - Nat.log2 (a % 2 ^ w)

/-- Position and width of a field operand at a form width (R173, R185). -/
def fieldOf (w b : Nat) : Nat × Nat :=
  let pos := b % 64
  let n := b / 256 % 128
  (pos, if w ≤ pos then 0 else if n ≤ w - pos then n else w - pos)

/-- Field extract (R173). -/
def bfx (signed : Bool) (w a b : Nat) : Nat :=
  let (pos, n) := fieldOf w b
  let f := a % 2 ^ w / 2 ^ pos % 2 ^ n
  if n = 0 then 0 else if signed then wrap w (sval n f) else f

/-- Field insert into d (R173). -/
def bfi (w d a b : Nat) : Nat :=
  let (pos, n) := fieldOf w b
  let keep := d % 2 ^ w - d / 2 ^ pos % 2 ^ n * 2 ^ pos
  if n = 0 then d % 2 ^ w else keep + a % 2 ^ n * 2 ^ pos

/-- Width of an integer type and its signedness (R110). -/
def IType.width : IType → Nat
  | .s8 | .n8 => 8
  | .s16 | .n16 => 16
  | .s32 | .n32 => 32
  | .s64 | .n64 => 64

def IType.signed : IType → Bool
  | .s8 | .s16 | .s32 | .s64 => true
  | _ => false

def JType.width : JType → Nat
  | .s32 | .n32 => 32
  | .s64 | .n64 => 64

def JType.signed : JType → Bool
  | .s32 | .s64 => true
  | _ => false

def Wid.width : Wid → Nat
  | .b32 => 32
  | .b64 => 64

/-- Extend a w-bit result to the 32 bits of a v-register, or leave a 64-bit one (R110). -/
def extend (signed : Bool) (w x : Nat) : Nat :=
  if w < 32 then wrap 32 (ival signed w x) else x % 2 ^ w

/-- An integer compare (R175, R188). -/
def icmp (c : Cond) (a b : Int) : Bool :=
  match c with
  | .eq => a == b
  | .ne => a != b
  | .lt => decide (a < b)
  | .le => decide (a ≤ b)
  | .gt => decide (b < a)
  | .ge => decide (b ≤ a)

/-- The larger or the smaller of two patterns of a type. -/
def iminmax (mx signed : Bool) (w a b : Nat) : Nat :=
  if mx then (if ival signed w a < ival signed w b then b else a)
  else (if ival signed w b < ival signed w a then b else a)

/-! ### Dual-exponent blocks (R120 to R123) -/

/-- Element parameters: largest magnitude, shift, magnitude bits. -/
def dxMax (dx4 : Bool) : Nat := if dx4 then 3 else 63
def dxSh (dx4 : Bool) : Nat := if dx4 then 1 else 5
def dxBits (dx4 : Bool) : Nat := if dx4 then 2 else 6

/-- The value of an element under its two scales (R121): a selected scale of 0xFF is NaN. -/
def dxVal (dx4 : Bool) (el e0 e1 : Nat) : FV :=
  let b := dxBits dx4
  let e := if el / 2 ^ (b + 1) % 2 = 1 then e1 else e0
  if e = 255 then .nan false
  else .fin (el / 2 ^ b % 2 == 1) (el % 2 ^ b) ((e : Int) - (if dx4 then 128 else 132))

/-- DXDEC: the element as binary32, exactly (R123). -/
def dxDecode (dx4 : Bool) (el e0 e1 : Nat) : Nat :=
  match dxVal dx4 el e0 e1 with
  | .fin n m e => if m = 0 then Fmt.f32.zero n else (Fmt.f32.round .rne false n m e false).1
  | _ => Fmt.f32.nan

/-- Quotient and error of one candidate scale, in units of 2^-149; none for an infinite error (R122). An infinity under a
scale of 0xFF takes q = 0, as the procedure has it; the sentence after it gives an infinity mmax (log entry 66). -/
def dxTry (dx4 : Bool) (e : Nat) (v : FV) : Nat × Option Nat × Bool :=
  if e = 255 then (0, none, false)
  else match v with
    | .fin _ m x =>
      let a := m * 2 ^ (x + 149).toNat
      let sh := e + 22 - dxSh dx4
      let q := (roundShift .rne false a sh false).1
      let q' := if dxMax dx4 < q then dxMax dx4 else q
      let b := q' * 2 ^ sh
      (q', some (if a < b then b - a else a - b), decide (dxMax dx4 < q))
    | _ => (dxMax dx4, none, false)

/-- a lies below b, none standing for infinity. -/
def ltInf : Option Nat → Option Nat → Bool
  | some a, some b => decide (a < b)
  | some _, none => true
  | none, _ => false

/-- One element of a block under chosen scales: its code and its flags (R122). -/
def dxElement (dx4 : Bool) (e0 e1 : Nat) (v : FV) : Nat × Flags :=
  match v with
  | .nan s => (0, if s then flNV else 0)
  | v =>
    let (q0, r0, l0) := dxTry dx4 e0 v
    let (q1, r1, l1) := dxTry dx4 e1 v
    let one := !ltInf r0 r1
    let q := if one then q1 else q0
    let r := if one then r1 else r0
    let l := if one then l1 else l0
    let b := dxBits dx4
    (ofBool one * 2 ^ (b + 1) + ofBool v.neg * 2 ^ b + q,
     (if r = some 0 then 0 else flNX) ||| (if l then flOF else 0))

/-- floor(log2 |v|) + 127 at least 0, for the largest magnitude; infinity counts as 2^127 (R122). -/
def dxTop : FV → Nat
  | .fin _ m e => if m = 0 then 0 else (e + Nat.log2 m + 127).toNat
  | .inf _ => 254
  | .nan _ => 0

/-- The scales of a block (R122): supplied, or from its largest magnitude; E0 is 0xFF where any element is NaN. -/
def dxScales (dx4 : Bool) (supplied : Option (Nat × Nat)) (vs : List FV) : Nat × Nat :=
  let (e0, e1) := match supplied with
    | some p => p
    | none =>
      let e1 := vs.foldl (fun a v => Nat.max a (dxTop v)) 0
      (e1 - (dxSh dx4 + 1), e1)
  (if vs.any FV.isNan then 255 else e0, e1)

/-! ### The matrix accumulation order (R124 to R127) -/

/-- MNV and MOV raised by a step. -/
structure MFlags where
  mnv : Bool := false
  mov : Bool := false
  deriving DecidableEq, Repr

def MFlags.or (a b : MFlags) : MFlags := ⟨a.mnv || b.mnv, a.mov || b.mov⟩

/-- The exact product of two elements (R125). -/
def prodV (a b : FV) : FV :=
  match a, b with
  | .nan _, _ => .nan false
  | _, .nan _ => .nan false
  | .inf n1, .inf n2 => .inf (n1 != n2)
  | .inf n1, .fin n2 m _ => if m = 0 then .nan false else .inf (n1 != n2)
  | .fin n1 m _, .inf n2 => if m = 0 then .nan false else .inf (n1 != n2)
  | .fin n1 m1 e1, .fin n2 m2 e2 => .fin (n1 != n2) (m1 * m2) (e1 + e2)

/-- sat_acc of a rounded value (R125): an overflow gives the largest finite value and sets MOV. -/
def Fmt.sat (f : Fmt) (neg : Bool) (r : Nat × Flags) : Nat × MFlags :=
  if r.2 &&& flOF = 0 then (r.1, {}) else (f.maxFin neg, { mov := true })

/-- sat_acc(rne_acc(z * 2^e)) for a nonzero z. -/
def Fmt.satRound (f : Fmt) (z e : Int) : Nat × MFlags :=
  f.sat (decide (z < 0)) (f.round .rne false (decide (z < 0)) z.natAbs e false)

/-- Exact sum of finite values as z * 2^e. -/
def sumExact : List FV → Int × Int
  | [] => (0, 0)
  | .fin n m e :: t =>
    let (z, x) := sumExact t
    if z = 0 then (sgnM n m, e)
    else
      let q := if e ≤ x then e else x
      (sgnM n m * 2 ^ (e - q).toNat + z * 2 ^ (x - q).toNat, q)
  | _ :: t => sumExact t

/-- One chunk of products (R125). -/
def Fmt.chunk (f : Fmt) (ps : List (FV × FV)) : Nat × MFlags :=
  let p := ps.map fun ab => prodV ab.1 ab.2
  let hasInf := fun n => p.any fun v => v == .inf n
  if p.any FV.isNan || (hasInf false && hasInf true) then
    (f.nan, { mnv := !(ps.any fun ab => ab.1.isNan || ab.2.isNan) })
  else if hasInf false then (f.inf false, {})
  else if hasInf true then (f.inf true, {})
  else
    let (z, e) := sumExact p
    if z = 0 then (f.zero (p.all FV.neg), {}) else f.satRound z e

/-- add_acc (R125). -/
def Fmt.addAcc (f : Fmt) (a t : Nat) : Nat × MFlags :=
  match f.val a, f.val t with
  | .nan _, _ => (f.nan, {})
  | _, .nan _ => (f.nan, {})
  | .inf n1, .inf n2 => if n1 == n2 then (f.inf n1, {}) else (f.nan, { mnv := true })
  | .inf n, _ => (f.inf n, {})
  | _, .inf n => (f.inf n, {})
  | .fin n1 m1 e1, .fin n2 m2 e2 =>
    let (z, e) := addExact n1 m1 e1 n2 m2 e2
    if z = 0 then (f.zero (n1 && n2), {}) else f.satRound z e

/-- The update of one accumulator element: chunks in increasing K order (R125). -/
def Fmt.accumulate (f : Fmt) (acc : Nat) : List (List (FV × FV)) → Nat × MFlags
  | [] => (acc, {})
  | c :: cs =>
    let (t, w1) := f.chunk c
    let (a, w2) := f.addAcc acc t
    let (r, w3) := f.accumulate a cs
    (r, (w1.or w2).or w3)

/-- The fold of partial results in increasing member order (R127). -/
def Fmt.foldPartials (f : Fmt) (acc : Nat) : List Nat → Nat × MFlags
  | [] => (acc, {})
  | p :: ps =>
    let (a, w) := f.addAcc acc p
    let (r, w') := f.foldPartials a ps
    (r, w.or w')

/-- Split a list into pieces of n. -/
def pieces {α : Type} (n : Nat) : Nat → List α → List (List α)
  | 0, _ => []
  | k + 1, l => l.take n :: pieces n k (l.drop n)

end Sys2Proof.Machine
end

