-- ==== Sys2Proof/Machine/Memory.lean ====
section
/-! DEFINITION. Physical memory, caches and directories: what a read returns and how far a write is published
(R72, R80 to R103, R387). Loads, stores, atomics, releases and the directory events all use these operations. -/

namespace Sys2Proof.Machine

/-! ### The physical address map (R72, R73, R82) -/

/-- Target of a physical address (R72). -/
inductive PaKind
  | hbm (stack : Nat)
  | aperture
  | second (port : Nat)
  | host
  | peer (link : Nat)
  | reserved
  deriving DecidableEq, Repr

/-- HBM4 stack that serves an HBM address (R73). -/
def hbmStack (fine : Bool) (pa : Nat) : Nat :=
  if fine then Nat.xor (pa / 256 % 8) (pa / 2 ^ 36 % 8) else pa / 2 ^ 36 % 8

/-- Decode a physical address (R72, R82). -/
def paKind (fine : Bool) (pa : Nat) : PaKind :=
  if pa < 2 ^ 39 then .hbm (hbmStack fine pa)
  else if pa < 2 ^ 40 then .aperture
  else if pa < 0x080000000000 then .reserved
  else if pa < 0x100000000000 then .second (1 + pa / 4096 % 3)
  else if pa < 0x200000000000 then .host
  else if pa < 0x280000000000 then .peer ((pa - 0x200000000000) / 2 ^ 40)
  else .reserved

/-- The window, with its number, that satisfies f and covers a physical address (R83). -/
def State.windowWith (s : State) (f : Window → Bool) (pa : Nat) : Option (Nat × Window) :=
  s.win.find? fun c => f c.2 && decide (c.2.ap ≤ pa) && decide (pa < c.2.ap + 128 * c.2.size)

/-- The enabled window that covers a physical address (R83). -/
def State.windowAt (s : State) (pa : Nat) : Option Window := (s.windowWith (·.en) pa).map Prod.snd

/-- The window whose conversion applies at the home: enabled, or still writing back after its disable (R85, R86). -/
def State.windowHome (s : State) (pa : Nat) : Option (Nat × Window) := s.windowWith (fun w => w.en || w.busy) pa

/-- Blocks per cached line and bytes per cached block (R84). -/
def Window.blocks (w : Window) : Nat := if w.blen then 7 else 3

def Window.blockLen (w : Window) : Nat := if w.blen then 16 else 32

/-- Bytes of the stored elements of a block (R84). -/
def Window.storedLen (w : Window) : Nat := if w.fmt then w.blockLen / 2 else w.blockLen

/-- First byte and number of the stored element bytes, and of the stored scale bytes, of aperture line n (R84). -/
def Window.stored (w : Window) (n : Nat) : List (Nat × Nat) :=
  [(w.elem + w.storedLen * (w.blocks * n), w.storedLen * w.blocks), (w.scale + 2 * (w.blocks * n), 2 * w.blocks)]

/-- Ordinary lines that hold the stored form of aperture line n. -/
def Window.storedLines (w : Window) (n : Nat) : List Nat :=
  ((w.stored n).flatMap fun r => (List.range (r.2 / 128 + 2)).map (r.1 / 128 + ·)).filter fun l =>
    (w.stored n).any fun r => decide (r.1 < 128 * (l + 1)) && decide (128 * l < r.1 + r.2)

/-- HBM addresses that the controllers reach for aperture line n: the first and the last byte of each range. -/
def Window.reaches (w : Window) (n : Nat) : List Nat := (w.stored n).flatMap fun r => [r.1, r.1 + r.2 - 1]

/-- What an access to a physical address waits for, if anything: a function that is not ready (R20), a window's
controllers among them (R83), or data of the second tier that its port, not being ready, or an expander's DRAM does not
give at once (R82, R400). -/
def State.paWait (s : State) (pa : Nat) : Option Wait :=
  let hbm := fun h => if s.rdymap.getLsbD (20 + h) then none else some (Wait.notReady (.hbm (Fin.ofNat 8 h)))
  match paKind s.hbmFine pa with
  | .hbm h => hbm h
  | .second p =>
    if !s.rdymap.getLsbD (28 + p) || s.flash.contains (pa / 4096) then some (.deferred (pa / 4096)) else none
  | .host => if s.rdymap.getLsbD 28 then none else some (.notReady (.cxl 0))
  | .peer l => if s.rdymap.getLsbD (32 + l) then none else some (.notReady (.peer (Fin.ofNat 8 l)))
  | .aperture => match s.windowAt pa with
    | some w =>
      let ws := (w.reaches ((pa - w.ap) / 128)).filterMap fun a => hbm (hbmStack s.hbmFine a)
      if ws.isEmpty then none else some (Wait.join ws)
    | none => none
  | .reserved => none

/-! ### Directory slices, homes and base dies (R12, R80, R108) -/

/-- Slice of an interposer's directory: h (R12). -/
def iprSlice (pa : Nat) : Nat := (pa / 2 ^ 7 + pa / 2 ^ 15 + pa / 2 ^ 23 + pa / 2 ^ 31) % 2

/-- Stack whose base die holds the package directory slice (R12). -/
def pkgSlice (pa : Nat) : Nat :=
  Nat.xor (Nat.xor (pa / 2 ^ 7 % 4) (pa / 2 ^ 15 % 4)) (Nat.xor (pa / 2 ^ 23 % 4) (pa / 2 ^ 31 % 4))

/-- Stack whose LLC is the home of a line; none where no LLC holds it (R80, R82). -/
def State.llcOf (s : State) (line : Nat) : Option Nat :=
  match paKind s.hbmFine (128 * line) with
  | .hbm h => some (h / 2)
  | .aperture => some ((s.windowHome (128 * line)).elim 0 fun w => w.1 / 16)
  | .second p => some p
  | .host => some 0
  | .peer _ | .reserved => none

/-- Unit number of a stack's LLC. -/
def llcUnit (stack : Nat) : Nat := 80 + stack

/-- Key of the time counter of the die on which a unit's part for a line stands: compute die d is d, the base die of
stack s is 72 + s (R12, R108). -/
def dieKey (u line : Nat) : Nat :=
  if u < 64 then u / 8
  else if u < 72 then u - 64
  else if u < 76 then u
  else if u < 78 then 72 + 2 * (u - 76) + iprSlice (128 * line)
  else if u = 78 then 72 + pkgSlice (128 * line)
  else u - 8

/-- Keys of the dies that hold the slices of the level-y directory of cluster k (R12, R97). -/
def slices (k : Nat) : Scope → List Nat
  | .core | .clu | .die => [k / 8]
  | .stk => [72 + k / 16]
  | .ipr => [72 + k / 32 * 2, 73 + k / 32 * 2]
  | .pkg | .sys => [72, 73, 74, 75]

/-- Counters that run at package time: those of the compute dies, of the base dies and of the trust die. -/
def timeKeys : List Nat := List.range 8 ++ [72, 73, 74, 75, 79]

/-- The time-carry rule (R108): a message from one die reaches another. -/
def State.carryTime (s : State) (src dst : Nat) : State :=
  let t := s.times.get 0 src
  if s.times.get 0 dst < t then { s with times := s.times.set 0 dst t } else s

/-! ### Bytes of memory -/

/-- What a byte that nothing has written reads as (log entry 1). -/
def memDefault : Byte := 0

/-- One byte of physical memory, as the controllers store it. -/
def State.memByte (s : State) (pa : Nat) : Byte := s.mem.get memDefault pa

/-- Write one byte of physical memory. -/
def State.setMemByte (s : State) (pa : Nat) (b : Byte) : State := { s with mem := s.mem.set memDefault pa b }

/-- Write bytes at consecutive physical addresses. -/
def State.setMemBytes (s : State) (pa : Nat) : List Byte → State
  | [] => s
  | b :: t => (s.setMemByte pa b).setMemBytes (pa + 1) t

/-- The line of 128 bytes at a physical line number. -/
def State.memLine (s : State) (line : Nat) : Line :=
  BitVec.ofNat 1024 (ofBytes ((List.range 128).map fun k => s.memByte (128 * line + k)))

/-- Write the line of 128 bytes at a physical line number. -/
def State.setMemLine (s : State) (line : Nat) (d : Line) : State :=
  s.setMemBytes (128 * line) ((List.range 128).map d.byte)

/-- Set bits 8k + 7 : 8k for every byte k of a mask. -/
def byteBits (m : BitVec 128) : Line :=
  BitVec.ofNat 1024 (ofBytes ((List.range 128).map fun k => if m.getLsbD k then 0xFF#8 else 0))

/-- Replace exactly the masked bytes (R96). -/
def mergeBytes (old new : Line) (m : BitVec 128) : Line :=
  if m = 0 then old else (old &&& ~~~ byteBits m) ||| (new &&& byteBits m)

/-- The mask of n bytes from offset o of a line. -/
def byteMask (o n : Nat) : BitVec 128 := BitVec.ofNat 128 ((2 ^ n - 1) * 2 ^ o)

/-- Bytes placed at offset o of a line of zeros. -/
def placeBytes (o : Nat) (bs : List Byte) : Line := BitVec.ofNat 1024 (ofBytes bs * 2 ^ (8 * o))

/-! ### Encryption (R387 to R390) -/

/-- The key that an ASID's accesses use; none where it holds none. ASID 512 is the firmware's. -/
def State.keyOf (s : State) (asid : Nat) : Option (BitVec 512) :=
  let k := s.keys.get Key.none asid
  if k.valid then some k.key else none

/-- A line of HBM as the controllers decrypt it for an ASID: plaintext where the ASID holds no key (R388). -/
def State.hbmLine (s : State) (line asid : Nat) : Line :=
  match s.keyOf asid with
  | none => s.memLine line
  | some k => (Config.xts k line).symm (s.memLine line)

/-- Write a line of HBM under the key of an ASID. -/
def State.setHbmLine (s : State) (line asid : Nat) (d : Line) : State :=
  s.setMemLine line (match s.keyOf asid with
    | none => d
    | some k => Config.xts k line d)

/-! ### Transcode windows (R84, R85) -/

/-- A stored DX4 nibble as its cached DX8 byte (R85). -/
def widenDx4 (n : Nat) : Byte := BitVec.ofNat 8 (n / 4 % 4 * 64 + n % 4 * 16)

/-- A cached DX8 byte as its stored DX4 nibble: min(3, rne(m / 16)), ties to even (R85). -/
def narrowDx8 (b : Byte) : Nat :=
  let m := b.toNat % 64
  let q := m / 16
  let r := m % 16
  let q' := if r > 8 || (r == 8 && q % 2 == 1) then q + 1 else q
  b.toNat / 64 * 4 + (if q' > 3 then 3 else q')

/-- A byte of HBM as the controllers decrypt it for an ASID. -/
def State.hbmByte (s : State) (pa asid : Nat) : Byte := (s.hbmLine (pa / 128) asid).byte (pa % 128)

/-- Write a byte of HBM under the key of an ASID, the rest of its line kept as the ASID reads it. -/
def State.setHbmByte (s : State) (pa asid : Nat) (b : Byte) : State :=
  s.setHbmLine (pa / 128) asid
    (mergeBytes (s.hbmLine (pa / 128) asid) (placeBytes (pa % 128) [b]) (byteMask (pa % 128) 1))

/-- Byte j of the cached view of aperture line n (R84, R85). -/
def State.windowByte (s : State) (w : Window) (asid n j : Nat) : Byte :=
  let b := w.blockLen
  let k := w.blocks * n + j / (b + 2)
  let i := j % (b + 2)
  if w.blocks ≤ j / (b + 2) then 0
  else if i < b then
    (if w.fmt then
       widenDx4 ((s.hbmByte (w.elem + b / 2 * k + i / 2) asid).toNat / (if i % 2 = 0 then 1 else 16) % 16)
     else s.hbmByte (w.elem + b * k + i) asid)
  else s.hbmByte (w.scale + 2 * k + (i - b)) asid

/-- Write back byte j of aperture line n; pad bytes are discarded (R85). -/
def State.setWindowByte (s : State) (w : Window) (asid n j : Nat) (v : Byte) : State :=
  let b := w.blockLen
  let k := w.blocks * n + j / (b + 2)
  let i := j % (b + 2)
  if w.blocks ≤ j / (b + 2) then s
  else if i < b then
    (if w.fmt then
       let a := w.elem + b / 2 * k + i / 2
       let old := (s.hbmByte a asid).toNat
       s.setHbmByte a asid (BitVec.ofNat 8
         (if i % 2 = 0 then old / 16 * 16 + narrowDx8 v else narrowDx8 v * 16 + old % 16))
     else s.setHbmByte (w.elem + b * k + i) asid v)
  else s.setHbmByte (w.scale + 2 * k + (i - b)) asid v

/-- Fill of a line at its home: HBM, a window's cached view, or memory outside the package (R80, R85, R387). -/
def State.homeLine (s : State) (line asid : Nat) : Line :=
  match paKind s.hbmFine (128 * line) with
  | .hbm _ => s.hbmLine line asid
  | .aperture => match s.windowHome (128 * line) with
    | some (_, w) => BitVec.ofNat 1024 (ofBytes ((List.range 128).map
        (s.windowByte w asid (line - w.ap / 128))))
    | none => 0
  | _ => s.memLine line

/-! ### Copies (R93, R94) -/

/-- Key of a unit's copy of a line. -/
def copyKey (u line : Nat) : Nat := u * 2 ^ 41 + line

/-- The copy of a line that a unit holds: a cluster cache, the LLC of a stack, or the entry of a directory. -/
def State.copy (s : State) (u line : Nat) : Copy := s.coh.get Copy.empty (copyKey u line)

def State.setCopy (s : State) (u line : Nat) (c : Copy) : State :=
  { s with coh := s.coh.set Copy.empty (copyKey u line) c }

/-- Bytes of a line that a unit's copy holds. -/
def State.getBytes (s : State) (u line o n : Nat) : List Byte :=
  (List.range n).map fun k => (s.copy u line).data.byte (o + k)

/-! ### The home of a line: its LLC before memory (R80, R387, R402) -/

/-- Lines of HBM that a fill of a line reads (R80, R84). -/
def State.fillLines (s : State) (line : Nat) : List Nat := match paKind s.hbmFine (128 * line) with
  | .hbm _ => [line]
  | .aperture => match s.windowHome (128 * line) with
    | some (_, w) => w.storedLines (line - w.ap / 128)
    | none => []
  | _ => []

/-- A fill meets the corrected errors of the lines that it reads (R413). -/
def State.meetFill (s : State) (line : Nat) : State :=
  match s.latent.filter fun e => (s.fillLines line).any fun l => e.1 == .hbm l with
  | [] => s
  | es => { s with met := s.met ++ es }

/-- A line as its home holds it: its LLC is filled under the ASID of the access; memory that no LLC holds is read
itself. -/
def State.homeRead (s : State) (line asid : Nat) : State × Copy :=
  match s.llcOf line with
  | some st =>
    let c := s.copy (llcUnit st) line
    if c.valid then (s, c)
    else
      let c : Copy := { valid := true, data := s.homeLine line asid, tag := asid }
      ((s.meetFill line).setCopy (llcUnit st) line c, c)
  | none => (s, { valid := true, data := s.memLine line, tag := asid })

/-- Masked bytes of a line reach its home: its LLC holds them dirty; memory that no LLC holds takes them itself. -/
def State.homeMerge (s : State) (line asid : Nat) (d : Line) (m : BitVec 128) : State :=
  if m = 0 then s
  else match s.llcOf line with
  | some st =>
    let (s, c) := s.homeRead line asid
    s.setCopy (llcUnit st) line { c with data := mergeBytes c.data d m, dirty := c.dirty ||| m }
  | none => s.setMemLine line (mergeBytes (s.memLine line) d m)

/-- What is published at package level is published to the home (R94, state M; R96). -/
def State.toHome (s : State) (line : Nat) : State :=
  let c := s.copy 78 line
  if c.dirty = 0 then s else (s.homeMerge line c.tag c.data c.dirty).setCopy 78 line { c with dirty := 0 }

/-! ### Publication and invalidation (R94 to R101) -/

/-- Directories and clusters, widest first, those of one level in increasing number (R98). -/
def unitsWideFirst : List Nat :=
  (List.range 2).map (76 + ·) ++ (List.range 4).map (72 + ·) ++ (List.range 8).map (64 + ·) ++ List.range 64

/-- Units strictly inside p that hold a valid copy of the line, but for those to be kept. -/
def State.others (s : State) (p : Nat) (keep : Nat → Bool) (line : Nat) : List Nat :=
  unitsWideFirst.filter fun u => inUnit u p && u != p && !keep u && (s.copy u line).valid

/-- Bytes written within a unit or the units around it, and not published as far as p. -/
def State.below (s : State) (u p line : Nat) : BitVec 128 :=
  (unitsWideFirst.filter fun w => inUnit u w && inUnit w p && w != p).foldl
    (fun m w => m ||| (s.copy w line).dirty) 0

/-- Invalidate the copies inside p but for those of some units. Each publishes its unpublished bytes in its InvA; they
are applied after the publication that caused the invalidation, and so are newer than it (R96). The copies that stay
take them, but for bytes that their own unit has written and not published to p. -/
def State.invalidateOthers (s : State) (p : Nat) (keep : Nat → Bool) (line : Nat) : State :=
  let os := s.others p keep line
  let (d, m) := os.foldl (fun r u =>
    (mergeBytes r.1 (s.copy u line).data (s.copy u line).dirty, r.2 ||| (s.copy u line).dirty)) ((0 : Line), (0 : BitVec 128))
  let s := os.foldl (fun s u => s.setCopy u line Copy.empty) s
  if m = 0 then s
  else
    let pc := s.copy p line
    let s := s.setCopy p line { pc with data := mergeBytes pc.data d m, dirty := pc.dirty ||| m }
    (s.others p (fun _ => false) line).foldl (fun s u =>
      let o := s.copy u line
      s.setCopy u line { o with data := mergeBytes o.data d (m &&& ~~~ s.below u p line) }) s

/-- Masked bytes from unit c reach the next wider unit p, whose copy is valid: they replace those of p, and the copies
of p outside c are invalidated (R96). -/
def State.receive (s : State) (c p line : Nat) (d : Line) (m : BitVec 128) : State :=
  let pc := s.copy p line
  let s := s.setCopy p line { pc with data := mergeBytes pc.data d m, dirty := pc.dirty ||| m, owner := some c }
  let s := s.invalidateOthers p (inUnit · c) line
  if p = 78 then s.toHome line else s

/-- Unit c's unpublished bytes of a line go up to the next wider unit p (R96). -/
def State.raise (s : State) (c p line : Nat) : State :=
  let cc := s.copy c line
  if cc.dirty = 0 then s else (s.setCopy c line { cc with dirty := 0 }).receive c p line cc.data cc.dirty

/-- Pub of a P line, answered by PubA (R96, R108). -/
def State.publish (s : State) (c p line : Nat) : State :=
  if (s.copy c line).dirty = 0 then s
  else ((s.carryTime (dieKey c line) (dieKey p line)).raise c p line).carryTime (dieKey p line) (dieKey c line)

/-- Fwd to the owner of a line: the holder's unpublished bytes come up to p, from the innermost owner (R96). -/
def State.gather (line : Nat) : Nat → Nat → State → State
  | 0, _, s => s
  | f + 1, p, s => match (s.copy p line).owner with
    | none => s
    | some c => if (s.copy c line).valid then (State.gather line f c s).raise c p line else s

/-- Bring a valid copy of a line to the first unit of a path, from the nearest valid copy on it (R91, R95): a wider
unit that lists an owner forwards to it; the home serves the package level. -/
def State.fetch (line asid : Nat) : List Nat → State → State
  | [], s => s
  | u :: rest, s =>
    if (s.copy u line).valid then s
    else match rest with
      | [] =>
        let (s, c) := s.homeRead line asid
        s.setCopy u line { valid := true, data := c.data, tag := c.tag }
      | p :: _ =>
        let s := State.gather line 4 p (State.fetch line asid rest s)
        s.setCopy u line { valid := true, data := (s.copy p line).data, tag := (s.copy p line).tag }

/-- The cluster to which a unit forwards a request for a line: along its owners, or, where an owner's copy is gone, a
cluster that shares bytes which no wider level has; none where the unit lists the line as shared only (R94, R96). -/
def State.holder (s : State) (line : Nat) : Nat → Nat → Option Nat
  | 0, _ => none
  | f + 1, u =>
    let c := s.copy u line
    if !c.valid then none
    else if u < 64 then some u
    else match c.owner with
      | some o => s.holder line f o
      | none => if c.dirty = 0 then none else (List.range 64).find? fun k => inUnit k u && (s.copy k line).valid

/-- Key of the die that sends Data for a line to a request on a path: that of the owner to which a directory of the path
forwards it, else that of the line's home, whose LLC answers without a Fwd (R93, R108, R293). -/
def State.dataFrom (s : State) (line : Nat) (path : List Nat) : Nat :=
  match path.findSome? fun u => s.holder line 5 u with
  | some k => k / 8
  | none => match s.llcOf line, paKind s.hbmFine (128 * line) with
    | some st, _ => 72 + st
    | none, .peer l => 72 + l / 2
    | none, _ => dieKey 78 line

/-- A cluster's request for a line: RdS up its path, answered by Data that carries the holder's time (R95, R108). -/
def State.request (s : State) (k line asid : Nat) : State :=
  let path := cluPath k
  if (s.copy k line).valid then s
  else (State.fetch line asid path s).carryTime (s.dataFrom line path) (k / 8)

/-- Publish the unpublished bytes of a line up the first n steps of a path (R95, R96). -/
def State.carryUp (line asid : Nat) : Nat → List Nat → State → State
  | n + 1, c :: p :: rest, s =>
    let s := State.fetch line asid (p :: rest) s
    State.carryUp line asid n (p :: rest) (s.publish c p line)
  | _, _, s => s

/-- Set owners along the path up to position n: each unit's newest copy is in the unit before it (R95). -/
def State.setOwners (line : Nat) : Nat → List Nat → State → State
  | n + 1, c :: p :: rest, s =>
    State.setOwners line n (p :: rest) (s.setCopy p line { s.copy p line with owner := some c })
  | _, _, s => s

/-- RdX or Upg of cluster k at position n of its path: the requester's bytes are carried up, every copy in the unit
that is not on the path is invalidated, and the path holds the line (R95). -/
def State.obtain (line asid n k : Nat) (s : State) : State :=
  let path := cluPath k
  let s := State.carryUp line asid n path (s.request k line asid)
  if n = 0 then s
  else State.setOwners line n path (s.invalidateOthers (path.getD n 78) (path.take n).contains line)

/-- Write masked bytes of a line, held at position n of the path, which has been obtained: every copy on the path up to
that unit takes them, and the unit lists them as unpublished to wider levels. -/
def State.putBytes (line n : Nat) (path : List Nat) (d : Line) (m : BitVec 128) (s : State) : State :=
  let s := (path.take (n + 1)).foldl (fun s u =>
    let c := s.copy u line
    s.setCopy u line { c with data := mergeBytes c.data d m }) s
  let u := path.getD n 78
  let c := s.copy u line
  let s := s.setCopy u line { c with dirty := c.dirty ||| m }
  if u = 78 then s.toHome line else s

/-- The dirty set of a cluster's die takes the ASID for which its cache holds a line modified (R393). -/
def State.noteDirty (s : State) (k asid : Nat) : State :=
  if ((s.dqs.get {} (k / 8)).dirty).contains asid then s
  else { s with dqs := s.dqs.upd {} (k / 8) fun q => { q with dirty := q.dirty ++ [asid] } }

/-- A write of masked bytes of one line at scope X from cluster k (R95). -/
def State.writeLine (s : State) (k : Nat) (x : Scope) (asid line : Nat) (d : Line) (m : BitVec 128) : State :=
  State.putBytes line x.depth (cluPath k) d m (State.obtain line asid x.depth k (s.noteDirty k asid))

/-- A write of bytes within one line at scope X from cluster k. -/
def State.writeFrom (s : State) (k : Nat) (x : Scope) (asid pa : Nat) (bs : List Byte) : State :=
  s.writeLine k x asid (pa / 128) (placeBytes (pa % 128) bs) (byteMask (pa % 128) bs.length)

/-- A read from cluster k at the cluster cache or beyond, within one line (R91). -/
def State.readFrom (s : State) (k asid pa n : Nat) : State × List Byte :=
  let s := s.request k (pa / 128) asid
  (s, s.getBytes k (pa / 128) (pa % 128) n)

/-! ### Accesses at the package directory -/

/-- Recall a line to its home: every copy is invalidated, and its bytes are published as far as the home (R96). -/
def State.recallHome (s : State) (line asid : Nat) : State :=
  let s := State.gather line 4 78 (State.fetch line asid [78] s)
  ((s.invalidateOthers 78 (fun _ => false) line).toHome line).setCopy 78 line Copy.empty

/-- A read at the package directory, within one line: walkers, the host and hardware (R375, R398). -/
def State.readPkg (s : State) (asid pa n : Nat) : State × List Byte :=
  let line := pa / 128
  if (s.copy 78 line).valid then
    let s := State.gather line 4 78 s
    (s, s.getBytes 78 line (pa % 128) n)
  else
    let (s, c) := s.homeRead line asid
    (s, (List.range n).map fun k => c.data.byte (pa % 128 + k))

/-- A write at the package directory, within one line: every cached copy is recalled first (R398). -/
def State.writePkg (s : State) (asid pa : Nat) (bs : List Byte) : State :=
  (s.recallHome (pa / 128) asid).homeMerge (pa / 128) asid (placeBytes (pa % 128) bs) (byteMask (pa % 128) bs.length)

/-- Read n bytes at the package directory, over as many lines as they span. -/
def State.readPkgs (s : State) (asid : Nat) : Nat → Nat → State × List Byte
  | _, 0 => (s, [])
  | pa, n + 1 =>
    let (s, b) := s.readPkg asid pa 1
    let (s, t) := s.readPkgs asid (pa + 1) n
    (s, b ++ t)

/-- Write bytes at the package directory, over as many lines as they span. -/
def State.writePkgs (s : State) (asid : Nat) : Nat → List Byte → State
  | _, [] => s
  | pa, b :: t => (s.writePkg asid pa [b]).writePkgs asid (pa + 1) t

/-! ### Cores: write-through buffer and L1 (R81, R90, R91) -/

def l1Key (core line : Nat) : Nat := core * 2 ^ 41 + line

def State.l1Line (s : State) (core line : Nat) : Copy := s.l1.get Copy.empty (l1Key core line)

/-- Update a present line of a core's L1 (R81). -/
def State.l1Merge (s : State) (core line : Nat) (d : Line) (m : BitVec 128) : State :=
  let c := s.l1Line core line
  if c.valid then { s with l1 := s.l1.set Copy.empty (l1Key core line) { c with data := mergeBytes c.data d m } }
  else s

/-- Update bytes of a present line of a core's L1 (R81). -/
def State.l1Put (s : State) (core pa : Nat) (bs : List Byte) : State :=
  s.l1Merge core (pa / 128) (placeBytes (pa % 128) bs) (byteMask (pa % 128) bs.length)

/-- The cluster cache accepts a WT: the store takes effect at its scope (R90, R95). -/
def State.acceptWt (s : State) (e : WtEntry) : State :=
  (s.writeLine (cluOf e.core) e.scope e.asid e.line e.data e.mask).l1Merge e.core e.line e.data e.mask

/-- Accept every store of the list in order. -/
def State.acceptAll (s : State) (q : List WtEntry) : State := q.foldl State.acceptWt s

/-- Drain the write-through buffer of a core (R92). -/
def State.drainCore (s : State) (core : Nat) : State :=
  let mine := s.wtq.filter fun e => e.core == core
  let rest := s.wtq.filter fun e => e.core != core
  ({ s with wtq := rest } : State).acceptAll mine

/-- The oldest store of a core's buffer, if any, and the buffer without it. -/
def takeWt (core : Nat) : List WtEntry → Option (WtEntry × List WtEntry)
  | [] => none
  | e :: t => if e.core = core then some (e, t) else
    match takeWt core t with
    | none => none
    | some (x, r) => some (x, e :: r)

/-- WT: the cluster cache accepts a core's oldest buffered request (R90). R218, R225 and R290 leave the order of one
core's stores open for other parties; the model always takes the oldest (log entry 66). -/
def State.wtOne (s : State) (core : Nat) : State :=
  match takeWt core s.wtq with
  | none => s
  | some (e, r) => ({ s with wtq := r } : State).acceptWt e

/-- Pending-store count of a group: its line requests that no cluster cache has accepted (R90). -/
def State.pendingStores (s : State) (gid : Nat) : Nat := (s.wtq.filter fun e => e.gid == gid).length

/-- Issue a store's request for one line from a core: buffered, a present L1 line updated; at 1,023 pending the oldest
are accepted first (R90, R91). -/
def State.issueStore (s : State) (e : WtEntry) : State :=
  let s := if s.pendingStores e.gid < 1023 then s else s.drainCore e.core
  ({ s with wtq := s.wtq ++ [e] } : State).l1Merge e.core e.line e.data e.mask

/-- Add bytes to the line requests of one instruction: one request a line, later bytes over earlier (R90, R218). -/
def addRequest (e : WtEntry) : List WtEntry → List WtEntry
  | [] => [e]
  | f :: t =>
    if f.line = e.line && f.asid = e.asid then
      { f with data := mergeBytes f.data e.data e.mask, mask := f.mask ||| e.mask } :: t
    else f :: addRequest e t

/-- The line requests of one instruction's accesses, in the order of their first bytes. -/
def lineRequests (es : List WtEntry) : List WtEntry := es.foldl (fun q e => addRequest e q) []

/-- A store of bytes within one line, as its core's buffer holds it. -/
def WtEntry.ofBytes (core gid : Nat) (scope : Scope) (asid pa : Nat) (bs : List Byte) : WtEntry :=
  { core := core, gid := gid, line := pa / 128, scope := scope, asid := asid
    data := placeBytes (pa % 128) bs, mask := byteMask (pa % 128) bs.length }

/-- One byte as the buffered stores of a core give it, the newest last. -/
def wtByte (core pa : Nat) (q : List WtEntry) (b : Byte) : Byte :=
  q.foldl (fun b e => if e.core = core && e.line = pa / 128 && e.mask.getLsbD (pa % 128) then e.data.byte (pa % 128) else b) b

/-- Bytes as the buffered stores of a core give them over what its cluster or its L1 returned (R91). -/
def State.overBuffer (s : State) (core pa : Nat) (bs : List Byte) : List Byte :=
  (List.range bs.length).map fun k => wtByte core (pa + k) s.wtq (bs.getD k 0)

/-- A load by a group of a core: the write-through buffer, then the L1, then the nearest valid copy; a line read
allocates in the L1. bypass: an acquire load of cluster scope or wider (R91). -/
def State.loadCore (s : State) (core asid pa n : Nat) (bypass : Bool) : State × List Byte :=
  let line := pa / 128
  let c := s.l1Line core line
  let (s, d) :=
    if c.valid && !bypass then (s, c.data)
    else
      let s := s.request (cluOf core) line asid
      let d := (s.copy (cluOf core) line).data
      let c' : Copy := { valid := true, data := d }
      ({ s with l1 := s.l1.set Copy.empty (l1Key core line) c' }, d)
  (s, s.overBuffer core pa ((List.range n).map fun k => d.byte (pa % 128 + k)))

/-- Invalidate the whole L1 of a core (R92). -/
def State.flushL1 (s : State) (core : Nat) : State :=
  { s with l1 := s.l1.filter fun c => c.1 / 2 ^ 41 != core }

/-! ### Drains (R92, R96, R97) -/

/-- Lines that unit u holds with unpublished bytes. -/
def State.dirtyLines (s : State) (u : Nat) : List Nat :=
  (s.coh.filter fun c => c.1 / 2 ^ 41 == u && c.2.dirty != 0).map fun c => c.1 % 2 ^ 41

/-- Publish every line held P at unit c to the next wider unit p (R96). -/
def State.publishAll (s : State) (c p : Nat) (rest : List Nat) : State :=
  (s.dirtyLines c).foldl (fun s line => (State.fetch line (s.copy c line).tag (p :: rest) s).publish c p line) s

/-- The drain of R96 along the first n steps of a path. -/
def State.drainPath : Nat → List Nat → State → State
  | n + 1, c :: p :: rest, s => State.drainPath n (p :: rest) (s.publishAll c p rest)
  | _, _, s => s

/-- DrQ to every slice of the level-Y directory of cluster k, each answered by DrA with its die's time (R96, R108). -/
def State.drainAcks (s : State) (k : Nat) (y : Scope) : State :=
  (slices k y).foldl (fun s d => s.carryTime d (k / 8)) s

/-- The drain of a release of scope Y from cluster k (R96). -/
def State.drain (s : State) (k : Nat) (y : Scope) : State :=
  (State.drainPath y.depth (cluPath k) s).drainAcks k y

/-! ### Atomics (R102, R103) -/

/-- Region of the contention predictor of a stack (R103). -/
def predKey (stack pa : Nat) : Nat := stack * 4096 + pa / 4096 % 4096

/-- Update a predictor counter by the outcome of an atomic of package scope (R103). -/
def State.predict (s : State) (k pa : Nat) (ath recalled : Bool) : State :=
  let key := predKey (k / 16) pa
  let c := s.pred.get 1 key
  let same := s.lastAth.get 0 (pa / 128) == k + 1
  let c' : BitVec 2 := if ath then (if same && c != 0 then c - 1 else c)
    else (if recalled && c != 3 then c + 1 else c)
  { s with pred := s.pred.set 1 key c',
           lastAth := if ath then s.lastAth.set 0 (pa / 128) (k + 1) else s.lastAth }

/-- AtH: a read-modify-write at the home, after every cached copy has been invalidated (R102, R231, R399). -/
def State.rmwHome (s : State) (asid pa n : Nat) (f : List Byte → List Byte) : State × List Byte :=
  let line := pa / 128
  let (s, c) := (s.recallHome line asid).homeRead line asid
  let old := (List.range n).map fun k => c.data.byte (pa % 128 + k)
  (s.homeMerge line asid (placeBytes (pa % 128) (f old)) (byteMask (pa % 128) (f old).length), old)

/-- AtL: a read-modify-write in the cluster cache after ownership at scope X (R102). -/
def State.rmwOwned (s : State) (k : Nat) (x : Scope) (asid pa n : Nat) (f : List Byte → List Byte) :
    State × List Byte :=
  let line := pa / 128
  let s := State.obtain line asid x.depth k (s.noteDirty k asid)
  let old := s.getBytes k line (pa % 128) n
  (State.putBytes line x.depth (cluPath k) (placeBytes (pa % 128) (f old)) (byteMask (pa % 128) (f old).length) s, old)

/-- A read-modify-write within one line from cluster k at scope X: f gives the new bytes from the old. Package scope
is performed at the home or after ownership as the predictor says; the value does not depend on it. -/
def State.atomicFrom (s : State) (k : Nat) (x : Scope) (asid pa n : Nat) (f : List Byte → List Byte) :
    State × List Byte :=
  if x.depth = 4 then
    if 2 ≤ (s.pred.get 1 (predKey (k / 16) pa)).toNat then
      let (s, old) := (s.predict k pa true false).rmwHome asid pa n f
      (s.carryTime ((s.llcOf (pa / 128)).elim (dieKey 78 (pa / 128)) (72 + ·)) (k / 8), old)
    else
      (s.predict k pa false ((List.range 64).any fun u => u != k && (s.copy u (pa / 128)).valid)).rmwOwned k x asid pa n f
  else s.rmwOwned k x asid pa n f

/-- Host, second-tier and peer memory: an atomic is performed at the target's home (R231, R399, R402). -/
def atHome (fine : Bool) (pa : Nat) : Bool := match paKind fine pa with
  | .second _ | .host | .peer _ => true
  | _ => false

/-! ### Evictions and recalls (R85, R86, R96) -/

/-- A cluster inside unit p holds a valid copy of the line. -/
def State.anyIn (s : State) (p line : Nat) : Bool := (List.range 64).any fun k => inUnit k p && (s.copy k line).valid

/-- The directories of a path drop the units that hold no copy any more, and a line of which no cluster holds a copy:
data stands in cluster caches, LLCs and memory alone (R93). -/
def State.unlist (line : Nat) : List Nat → State → State
  | c :: p :: rest, s =>
    let pc := s.copy p line
    let s := if !s.anyIn p line then s.setCopy p line Copy.empty
      else if pc.owner = some c && !(s.copy c line).valid then s.setCopy p line { pc with owner := none } else s
    State.unlist line (p :: rest) s
  | _, s => s

/-- Write an LLC's line back to HBM or to memory outside the package; the LLC of a window's line stands. -/
def State.writeBackPlain (s : State) (line asid : Nat) (d : Line) : State :=
  match paKind s.hbmFine (128 * line) with
  | .hbm _ => s.setHbmLine line asid d
  | .aperture => s
  | _ => s.setMemLine line d

/-- A line of HBM all of whose bytes have been rewritten is sound again (R414). -/
def State.sound (s : State) (line : Nat) (written : BitVec 128) : State :=
  if written = BitVec.allOnes 128 then
    { s with bad := s.bad.filter (· != line), latent := s.latent.filter fun e => e.1 != .hbm line }
  else s

/-- The LLC of a line of ordinary memory evicts it. -/
def State.evictPlain (s : State) (line : Nat) : State :=
  match s.llcOf line with
  | none => s
  | some st =>
    let c := s.copy (llcUnit st) line
    if !c.valid then s
    else
      let s := if c.dirty = 0 then s else (s.writeBackPlain line c.tag c.data).sound line c.dirty
      s.setCopy (llcUnit st) line Copy.empty

/-- Some unit or LLC holds a copy of the line. -/
def State.isCached (s : State) (line : Nat) : Bool := (List.range 84).any fun u => (s.copy u line).valid

/-- ASID under whose key a recalled line goes back: that of a copy (R387). -/
def State.tagOf (s : State) (line : Nat) : Nat :=
  ((List.range 84).reverse.find? fun u => (s.copy u line).valid).elim 0 fun u => (s.copy u line).tag

/-- Recall a line of ordinary memory from the whole package, and write it back. -/
def State.recallPlain (s : State) (line : Nat) : State :=
  if s.isCached line then (s.recallHome line (s.tagOf line)).evictPlain line else s

/-- Writeback of a line to its home. The stored form of a window's line is written over what ordinary stores to the
stored range have left in the caches (R86). -/
def State.setHomeLine (s : State) (line asid : Nat) (d : Line) : State :=
  match paKind s.hbmFine (128 * line), s.windowHome (128 * line) with
  | .aperture, some (_, w) =>
    let n := line - w.ap / 128
    (List.range 128).foldl (fun s j => s.setWindowByte w asid n j (d.byte j)) ((w.storedLines n).foldl State.recallPlain s)
  | _, _ => s.writeBackPlain line asid d

/-- Write an LLC line back to its home and drop it (R85, R387). A window's line is converted on its way, so its copies
in the package are recalled first: what is read after the writeback comes from the stored form. -/
def State.evictLlc (s : State) (line : Nat) : State :=
  match s.llcOf line with
  | none => s
  | some st =>
    if !(s.copy (llcUnit st) line).valid then s
    else
      let s := if paKind s.hbmFine (128 * line) = .aperture then s.recallHome line (s.tagOf line) else s
      let c := s.copy (llcUnit st) line
      let s := if c.dirty = 0 then s else (s.setHomeLine line c.tag c.data).sound line c.dirty
      s.setCopy (llcUnit st) line Copy.empty

/-- A host line that has reached its LLC is published at system level: to the host's memory (R96, R398). -/
def State.toHost (s : State) (line : Nat) : State :=
  match paKind s.hbmFine (128 * line) with
  | .host =>
    let c := s.copy (llcUnit 0) line
    if c.dirty = 0 then s else (s.setMemLine line c.data).setCopy (llcUnit 0) line { c with dirty := 0 }
  | _ => s

/-- Evict a line from a cluster cache: published level by level to package level and to the home, system level for
host memory (R96). -/
def State.evictCluster (s : State) (k line : Nat) : State :=
  let c := s.copy k line
  if !c.valid then s
  else
    let s := ((State.carryUp line c.tag 4 (cluPath k) s).toHome line).toHost line
    State.unlist line (cluPath k) (s.setCopy k line Copy.empty)

/-- Recall a line from the whole package: every copy published and invalidated, then written to its home
(R86, R388, R400). The L1s are not reached (R81, R398). -/
def State.recallLine (s : State) (line : Nat) : State :=
  if s.isCached line then (s.recallHome line (s.tagOf line)).evictLlc line else s

/-- Bytes of one line reach host memory itself: what the package caches of the line is recalled first (R398, R399). -/
def State.putHost (s : State) (pa : Nat) (bs : List Byte) : State := (s.recallLine (pa / 128)).setMemBytes pa bs

/-- Recall a line at every level, the L1s among them (R86, R388, R389). -/
def State.recallEvery (s : State) (line : Nat) : State :=
  let s := s.recallLine line
  { s with l1 := s.l1.filter fun c => c.1 % 2 ^ 41 != line }

/-- Lines of which any copy exists in the package, the L1s among them. -/
def State.cachedLines (s : State) : List Nat :=
  ((s.coh ++ s.l1).map fun c => c.1 % 2 ^ 41).eraseDups

end Sys2Proof.Machine
end

