-- ==== Sys2Proof/Machine/Translate.lean ====
section
/-! DEFINITION. Who is executing, and the translation of its virtual addresses: the five-level walk and the TLBs
(R341, R374 to R378). -/

namespace Sys2Proof.Machine

/-! ### The executing party -/

/-- The group value (group, agent or Loupe thread) for which a word is executed. -/
def State.g (s : State) : Group := s.groups.get Group.empty s.cur.gid

/-- Replace the executing party's group value. -/
def State.setG (s : State) (g : Group) : State := { s with groups := s.groups.set Group.empty s.cur.gid g }

/-- A group by number: core * 17 + slot for a core's groups; 16384 + 64 * cluster + 16 * Loupe core + context for a
Loupe thread. -/
def State.group (s : State) (gid : Nat) : Group := s.groups.get Group.empty gid

def State.setGroup (s : State) (gid : Nat) (g : Group) : State :=
  { s with groups := s.groups.set Group.empty gid g }

/-- An entry of a group's split table, or its handler fragment (8). -/
def Group.ent (g : Group) (i : Nat) : Entry := g.tab.get Entry.free i

def Group.setEnt (g : Group) (i : Nat) (e : Entry) : Group := { g with tab := g.tab.set Entry.free i e }

/-- The executing fragment. -/
def State.e (s : State) : Entry := s.g.ent s.cur.ent

def State.setE (s : State) (e : Entry) : State := s.setG (s.g.setEnt s.cur.ent e)

/-- The group as its sources are read: before the chain, where the word is part of one (R133). -/
def State.rg (s : State) : Group := match s.chain with
  | some c => c.snap
  | none => s.g

/-- The executing fragment as its sources are read. -/
def State.re (s : State) : Entry := s.rg.ent s.cur.ent

/-- The executing party is a Loupe thread. -/
def Group.isLoupe (g : Group) : Bool := match g.kind with
  | .loupe _ _ _ => true
  | _ => false

/-- The group that a Loupe thread serves; any other party's own number. -/
def State.homeGid (s : State) : Nat := match s.g.kind with
  | .loupe p _ _ => p
  | _ => s.cur.gid

/-- The group whose system registers the party reads (R59). -/
def State.hg (s : State) : Group := s.group s.homeGid

/-- Package core on which a group stands. -/
def coreOf (gid : Nat) : Nat := gid / 17

/-- Slot of a group. -/
def slotOf (gid : Nat) : Nat := gid % 17

/-- The core of the executing party; a Loupe thread's is its group's. -/
def State.core (s : State) : Nat := coreOf s.homeGid

/-- The cluster at which the executing party's accesses enter (R11). -/
def State.clu (s : State) : Nat := if s.cur.gid < 16384 then cluOf s.core else (s.cur.gid - 16384) / 64

/-- The executing party is a firmware agent. -/
def Group.isAgent (g : Group) : Bool := g.kind == .agent

/-- Block of the executing party. -/
def State.blk (s : State) : Block := s.blocks.get Block.empty s.g.bid

def State.setBlk (s : State) (b : Block) : State := { s with blocks := s.blocks.set Block.empty s.g.bid b }

def State.block (s : State) (bid : Nat) : Block := s.blocks.get Block.empty bid

def State.setBlock (s : State) (bid : Nat) (b : Block) : State :=
  { s with blocks := s.blocks.set Block.empty bid b }

/-- Key of a context of an interface (R361). -/
def ctxKey (vi n : Nat) : Nat := vi * 256 + n

/-- Entry n of an interface's context table; numbers from 256 on name none (R360). -/
def State.ctx (s : State) (vi n : Nat) : Ctx := if n < 256 then s.ctxs.get Ctx.empty (ctxKey vi n) else Ctx.empty

def State.setCtx (s : State) (vi n : Nat) (c : Ctx) : State :=
  if n < 256 then { s with ctxs := s.ctxs.set Ctx.empty (ctxKey vi n) c } else s

/-- The ASID lies in the interface's range (R323). -/
def Iface.owns (x : Iface) (asid : Nat) : Bool := decide (x.asidBase ≤ asid ∧ asid < x.asidBase + x.asidCount)

/-- Context of the executing party's block. -/
def State.myCtx (s : State) : Ctx := s.ctx s.blk.vi s.blk.ctx

/-- A bit of the contracted feature word 0 (R168); an agent has no context and so no contract (log entry 14). -/
def State.feature (s : State) (i : Nat) : Bool := s.g.isAgent || s.myCtx.feat0.getLsbD i

/-- The address space in which the party's global addresses are translated: its ASID and the root of its page table;
none where the agent has selected no ASID (R341). -/
def State.space (s : State) (va : Word64) : Option (Nat × Nat) :=
  if s.g.isAgent then
    (if va.getLsbD 56 then some (512, s.fwRoot)
     else if s.g.sr.aasidV then
       some (s.g.sr.aasid.toNat,
         (((s.ctxs.map Prod.snd).find? fun c => c.asid == s.g.sr.aasid && c.cstate != .free).map
           fun c => c.ptroot.toNat).getD 0)
     else none)
  else some (s.blk.asid, s.myCtx.ptroot.toNat)

/-! ### Translation -/

/-- What an access needs of its page (R375). -/
inductive Need | load | store | both | fetch | nothing
  deriving DecidableEq, Repr

/-- Outcome of translating an address. -/
inductive Xl
  | ok (pa : Nat)
  /-- An invalid entry: replayed (R368). -/
  | page
  /-- The protection trap with its reason (R366). -/
  | prot (reason : Nat)
  /-- The walk or the access meets a function that is not ready, or deferred data (R20, R82). -/
  | wait (w : Wait)
  deriving DecidableEq, Repr

/-- The entry grants what the access needs. -/
def TlbEntry.grants (t : TlbEntry) : Need → Bool
  | .load => t.r
  | .store => t.w
  | .both => t.r && t.w
  | .fetch => t.x
  | .nothing => true

/-- Reserved bits of a page-table entry at a level, LEAF and C included (R374, R375). -/
def pteBad (lvl e : Nat) : Bool :=
  let leaf := e / 128 % 2 == 1
  e / 2 ^ 48 % 2 ^ 15 != 0 || e / 256 % 8 != 0 || e / 8 % 16 != 0
    || (e / 2048 % 2 == 1 && !(lvl == 1 && leaf))
    || (lvl == 1 && !leaf) || (lvl ≥ 4 && leaf)

/-- log2 of the page size of a leaf at a level (R374). -/
def pteLg (lvl e : Nat) : Nat :=
  if lvl = 3 then 30 else if lvl = 2 then 21 else if e / 2048 % 2 = 1 then 16 else 12

/-- Physical address field of an entry: bits 47:12 (R374). -/
def ptePa (e : Nat) : Nat := e / 4096 % 2 ^ 36 * 4096

/-- The walk from a table at level lvl (R375): the page as a TLB entry of a unit, or why there is none. -/
def walk (s : State) (unit asid : Nat) (va : Nat) : Nat → Nat → State × Except Xl TlbEntry
  | 0, _ => (s, .error (.prot 2))
  | lvl + 1, table =>
    let l := lvl + 1
    let a := table + va / 2 ^ (12 + 9 * lvl) % 512 * 8
    match s.paWait a with
    | some w => (s, .error (.wait w))
    | none =>
      let (s, bs) := s.readPkg asid a 8
      let e := ofBytes bs
      let leaf := e / 128 % 2 == 1
      if e % 2 = 0 then (s, .error .page)
      else if pteBad l e then (s, .error (.prot 2))
      else if leaf then
        (if ptePa e % 2 ^ pteLg l e ≠ 0 then (s, .error (.prot 2))
         else
           let lg := pteLg l e
           (s, .ok { unit := unit, asid := asid, va := va / 2 ^ lg * 2 ^ lg, lg := lg, pa := ptePa e,
                     r := e / 2 % 2 == 1, w := e / 4 % 2 == 1, x := e / 2 ^ 63 % 2 == 1 }))
      else walk s unit asid va lvl (ptePa e)

/-- A cached translation of an address (R376). -/
def State.tlbFind (s : State) (unit asid va : Nat) : Option TlbEntry :=
  s.tlb.find? fun t => t.unit == unit && t.asid == asid && va / 2 ^ t.lg * 2 ^ t.lg == t.va

/-- The range of a physical address refuses an access, whatever the page grants (R72, R85, R169). -/
def State.rangeRefuses (s : State) (pa : Nat) (need : Need) (twin tier2 : Bool) : Bool :=
  match paKind s.hbmFine pa with
  | .reserved => true
  | .aperture => (s.windowAt pa).isNone || !twin || need == .both
  | .second _ => !tier2
  | _ => false

/-- Range and permission checks of a translated address (R72, R169, R375), then readiness of its target. -/
def State.pageAllows (s : State) (t : TlbEntry) (va : Nat) (need : Need) (twin tier2 : Bool) : Xl :=
  let pa := t.pa + va % 2 ^ t.lg
  if s.rangeRefuses pa need twin tier2 then .prot 0
  else if !t.grants need then .prot 1
  else match s.paWait pa with
    | some w => .wait w
    | none => .ok pa

/-- Translate an address for a unit's TLB (R374 to R376). -/
def State.translateIn (s : State) (unit asid root va : Nat) (need : Need) (twin tier2 : Bool) : State × Xl :=
  match s.tlbFind unit asid va with
  | some t => (s, s.pageAllows t va need twin tier2)
  | none => match walk s unit asid (va % 2 ^ 57) 5 root with
    | (s, .error x) => (s, x)
    | (s, .ok t) =>
      let t := { t with va := va / 2 ^ t.lg * 2 ^ t.lg }
      ({ s with tlb := s.tlb ++ [t] }, s.pageAllows t va need twin tier2)

/-- TLB that the executing party uses: its core's, or its cluster's on the Loupe (R376). -/
def State.tlbUnit (s : State) : Nat := if s.g.isLoupe then 512 + s.clu else s.core

/-- Translate a global address of the executing party (R71, R341, R375). -/
def State.translate (s : State) (va : Word64) (need : Need) : State × Xl :=
  if !canonical va then (s, .prot 3)
  else match s.space va with
    | none => (s, .prot 0)
    | some (asid, root) =>
      s.translateIn s.tlbUnit asid root va.toNat need (s.g.isAgent || s.feature 22) (s.g.isAgent || s.feature 23)

/-- Physical address to which the page tables map a global address of the executing party, whatever an access to it may do
and however ready its target is; else what the walk meets. -/
def State.leafOf (s : State) (va : Word64) : Xl :=
  if !canonical va then .prot 3
  else match s.space va with
    | none => .prot 0
    | some (asid, root) => match s.tlbFind s.tlbUnit asid va.toNat with
      | some t => .ok (t.pa + va.toNat % 2 ^ t.lg)
      | none => match walk s s.tlbUnit asid (va.toNat % 2 ^ 57) 5 root with
        | (_, .error x) => x
        | (_, .ok t) => .ok (t.pa + va.toNat % 2 ^ t.lg)

/-- ASID whose key the party's accesses use (R387). -/
def State.asidFor (s : State) (va : Word64) : Nat := match s.space va with
  | some (a, _) => a
  | none => 512

end Sys2Proof.Machine
end

