-- ==== Sys2Proof/Machine/EngineOps.lean ====
section
/-! DEFINITION. What Prism and Zoom operations do when they are performed (R105, R106, R263, R266 to R276): sources
are read and destinations written through translation, tile memory and vaults, and the timeline counter advances. -/

namespace Sys2Proof.Machine

/-! ### One access of an engine -/

/-- Tile address a of a block, n bytes: the block itself, or a member of its neighbourhood through the window
map (R43, R74). -/
def State.tileAt (s : State) (bid : Nat) (a : Nat) (n : Nat) : Option (Nat × Nat) :=
  let b := s.block bid
  if a + n ≤ b.tileSize then some (bid, a)
  else if a < 0x400000 then none
  else
    let o := (a - 0x400000) % 0x80000
    match b.win.getD ((a - 0x400000) / 0x80000) none with
    | none => none
    | some c => match (s.cohorts.get Cohort.empty b.coh).members.find? fun i =>
        (s.block i).live && !(s.block i).saved && (s.block i).pcore == b.pcore / 64 * 64 + c with
      | none => none
      | some i => if o + n ≤ (s.block i).tileSize then some (i, o) else none

/-- Write bytes of a block's tile memory. -/
def State.putTile (s : State) (b o : Nat) (bs : List Byte) : State :=
  let c := s.block b
  s.setBlock b { c with tile := (List.range bs.length).foldl (fun m k => m.set 0 (o + k) (bs.getD k 0)) c.tile }

/-- Write bytes of a vault, at vault * 2^22 plus the offset. -/
def State.putVault (s : State) (a : Nat) (bs : List Byte) : State :=
  { s with vault := (List.range bs.length).foldl (fun m k => m.set 0 (a + k) (bs.getD k 0)) s.vault }

/-- The engine that performs an operation: a Prism of the block's core or a Zoom of its cluster. -/
structure Eng where
  bid : Nat
  zoom : Bool
  deriving DecidableEq, Repr

/-- A located address. -/
inductive ELoc
  | glob (pa : Nat)
  | tile (bid off : Nat)
  | vault (a : Nat)
  deriving DecidableEq, Repr

/-- Why an operation cannot be performed now: a translation fault with its INFO (R366), a target that is not ready, an
HBM line with an uncorrectable error (R414). -/
inductive EngStop
  | fault (info : Nat) (va : Word64)
  | hold
  | bad (line : Nat)
  deriving DecidableEq, Repr

/-- TLB of an engine (R376). -/
def Eng.unit (e : Eng) (pcore : Nat) : Nat := if e.zoom then 512 + cluOf pcore else pcore

/-- Scope at which an engine's global accesses are performed (R266, R276). -/
def Eng.scope (e : Eng) : Scope := if e.zoom then .clu else .core

/-- Locate one word of an engine's access (R74, R77, R375). -/
def State.engAt (s : State) (e : Eng) (sp : Space) (va : Word64) (n : Nat) (need : Need) :
    State × Except EngStop ELoc :=
  let b := s.block e.bid
  match sp with
  | .tile => match s.tileAt e.bid va.toNat n with
    | some (i, o) => (s, .ok (.tile i o))
    | none => (s, .error (.fault 0 va))
  | .vault =>
    let v := va.toNat / 2 ^ 22
    if (s.vown.get Vown.reset v).scrub || !s.rdymap.getLsbD (8 + v / 64) then (s, .error .hold)
    else (s, .ok (.vault va.toNat))
  | .glob =>
    let c := s.ctx b.vi b.ctx
    match s.translateIn (e.unit b.pcore) b.asid c.ptroot.toNat va.toNat need (c.feat0.getLsbD 22)
        (c.feat0.getLsbD 23) with
    | (s, .ok pa) => if s.bad.contains (pa / 128) then (s, .error (.bad (pa / 128))) else (s, .ok (.glob pa))
    | (s, .page) => (s, .error (.fault 0xF va))
    | (s, .prot r) => (s, .error (.fault r va))
    | (s, .wait _) => (s, .error .hold)

/-- One word that an operation touches. -/
structure Touch where
  sp : Space
  va : Word64
  n : Nat
  need : Need

/-- Locate every word before any is written (R263). -/
def State.engCheck (e : Eng) : List Touch → State → State × Option EngStop
  | [], s => (s, none)
  | t :: ts, s => match s.engAt e t.sp t.va t.n t.need with
    | (s, .ok _) => State.engCheck e ts s
    | (s, .error x) => (s, some x)

/-- Read a word that has been located; a Prism sees the stores of its core from their issue (R91). -/
def State.engGet (s : State) (e : Eng) (sp : Space) (va : Word64) (n : Nat) : State × Nat :=
  match s.engAt e sp va n .load with
  | (s, .ok (.glob pa)) =>
    let b := s.block e.bid
    let (s, bs) := s.readFrom (cluOf b.pcore) b.asid pa n
    (s, ofBytes (if e.zoom then bs else s.overBuffer b.pcore pa bs))
  | (s, .ok (.tile i o)) => (s, ofBytes ((List.range n).map fun k => (s.block i).tile.get 0 (o + k)))
  | (s, .ok (.vault a)) => (s, ofBytes ((List.range n).map fun k => s.vault.get 0 (a + k)))
  | (s, .error _) => (s, 0)

/-- Write a word that has been located; a Prism's global write reaches a present line of its core's L1. -/
def State.engPut (s : State) (e : Eng) (sp : Space) (va : Word64) (n x : Nat) : State :=
  let bs := toBytes n x
  match s.engAt e sp va n .store with
  | (s, .ok (.glob pa)) =>
    let b := s.block e.bid
    let s := s.writeFrom (cluOf b.pcore) e.scope b.asid pa bs
    if e.zoom then s else s.l1Put b.pcore pa bs
  | (s, .ok (.tile i o)) => s.putTile i o bs
  | (s, .ok (.vault a)) => s.putVault a bs
  | (s, .error _) => s

/-- An indivisible read-modify-write at the word's memory (R231, R267). -/
def State.engRmw (s : State) (e : Eng) (sp : Space) (va : Word64) (n : Nat) (f : Nat → Nat) : State :=
  match s.engAt e sp va n .both with
  | (s, .ok (.glob pa)) =>
    let b := s.block e.bid
    let g := fun (bs : List Byte) => toBytes n (f (ofBytes bs))
    let (s, old) := if atHome s.hbmFine pa then s.rmwHome b.asid pa n g
      else s.atomicFrom (cluOf b.pcore) e.scope b.asid pa n g
    s.l1Put b.pcore pa (g old)
  | (s, .ok _) =>
    let (s, old) := s.engGet e sp va n
    s.engPut e sp va n (f old)
  | (s, .error _) => s

/-- Read a list of words: every read precedes every write (R266). -/
def State.engGets (e : Eng) (sp : Space) (n : Nat) : List Word64 → State → State × List Nat
  | [], s => (s, [])
  | a :: t, s =>
    let (s, x) := s.engGet e sp a n
    let (s, xs) := State.engGets e sp n t s
    (s, x :: xs)

/-- Write a list of words in order. -/
def State.engPuts (e : Eng) (sp : Space) (n : Nat) : List (Word64 × Nat) → State → State
  | [], s => s
  | (a, x) :: t, s => State.engPuts e sp n t (s.engPut e sp a n x)

/-! ### Prism (R266, R267, R270, R271) -/

/-- Bytes of a PADD element. -/
def PaddTy.bytes : PaddTy → Nat
  | .s32 | .f32 => 4
  | .s64 | .f64 => 8

/-- The add on arrival (R267). -/
def PaddTy.add (t : PaddTy) (m x : Nat) : Nat := match t with
  | .s32 => (m + x) % 2 ^ 32
  | .s64 => (m + x) % 2 ^ 64
  | .f32 => Fmt.f32.atomAdd m x
  | .f64 => Fmt.f64.atomAdd m x

/-- swz of R245: chunk size 16, 32, 64 or 128, field from bit 7 + SB. -/
def Swz.at (z : Swz) (o : Nat) : Nat := Nat.xor o (o / 2 ^ (7 + z.sb.val) % 8 * 2 ^ (4 + z.cs.val))

/-- Address of element i of size n from a base. -/
def elemAt (base : Word64) (n i : Nat) : Word64 := base + BitVec.ofNat 64 (n * i)

/-- Destination and source elements of an interleave, in order; none is a zero (R270). -/
def interleavePairs (unpack : Bool) (f n : Nat) : List (Nat × Option Nat) :=
  let l := (n + f - 1) / f
  if unpack then (List.range n).map fun e => (e, some (e % l * f + e / l))
  else (List.range (l * f)).map fun i =>
    let e := i % f * l + i / f
    (i, if e < n then some e else none)

/-! ### Zoom (R272, R273, R275) -/

/-- A transfer record's fields (R272). -/
structure ZRec where
  sbase : Word64
  dbase : Word64
  sext : List Nat
  dext : List Nat
  sstr : List Int
  dstr : List Int
  sfmt : FType
  dfmt : FType
  ssp : Space
  dsp : Space
  op : Nat
  dims : Nat
  bnd : Nat
  accum : Bool
  rnd : Rnd
  slot : Nat
  tc : Nat

def FType.ofNum : Nat → FType
  | 0 => .f16 | 1 => .bf16 | 2 => .f32 | _ => .f64

def Rnd.ofNum : Nat → Rnd
  | 0 => .rne | 1 => .rz | 2 => .ru | _ => .rd

/-- Space code (R265); 3 is none. -/
def spaceOf : Nat → Option Space
  | 0 => some .glob
  | 1 => some .tile
  | 2 => some .vault
  | _ => none

/-- Bytes of an element (R272). -/
def FType.bytes : FType → Nat
  | .f16 | .bf16 => 2
  | .f32 => 4
  | .f64 => 8

/-- Extents of a dimension below DIMS, by operation (R272). -/
def extOk (op se de : Nat) : Bool := match op with
  | 1 => se % 2 == 1 && de == (se - 1) / 2 + 1
  | 2 => de % 2 == 1 && se == (de - 1) / 2 + 1
  | _ => se == de

/-- Parse a record by every field rule of R272. -/
def ZRec.parse (x : Nat) : Option ZRec :=
  let fl := fun lo n => x / 2 ^ lo % 2 ^ n
  let sext := (List.range 3).map fun d => fl (128 + 16 * d) 16
  let dext := (List.range 3).map fun d => fl (192 + 16 * d) 16
  let str := fun lo => (List.range 3).map fun d => sval 32 (fl (lo + 32 * d) 32)
  let op := fl 464 2
  let dims := fl 468 2
  let ok := x / 2 ^ 512 == 0 && fl 176 16 == 0 && fl 240 16 == 0 && fl 509 3 == 0 && fl 498 6 == 0 && fl 490 6 == 0
    && fl 481 7 == 0 && fl 474 6 == 0 && fl 466 2 == 0 && fl 470 2 == 0 && fl 458 2 == 0 && fl 462 2 == 0
    && fl 450 2 == 0 && fl 454 2 == 0 && op != 0 && dims != 0 && (op != 3 || fl 496 2 == 0)
    && (sext ++ dext).all (fun e => decide (1 ≤ e ∧ e ≤ 32768))
    && (List.range 3).all fun d =>
        if d < dims then extOk op (sext.getD d 1) (dext.getD d 1) else sext.getD d 1 == 1 && dext.getD d 1 == 1
  match ok, spaceOf (fl 460 2), spaceOf (fl 452 2) with
  | true, some dsp, some ssp =>
    some { sbase := BitVec.ofNat 64 (fl 0 64), dbase := BitVec.ofNat 64 (fl 64 64), sext := sext, dext := dext
           sstr := str 256, dstr := str 352, sfmt := FType.ofNum (fl 448 2), dfmt := FType.ofNum (fl 456 2)
           ssp := ssp, dsp := dsp, op := op, dims := dims, bnd := fl 472 2, accum := fl 480 1 == 1
           rnd := Rnd.ofNum (fl 488 2), slot := fl 496 2, tc := fl 504 5 }
  | _, _, _ => none

/-- A tap: weight and offset. -/
structure Tap where
  w : Nat
  o : List Int

/-- KIND and DIMS of a table (R273). -/
def tableKind (t : List Byte) : Nat := (t.getD 0 0).toNat
def tableDims (t : List Byte) : Nat := (t.getD 1 0).toNat

/-- The number that bytes a to a + n - 1 of a table hold. -/
def tableNum (t : List Byte) (a n : Nat) : Nat := ofBytes ((t.drop a).take n)

/-- The 27, 9 or 3 taps of a restriction in order (R273). -/
def restrictTaps (t : List Byte) : List Tap :=
  (List.range (3 ^ tableDims t)).map fun k =>
    ⟨tableNum t (16 + 8 * k) 8, [(k % 3 : Nat) - 1, if tableDims t < 2 then 0 else (k / 3 % 3 : Nat) - 1,
      if tableDims t < 3 then 0 else (k / 9 % 3 : Nat) - 1]⟩

/-- The taps of a class of a prolongation (R273). -/
def prolongTaps (t : List Byte) (c : Nat) : List Tap :=
  (List.range (t.getD (8 + c) 0).toNat).map fun k =>
    let a := 16 + 128 * c + 16 * k
    ⟨tableNum t a 8, (List.range 3).map fun d => sval 8 (t.getD (a + 8 + d) 0).toNat⟩

/-- A finite FP64 weight. -/
def finite64 (w : Nat) : Bool := w / 2 ^ 52 % 2048 != 2047

/-- Strictly increasing order of (dz, dy, dx). -/
def tapsSorted : List Tap → Bool
  | a :: b :: t =>
    let k := fun (x : Tap) => (x.o.getD 2 0 + 8) * 256 + (x.o.getD 1 0 + 8) * 16 + (x.o.getD 0 0 + 8)
    decide (k a < k b) && tapsSorted (b :: t)
  | _ => true

/-- The contents of a table meet R273. -/
def tableOk (t : List Byte) : Bool :=
  let zero := fun a n => tableNum t a n == 0
  let dims := tableDims t
  decide (1 ≤ dims ∧ dims ≤ 3) && zero 2 6 &&
    match tableKind t with
    | 1 => zero 8 8 && zero (16 + 8 * 3 ^ dims) (1024 - 8 * 3 ^ dims) && (restrictTaps t).all fun p => finite64 p.w
    | 2 => (List.range 8).all fun c =>
        let n := (t.getD (8 + c) 0).toNat
        let ps := prolongTaps t c
        decide (n ≤ 8) && (c < 2 ^ dims || n == 0) && zero (16 + 128 * c + 16 * n) (128 - 16 * n)
          && tapsSorted ps
          && (List.range n).all (fun k => zero (16 + 128 * c + 16 * k + 11) 5)
          && ps.all fun p => finite64 p.w && p.o.all (fun d => decide (-2 ≤ d ∧ d ≤ 2))
              && (p.o.drop dims).all (· == 0)
    | _ => false

/-- Points of a grid, x fastest. -/
def gridPoints (ext : List Nat) : List (List Nat) :=
  (List.range (ext.getD 2 1)).flatMap fun z => (List.range (ext.getD 1 1)).flatMap fun y =>
    (List.range (ext.getD 0 1)).map fun x => [x, y, z]

/-- Address of a point (R272). -/
def pointVa (base : Word64) (str : List Int) (p : List Int) : Word64 :=
  base + BitVec.ofInt 64 ((List.zipWith (· * ·) p str).sum)

/-- The source point of a tap at destination point p (R275). -/
def ZRec.source (r : ZRec) (p : List Nat) (o : List Int) : List Int :=
  List.zipWith (fun (a : Nat) d => (if r.op = 1 then 2 * (a : Int) else if r.op = 2 then (a / 2 : Nat) else (a : Int)) + d) p o

/-- The source coordinates that a tap reads by BND; none for no read, with whether the tap takes a step (R275). -/
def ZRec.bound (r : ZRec) (q : List Int) : Option (List Int) × Bool :=
  let inside := (List.zipWith (fun c (n : Nat) => decide (0 ≤ c ∧ c < (n : Int))) q r.sext).all id
  if inside then (some q, true)
  else match r.bnd with
    | 0 => (none, true)
    | 1 => (some (List.zipWith (fun c (n : Nat) => if c < 0 then 0 else if (n : Int) - 1 < c then (n : Int) - 1 else c) q r.sext), true)
    | 2 => (some (List.zipWith (fun c (n : Nat) => if n = 1 then 0 else c % ((n : Int) - 1)) q r.sext), true)
    | _ => (none, false)

/-- Taps of a destination point (R275). -/
def ZRec.taps (r : ZRec) (t : List Byte) (p : List Nat) : List Tap := match r.op with
  | 1 => restrictTaps t
  | 2 => prolongTaps t (p.getD 0 0 % 2 + 2 * (p.getD 1 0 % 2) + 4 * (p.getD 2 0 % 2))
  | _ => [⟨0x3FF0000000000000, [0, 0, 0]⟩]

/-- The chain of a point: one fused step per tap (R275). -/
def ZRec.chain (r : ZRec) (e : Eng) (p : List Nat) : List Tap → Nat → State → State × Nat
  | [], acc, s => (s, acc)
  | t :: ts, acc, s =>
    match r.bound (r.source p t.o) with
    | (_, false) => ZRec.chain r e p ts acc s
    | (none, true) => ZRec.chain r e p ts (Fmt.f64.fma .rne false t.w 0 acc).1 s
    | (some q, true) =>
      let (s, x) := s.engGet e r.ssp (pointVa r.sbase r.sstr q) (FType.bytes r.sfmt)
      let v := (Fmt.f64.cvt (FType.fmt r.sfmt) .rne false x).1
      ZRec.chain r e p ts (Fmt.f64.fma .rne false t.w v acc).1 s

/-- One destination point (R275, R276). -/
def ZRec.point (r : ZRec) (e : Eng) (t : List Byte) (s : State) (p : List Nat) : State :=
  let a := pointVa r.dbase r.dstr (p.map Int.ofNat)
  let n := FType.bytes r.dfmt
  let f := FType.fmt r.dfmt
  let (s, acc) := r.chain e p (r.taps t p) 0 s
  let (s, acc) := if r.accum then
      let (s, d) := s.engGet e r.dsp a n
      (s, (Fmt.f64.add .rne false acc (Fmt.f64.cvt f .rne false d).1).1)
    else (s, acc)
  s.engPut e r.dsp a n (f.cvt .f64 r.rnd false acc).1

/-- Words that a transfer touches. -/
def ZRec.touches (r : ZRec) (t : List Byte) : List Touch :=
  (gridPoints r.dext).flatMap fun p =>
    ((r.taps t p).filterMap fun k => (r.bound (r.source p k.o)).1.map fun q =>
      (⟨r.ssp, pointVa r.sbase r.sstr q, FType.bytes r.sfmt, .load⟩ : Touch))
    ++ [⟨r.dsp, pointVa r.dbase r.dstr (p.map Int.ofNat), FType.bytes r.dfmt, .store⟩]
    ++ (if r.accum then [⟨r.dsp, pointVa r.dbase r.dstr (p.map Int.ofNat), FType.bytes r.dfmt, .load⟩] else [])

/-! ### Performing an operation -/

/-- A table of a handle's slot. -/
def Tc.table (c : Tc) (slot : Nat) : List Byte := c.tables.get [] slot

/-- Words that an operation touches. -/
def EOp.touches (c : Tc) : EOp → List Touch
  | .copy w dsp ssp xs _ => xs.flatMap fun x => [⟨ssp, x.1, w, .load⟩, ⟨dsp, x.2, w, .store⟩]
  | .add ty dsp ssp xs => xs.flatMap fun x => [⟨ssp, x.1, PaddTy.bytes ty, .load⟩, ⟨dsp, x.2, PaddTy.bytes ty, .both⟩]
  | .interleave u n f k dsp ssp src dst => (interleavePairs u f k).flatMap fun p =>
      (p.2.map fun i => (⟨ssp, elemAt src n i, n, .load⟩ : Touch)).toList ++ [⟨dsp, elemAt dst n p.1, n, .store⟩]
  | .swizzle z n dsp ssp src dst => (List.range n).flatMap fun o =>
      [⟨ssp, elemAt src 1 o, 1, .load⟩, ⟨dsp, elemAt dst 1 (Swz.at z o), 1, .store⟩]
  | .table _ _ => []
  | .transfer bytes => match ZRec.parse (ofBytes bytes) with
    | some r => r.touches (c.table r.slot)
    | none => []

/-- The effect of an operation once every word has been located. -/
def EOp.run (e : Eng) (k : Nat) : EOp → State → State
  | .copy w dsp ssp xs _, s =>
    let (s, vs) := State.engGets e ssp w (xs.map Prod.fst) s
    State.engPuts e dsp w ((xs.map Prod.snd).zip vs) s
  | .add ty dsp ssp xs, s =>
    let (s, vs) := State.engGets e ssp (PaddTy.bytes ty) (xs.map Prod.fst) s
    ((xs.map Prod.snd).zip vs).foldl (fun s x =>
      s.engRmw e dsp x.1 (PaddTy.bytes ty) fun m => PaddTy.add ty m (x.2 % 2 ^ (8 * PaddTy.bytes ty))) s
  | .interleave u n f c dsp ssp src dst, s =>
    let ps := interleavePairs u f c
    let (s, vs) := State.engGets e ssp n (ps.filterMap fun p => p.2.map (elemAt src n)) s
    let vals := (ps.foldl (fun (a : List (Word64 × Nat) × List Nat) p => match p.2 with
      | some _ => ((elemAt dst n p.1, a.2.headD 0) :: a.1, a.2.drop 1)
      | none => ((elemAt dst n p.1, 0) :: a.1, a.2)) ([], vs)).1.reverse
    State.engPuts e dsp n vals s
  | .swizzle z n dsp ssp src dst, s =>
    let (s, vs) := State.engGets e ssp 1 ((List.range n).map (elemAt src 1)) s
    State.engPuts e dsp 1 (((List.range n).map fun o => elemAt dst 1 (Swz.at z o)).zip vs) s
  | .table slot bytes, s =>
    let b := s.block e.bid
    let c := b.tc.get Tc.unbound k
    s.setBlock e.bid { b with tc := b.tc.set Tc.unbound k { c with tables := c.tables.set [] slot bytes } }
  | .transfer bytes, s => match ZRec.parse (ofBytes bytes) with
    | none => s
    | some r => (gridPoints r.dext).foldl (r.point e (((s.block e.bid).tc.get Tc.unbound k).table r.slot)) s

/-- The counter takes every operation that is complete in order (R106). -/
def Tc.settle : Nat → Tc → Tc
  | 0, c => c
  | f + 1, c =>
    let n := c.value.toNat + 1
    if c.done.contains n then Tc.settle f { c with value := c.value + 1, done := c.done.filter (· != n) } else c

/-- Operation num of a handle is complete (R106). -/
def State.opDone (s : State) (bid k num : Nat) : State :=
  let b := s.block bid
  let c := b.tc.get Tc.unbound k
  let c : Tc := { c with pend := c.pend.filter fun p => p.num != num, done := c.done ++ [num], stall := none }
  s.setBlock bid { b with tc := b.tc.set Tc.unbound k (c.settle (c.done.length + 1)) }

/-- A ring copy that is complete has drained its writes to the ring's scope; its slot waits for publication (R268). -/
def State.ringCopied (s : State) (bid r : Nat) (i : BitVec 32) : State :=
  let c := s.rings.get Ring.empty r
  let s := s.drain (cluOf (s.block bid).pcore) c.scope
  { s with rings := s.rings.set Ring.empty r { c with pend := c.pend ++ [i] } }

/-- What follows the completion of an operation. -/
def EOp.after (bid : Nat) : EOp → State → State
  | .copy _ _ _ _ (some (r, i)), s => s.ringCopied bid r i
  | _, s => s

/-- The pending operation num of a handle. -/
def State.findOp (s : State) (bid k num : Nat) : Option EPend :=
  ((s.block bid).tc.get Tc.unbound k).pend.find? fun p => p.num == num

/-- Perform an operation, or say what stops it (R263). -/
def State.tryOp (s : State) (bid k : Nat) (p : EPend) : State × Option EngStop :=
  let c := (s.block bid).tc.get Tc.unbound k
  let e : Eng := ⟨bid, c.bind == .zoom⟩
  match State.engCheck e (p.op.touches c) s with
  | (s, some x) => (s, some x)
  | (s, none) => (p.op.after bid ((p.op.run e k s).opDone bid k p.num), none)

/-- An operation may complete: its context is not stalled, and a Zoom performs its operations in order (R263, R276). -/
def Tc.mayRun (c : Tc) (num : Nat) : Bool :=
  c.stall.isNone && (c.bind != .zoom || (c.pend.head?.map fun p => p.num) == some num)

/-- Perform what can be performed of a block's issued operations before the block leaves the machine (R260, R263,
R337): nothing of a stalled context, and nothing of a Zoom's behind an operation that is left. -/
def State.runAll (s : State) (bid : Nat) : State :=
  (s.block bid).tc.foldl (fun s c => c.2.pend.foldl (fun s p =>
    if ((s.block bid).tc.get Tc.unbound c.1).mayRun p.num then (s.tryOp bid c.1 p).1 else s) s) s

end Sys2Proof.Machine
end

