-- ==== Sys2Proof/Machine/Log.lean ====
section
/-! DEFINITION. The Speculum log: entries, digests, checkpoints, the host mirror and dropped events (R403 to R411). -/

namespace Sys2Proof.Machine

/-- Entries that the trust die's SRAM holds (R403). -/
def logRoom : Nat := 65536

/-- Package time at the trust die. -/
def State.trustTime (s : State) : Word64 := s.times.get 0 79

/-- Kind and number of a location (R405). -/
def locOf (kind n : Nat) : BitVec 16 := BitVec.ofNat 16 (kind * 4096 + n % 4096)

/-- Bytes 0 to 27 of an entry (R404). -/
def entryBytes (seq : Nat) (time : Word64) (typ : BitVec 8) (loc : BitVec 16) (data : Word64) : List Byte :=
  toBytes 28 (seq % 2 ^ 64 + time.toNat * 2 ^ 64 + typ.toNat * 2 ^ 128 + Config.contract * 2 ^ 136
    + loc.toNat * 2 ^ 144 + data.toNat * 2 ^ 160)

/-- The 32 bytes of an entry. -/
def LogEntry.bytes (e : LogEntry) : List Byte := entryBytes e.seq e.time e.typ e.loc e.data ++ toBytes 4 e.chk.toNat

/-- Exactly n bytes of a list, padded with zeros. -/
def fit (n : Nat) (bs : List Byte) : List Byte := (bs ++ List.replicate n 0).take n

/-- A checkpoint's bytes (R408). -/
def ckptBytes (seq : Nat) (time : Word64) (d : BitVec 384) : List Byte :=
  let m := toBytes 8 seq ++ toBytes 8 time.toNat ++ toBytes 48 d.toNat ++ List.replicate 64 0
  m ++ fit 64 (Config.sign (0 :: m)) ++ fit 3309 (Config.sign (1 :: m)) ++ List.replicate 595 0

/-- Write an entry to its slot of the mirror, and then advance the write index past it, each in host memory itself: the
release is of system scope (R399, R409, R411; log entry 56). -/
def State.mirrorEntry (s : State) (e : LogEntry) : State :=
  match s.log.mirror with
  | none => s
  | some (a, lg) =>
    let s := (s.putHost (a + 4096 + 32 * (e.seq % 2 ^ lg)) e.bytes).putHost a (toBytes 8 (e.seq + 1))
    { s with log := { s.log with written := e.seq } }

/-- Append one entry (R407 to R409). -/
def State.logOne (s : State) (time : Word64) (typ : BitVec 8) (loc : BitVec 16) (data : Word64) : State :=
  let l := s.log
  let n := l.seq + 1
  let d := Config.sha384 (toBytes 48 l.digest.toNat ++ entryBytes n time typ loc data)
  let e : LogEntry := { seq := n, time := time, typ := typ, loc := loc, data := data, chk := d.truncate 32 }
  let cks := if n % 4096 = 0 then l.ckpts ++ [⟨n, ckptBytes n s.trustTime d⟩] else l.ckpts
  let cnt := if 1 ≤ typ.toNat ∧ typ.toNat ≤ 4 then l.counts.upd 0 typ.toNat (· + 1) else l.counts
  State.mirrorEntry { s with log := { l with ents := l.ents ++ [e], seq := n, digest := d, ckpts := cks, counts := cnt } } e

/-- An event reaches the trust die (R409, R410): dropped and counted while no entry has room, and the count appended
first once there is room. -/
def State.logAt (s : State) (time : Word64) (typ : BitVec 8) (loc : BitVec 16) (data : Word64) : State :=
  let full := fun (s : State) => decide (logRoom ≤ s.log.ents.length)
  let drop := fun (s : State) => { s with log := { s.log with dropped := s.log.dropped + 1 } }
  if full s then drop s
  else if s.log.dropped = 0 then s.logOne time typ loc data
  else
    let n := s.log.dropped
    let s := { s with log := { s.log with dropped := 0 } }
    let s := s.logOne s.trustTime 0x7F 0 (BitVec.ofNat 64 (n % 2 ^ 32))
    if full s then drop s else s.logOne time typ loc data

/-! ### Errors of memories (R406, R413, R414) -/

/-- ECC corrects it: up to 16 symbols of an HBM line, one bit of an SRAM word. -/
def correctable (e : EccPlace × Nat) : Bool := match e.1 with
  | .hbm _ => decide (e.2 ≤ 16)
  | .sram _ _ _ => decide (e.2 ≤ 1)

/-- The unit that holds the memory. -/
def State.eccLoc (s : State) : EccPlace → BitVec 16
  | .hbm line => locOf 7 (hbmStack s.hbmFine (128 * line))
  | .sram part unit _ => match part.val with
    | 0 | 1 | 2 | 3 => locOf 6 (unit % 512)
    | 4 | 8 => locOf 5 (unit % 64)
    | 5 => locOf 2 (unit % 4)
    | 6 => if unit < 8 then locOf 3 unit else locOf 2 (unit % 4)
    | 7 => locOf 4 (unit % 8)
    | _ => locOf 1 0

/-- Bits 47:0 of the data of its entry, without the count of symbols. -/
def EccPlace.data : EccPlace → Nat
  | .hbm line => 128 * line % 2 ^ 48
  | .sram part _ word => part.val + word % 2 ^ 40 * 2 ^ 8

/-- Type of its entry. -/
def eccType (e : EccPlace × Nat) : BitVec 8 := match e.1 with
  | .hbm _ => if correctable e then 0x02 else 0x04
  | .sram _ _ _ => if correctable e then 0x01 else 0x03

/-- Data of its entry, where the error ends the context of an ASID, 0x1FF for none. -/
def eccData (e : EccPlace × Nat) (asid : Nat) : Word64 :=
  BitVec.ofNat 64 (EccPlace.data e.1 + (if !correctable e then asid * 2 ^ 48 else match e.1 with
    | .hbm _ => e.2 % 2 ^ 8 * 2 ^ 48
    | .sram _ _ _ => 0))

/-- An event that starts now. -/
def State.logNow (s : State) (typ : BitVec 8) (loc : BitVec 16) (data : Word64) : State :=
  s.logAt s.trustTime typ loc data

/-- An error is logged. -/
def State.logEcc (s : State) (e : EccPlace × Nat) (asid : Nat) : State :=
  s.logNow (eccType e) (s.eccLoc e.1) (eccData e asid)

/-- An access under a tag has met an uncorrectable error in an HBM line. -/
def State.logBad (s : State) (line asid : Nat) : State :=
  s.logNow 0x04 (locOf 7 (hbmStack s.hbmFine (128 * line))) (BitVec.ofNat 64 (128 * line + asid * 2 ^ 48))

/-- Put an event before the first one with a greater location: kind, then number. -/
def insertLoc (s : State) (e : EccPlace × Nat) : List (EccPlace × Nat) → List (EccPlace × Nat)
  | [] => [e]
  | x :: t => if (s.eccLoc e.1).toNat < (s.eccLoc x.1).toNat then e :: x :: t else x :: insertLoc s e t

/-- The errors that accesses have met in a step reach the trust die in one cycle: they are appended in the order of their
locations (R409). -/
def State.reportMet (s : State) : State := match s.met with
  | [] => s
  | es => (es.foldl (fun l e => insertLoc s e l) []).foldl (fun s e => s.logEcc e 0x1FF) { s with met := [] }

end Sys2Proof.Machine
end

