-- ==== Sys2Proof/Machine/Save.lean ====
section
/-! DEFINITION. What hardware reads and writes in a context's memory: fault records, save areas and the layouts of
R366, R367 and R369 to R373; freezing a group and ending a context (R45, R363). -/

namespace Sys2Proof.Machine

/-! ### Hardware accesses to a context's memory -/

/-- Outcome of an access by hardware to an address space. -/
inductive Hw (α : Type)
  | ok (x : α)
  /-- Translation or permission refuses it. -/
  | fault
  /-- It waits for a function that is not ready, or for deferred data (R20, R82). -/
  | wait (w : Wait)
  /-- It meets an uncorrectable error in a line (R414). -/
  | bad (line : Nat)

/-- Go on with what an access has given. -/
def Hw.bind {α β : Type} (h : Hw α) (f : α → Hw β) : Hw β := match h with
  | .ok x => f x
  | .fault => .fault
  | .wait w => .wait w
  | .bad l => .bad l

/-- The outcome of a translation, as of an access. -/
def Xl.hw {α : Type} : Xl → Hw α
  | .wait w => .wait w
  | _ => .fault

/-- An address space as hardware uses it: its tag, its table, and the features TWIN and TIER2 of the context (R169). -/
structure Sp where
  asid : Nat
  root : Nat
  twin : Bool
  tier2 : Bool

/-- The address space of a context, under a tag. -/
def Ctx.sp (c : Ctx) (asid : Nat) : Sp := ⟨asid, c.ptroot.toNat, c.feat0.getLsbD 22, c.feat0.getLsbD 23⟩

/-- Translate an address of a space in a unit's TLB. -/
def State.spTranslate (s : State) (unit : Nat) (sp : Sp) (va : Nat) (need : Need) : State × Xl :=
  s.translateIn unit sp.asid sp.root va need sp.twin sp.tier2

/-- Write bytes for hardware on a core, line by line, over at most f lines. A write of a part of a line meets the line's
uncorrectable error (R414). -/
def ctxWriteGo (pcore : Nat) (sp : Sp) : Nat → Nat → List Byte → State → Hw State
  | 0, _, _, s => .ok s
  | f + 1, va, bs, s =>
    if bs.isEmpty then .ok s
    else
      let m := 128 - va % 128
      match s.spTranslate pcore sp va .store with
      | (s, .ok pa) =>
        if s.bad.contains (pa / 128) && (bs.take m).length != 128 then .bad (pa / 128)
        else ctxWriteGo pcore sp f (va + m) (bs.drop m) (s.writePkg sp.asid pa (bs.take m))
      | (_, x) => x.hw

def State.ctxWrite (s : State) (pcore vi n : Nat) (va : Word64) (bs : List Byte) : Hw State :=
  let c := s.ctx vi n
  ctxWriteGo pcore (c.sp c.asid.toNat) (bs.length / 128 + 2) va.toNat bs s

/-- Read n bytes for hardware on a core, line by line, over at most f lines. -/
def ctxReadGo (pcore : Nat) (sp : Sp) : Nat → Nat → Nat → State → Hw (State × List Byte)
  | 0, _, _, s => .ok (s, [])
  | f + 1, va, n, s =>
    if n = 0 then .ok (s, [])
    else
      let m := Nat.min n (128 - va % 128)
      match s.spTranslate pcore sp va .load with
      | (s, .ok pa) =>
        if s.bad.contains (pa / 128) then .bad (pa / 128)
        else
          let (s, b) := s.readPkg sp.asid pa m
          (ctxReadGo pcore sp f (va + m) (n - m) s).bind fun r => .ok (r.1, b ++ r.2)
      | (_, x) => x.hw

def State.ctxRead (s : State) (pcore vi n : Nat) (va : Word64) (len : Nat) : Hw (State × List Byte) :=
  let c := s.ctx vi n
  ctxReadGo pcore (c.sp c.asid.toNat) (len / 128 + 2) va.toNat len s

/-! ### Vault writes of a party (R77, R79) -/

/-- A vault takes writes: its die's bit is set, or the die, being quiesced, is still to acknowledge those that it has
accepted (R20, R392). -/
def State.vaultUp (s : State) (v : Nat) : Bool :=
  s.rdymap.getLsbD (8 + v / 64) || ((s.dqs.get {} (v / 64)).st == .quiescing && !s.rdyfail.getLsbD (8 + v / 64))

/-- What the vault writes of a party wait for: vault dies that are not ready (R20). -/
def State.vaultWaits (s : State) (gid : Nat) : List Wait :=
  s.vq.filterMap fun w => if w.gid == gid && !w.performed && !s.vaultUp w.vault then
    some (.notReady (.vault (Fin.ofNat 8 (w.vault / 64)))) else none

/-- Perform and acknowledge every vault write of a group (R79); the scrub of a vault that holds one of them has ended
by then (R77). -/
def State.ackVaults (s : State) (gid : Nat) : State :=
  let mine := s.vq.filter fun w => w.gid == gid
  let s := { s with vq := s.vq.filter fun w => w.gid != gid }
  mine.foldl (fun s w => if w.performed then s else
    ({ s with vown := s.vown.upd Vown.reset w.vault fun o => { o with scrub := false } } : State).putVault
      (w.vault * 2 ^ 22 + w.off) w.bytes) s

/-! ### Fault records (R366, R367) -/

/-- A trap or event as the syndrome registers receive it (R366). -/
structure Trap where
  code : BitVec 8
  info : BitVec 16 := 0
  /-- Lowest offending lane; none where the trap has no lane. -/
  lane : Option Nat := none
  /-- Address for sr.faddr; none where the code keeps it. -/
  addr : Option Word64 := none
  deriving DecidableEq, Repr

/-- Codes of R364. -/
def tEncoding : Trap := { code := 0x01 }
def tPacket : Trap := { code := 0x02 }
def tInstruction : Trap := { code := 0x03 }
def tNonUniform : Trap := { code := 0x04 }
def tMask : Trap := { code := 0x05 }
def tPartial : Trap := { code := 0x06 }
def tSplit : Trap := { code := 0x0A }
def tBreak : Trap := { code := 0x0B }

/-- Unimplemented combination of a vector form: F of the instruction, in bits 49:48 (R366). -/
def tUnimpl (f : Nat) : Trap := { code := 0x07, info := BitVec.ofNat 16 f }

/-- Unimplemented combination of a matrix form (R247, R366). -/
def tUnimplM (ta tb : Nat) (tacc : Bool) : Trap :=
  { code := 0x07, info := BitVec.ofNat 16 (0x8000 + ofBool tacc * 64 + tb * 8 + ta) }

def tAlign (lane : Option Nat) (a : Word64) : Trap := { code := 0x08, lane := lane, addr := some a }

/-- The protection trap with its reason: 0 range, 1 permission, 2 reserved bits, 3 non-canonical, 4 vault owner,
5 unbound handle, 6 privilege, 7 save-handler write (R366). -/
def tProt (reason : Nat) (lane : Option Nat) (a : Option Word64) : Trap :=
  { code := 0x09, info := BitVec.ofNat 16 reason, lane := lane, addr := a }

def tPage (lane : Option Nat) (a : Word64) : Trap := { code := 0x10, lane := lane, addr := some a }

/-- sr.fault of a trap taken at a slot (R366). -/
def Trap.synd (t : Trap) (slot : Nat) : Word64 :=
  BitVec.ofNat 64 (t.info.toNat * 2 ^ 48 + (t.lane.getD 0x7F) * 2 ^ 41 + slot % 4 * 2 ^ 32 + t.code.toNat)

/-- A fault record's 64 bytes (R367). -/
def recordBytes (time synd addr : Word64) (pc : PC) (ctxn saveix pcore slot att kind : Nat) : List Byte :=
  toBytes 64 (kind % 256 * 2 ^ 224 + att % 256 * 2 ^ 232 + slot % 32 * 2 ^ 242 + pcore % 512 * 2 ^ 247
    + saveix % 2 ^ 16 * 2 ^ 256 + ctxn % 2 ^ 16 * 2 ^ 272 + pc.toNat * 2 ^ 288 + addr.toNat * 2 ^ 320
    + synd.toNat * 2 ^ 384 + time.toNat * 2 ^ 448)

/-- The fault ring is full (R367). -/
def Ctx.ringFull (c : Ctx) : Bool := (c.fltwr - c.fltrd).toNat == 2 ^ c.fltlog.toNat

/-- Write a record into a context's ring and raise its vector; hold it behind the records that are held, while the ring
is full, and while the ring's page waits (R20). -/
def State.putRecord (s : State) (pcore vi n : Nat) (r : List Byte) : Hw State :=
  let c := s.ctx vi n
  let held := s.setCtx vi n { c with recs := c.recs ++ [r] }
  if !c.recs.isEmpty || c.ringFull then .ok held
  else
    match s.ctxWrite pcore vi n (c.fltring + BitVec.ofNat 64 (64 * (c.fltwr.toNat % 2 ^ c.fltlog.toNat))) r with
    | .wait _ => .ok held
    | .ok s =>
      let c := s.ctx vi n
      .ok { s.setCtx vi n { c with fltwr := c.fltwr + 1 } with msix := s.msix ++ [(vi, c.vec.toNat)] }
    | h => h

/-- Record number k of a context has been written. -/
def Ctx.written (c : Ctx) (k : BitVec 32) : Bool := c.fltwr != k && !(c.fltwr - k).getLsbD 31

/-- Number of the youngest record, where it is held. -/
def Ctx.lastHeld (c : Ctx) : Option (BitVec 32) :=
  if c.recs.isEmpty then none else some (c.fltwr + BitVec.ofNat 32 c.recs.length - 1)

/-! ### Threads, groups and blocks leaving the machine -/

/-- Loupe threads of a group. -/
def State.threadsOf (s : State) (gid : Nat) : List Nat :=
  (s.groups.filter fun c => match c.2.kind with
    | .loupe p _ _ => p == gid
    | _ => false).map Prod.fst

/-- Free every Loupe thread of a group without copy-back (R61). -/
def State.dropThreads (s : State) (gid : Nat) : State :=
  (s.threadsOf gid).foldl (fun s t => s.setGroup t Group.empty) s

/-- Groups of a block, by number. -/
def Block.gids (b : Block) : List Nat := b.slots.map fun k => b.pcore * 17 + k

/-- What stands in a block's slots for a group whose slot has been released. -/
def noSlot : Nat := 2 ^ 20

/-- Groups of a block, by index, that have not ended: resident, or moved off their core (R45). -/
def State.liveIx (s : State) (bid : Nat) : List Nat :=
  let b := s.block bid
  (List.range b.slots.length).filter fun i =>
    (s.group (b.gids.getD i 0)).live || (s.savedG.get Group.empty (16 * bid + i)).live

/-- Occupancy word of a core (R345). -/
def State.occOf (s : State) (pcore : Nat) : Word64 := s.occ.get occReset pcore

/-- Resources that a kernel takes on a core, as the fields of the occupancy word (R346). -/
def Kernel.reg8 (k : Kernel) : Nat := k.regs / 8 * k.grp

/-- Give a block's slots, registers, tile memory and accumulator tiles back to its core (R36, R346). -/
def State.release (s : State) (b : Block) : State :=
  let w := s.occOf b.pcore
  let slots := (b.slots.filter (· < 16)).foldl (fun m k => m ||| (1#64 <<< (32 + k))) 0
  let w := w ||| slots
  let w := w + (BitVec.ofNat 64 (b.kern.reg8 * 2 ^ 24)) + BitVec.ofNat 64 (b.kern.tile4k * 2 ^ 16)
  { s with occ := s.occ.set occReset b.pcore (w ||| BitVec.ofNat 64 b.accm) }

/-- Forget a block at the rings' sets of producers and consumers (R357). -/
def State.forgetRings (s : State) (bid : Nat) : State :=
  { s with rings := s.rings.map fun r => (r.1, { r.2 with
      prods := r.2.prods.filter (· != bid), conss := r.2.conss.filter (· != bid)
      pgrp := r.2.pgrp.filter fun x => x / 16 != bid, cgrp := r.2.cgrp.filter fun x => x / 16 != bid }) }

/-- Withdraw the arrivals of a block's groups at its cohort's barrier (R235, R260). -/
def Bar.withdraw (r : Bar) (bid : Nat) : Bar :=
  { r with arrived := r.arrived.filter fun k => k / 16 != bid, early := r.early.filter fun p => p.1 / 16 != bid }

/-- No engine operation of the block is outstanding. -/
def Block.idle (b : Block) : Bool := b.tc.all fun c => c.2.pend.isEmpty

/-- Give up the operations of the stalled contexts of a block (R263). -/
def Block.abandon (b : Block) : Block :=
  { b with tc := b.tc.map fun c => (c.1, if c.2.stall.isSome then { c.2 with pend := [], stall := none, held := none } else c.2) }

/-- The engine contexts of a stopped block that still perform issued operations, with the memory that the operations
use, under a number of their own (R263, R337). -/
def State.linger (s : State) (bid : Nat) (b : Block) : State :=
  match (List.range (s.blocks.length + 1)).find? fun n => !(s.block (2 ^ 30 * (n + 1) + bid)).live with
  | some n => s.setBlock (2 ^ 30 * (n + 1) + bid) { b with slots := [], area := none, killed := true }
  | none => s

/-- Stop a block at once: issued accesses are performed, Loupe threads freed without copy-back, its groups gone, its
resources released with tile memory and accumulators scrubbed; its engine operations go on, but for those of stalled
contexts where the context ends (R260, R263, R337). -/
def State.stopBlock (s : State) (bid : Nat) (ends : Bool) : State :=
  let b := s.block bid
  if !b.live then s
  else
    let parties := b.gids.flatMap fun g => g :: s.threadsOf g
    let s := if b.saved then s else (parties.foldl State.ackVaults (s.drainCore b.pcore)).runAll bid
    let s := b.gids.foldl (fun s g => (s.dropThreads g).setGroup g Group.empty) s
    let left := if ends then (s.block bid).abandon else s.block bid
    let s := (if b.saved || b.killed then s else s.release b).forgetRings bid
    let s : State := { s with
      blocks := s.blocks.erase bid
      savedG := s.savedG.filter fun c => c.1 / 16 != bid
      cohorts := s.cohorts.upd Cohort.empty b.coh fun c => { c with cbar := c.cbar.withdraw bid } }
    if left.idle then s else s.linger (bid % 2 ^ 30) left

/-- Queue of the packet that a block serves. -/
def State.queueNo (s : State) (b : Block) : Nat := (s.pkts.get {} (s.lrecs.get {} b.lrec).pkt).q

/-- Blocks of a context. -/
def State.blocksOf (s : State) (vi n : Nat) : List Nat :=
  (s.blocks.filter fun c => c.2.live && c.2.vi == vi && c.2.ctx == n).map Prod.fst

/-- Clear a block's bit in its context's assignment bitmap (R363, R369). A bit whose word waits is cleared later. -/
def State.freeArea (s : State) (pcore vi n i : Nat) : Hw State :=
  let a := (s.ctx vi n).savemap + BitVec.ofNat 64 (i / 8)
  let later := { s with frees := s.frees ++ [(ctxKey vi n, i)] }
  match (s.ctxRead pcore vi n a 1).bind fun r =>
      r.1.ctxWrite pcore vi n a [(r.2.getD 0 0) &&& ~~~ (1#8 <<< (i % 8))] with
  | .wait _ => .ok later
  | h => h

/-- Clear the bit; a failure then says nothing more, since the context has ended or the work is taken off (R363). -/
def State.giveArea (s : State) (pcore vi n i : Nat) : State :=
  match s.freeArea pcore vi n i with
  | .ok s => s
  | .bad l => s.logBad l (s.ctx vi n).asid.toNat
  | _ => s

/-- Put every active queue that names a context into the error state with ECODE 0x02 (R363). -/
def State.failQueues (s : State) (vi n : Nat) : State :=
  { s with queues := s.queues.map fun c =>
      (c.1, if c.1 / 32 = vi ∧ c.2.ctxn = n ∧ c.2.st = .active then { c.2 with st := .error, ecode := 2 } else c.2) }

/-- Number of the block that holds batch area a of an interface (R342; log entry 17). -/
def bidOf (vi a : Nat) : Nat := vi * 4096 + a + 1

/-- Take admitted packets and everything that is to be started for them off the machine: ready-list entries, armed
packets, launch records, relaunches and start records (R337, step 1). -/
def State.dropWork (s : State) (sel : Pkt → Bool) : State :=
  let ids := (s.pkts.filter fun c => sel c.2).map Prod.fst
  let recs := (s.lrecs.filter fun c => ids.contains c.2.pkt).map Prod.fst
  let gone := (s.starts.filter fun c => recs.contains c.2.lrec).map Prod.fst
  let keep := fun (e : REntry) => !(if e.relaunch then recs.contains e.item else ids.contains e.item)
  { s with
    pkts := s.pkts.filter fun c => !ids.contains c.1
    lrecs := s.lrecs.filter fun c => !recs.contains c.1
    starts := s.starts.filter fun c => !gone.contains c.1
    batches := s.batches.filter fun c => !gone.contains c.1
    cohorts := s.cohorts.filter fun c => !(c.2.members.all gone.contains)
    rlists := s.rlists.map fun c =>
      (c.1, { c.2 with ents := c.2.ents.filter fun e => keep e.2, waiting := c.2.waiting.filter keep })
    inHand := s.inHand.filter fun c => keep c.2
    ends := s.ends.filter fun r => !recs.contains r
    queues := s.queues.map fun c =>
      (c.1, match c.2.fence with
        | some p => if ids.contains p then { c.2 with fence := none } else c.2
        | none => c.2) }

/-- Save areas of blocks that wait for relaunch (R369). -/
def State.areasOf (s : State) (sel : Pkt → Bool) : List (Nat × Nat × Nat) :=
  s.starts.filterMap fun c =>
    if sel (s.pkts.get {} (s.lrecs.get {} c.2.lrec).pkt) && !(s.blocks.get Block.empty c.1).live then
      c.2.area.map fun a => (c.2.vi, c.2.ctxn, a)
    else none

/-- The directories: those of the dies, stacks, interposers and of the package. -/
def allDirs : List Nat := (List.range 15).map (64 + ·)

/-- End a context but for its kind 3 record (R363, steps 1 to 3). -/
def State.endCore (s : State) (vi n : Nat) (code : BitVec 8) : State :=
  let c := s.ctx vi n
  if c.cstate = .free || c.cstate == .ending then s
  else
    let s := s.setCtx vi n { c with cstate := .ending, endc := code, busy := true, tokens := allDirs }
    let s := s.failQueues vi n
    let mine := fun (p : Pkt) => p.vi == vi && p.ctxn == n
    let s := (s.areasOf mine).foldl (fun s a => s.giveArea 576 a.1 a.2.1 a.2.2) s
    let s := (s.blocksOf vi n).foldl (fun s bid =>
      let b := s.block bid
      let s := match b.area with
        | some i => s.giveArea b.pcore vi n i
        | none => s
      s.stopBlock bid true) s
    let s := s.dropWork mine
    { s with decs := s.decs.filter fun d => d.qdec || !(d.vi == vi && d.ctxn == n) }

/-- End a context with a code, and its kind 3 record (R363). R367 names no party of an end: SYND is the code with LANE
0x7F, PCORE the core passed, 0 for a command, and ADDR, PC, SAVEIX, ATT and GSLOT are 0 (log entry 70). -/
def State.endContext (s : State) (vi n pcore : Nat) (code : BitVec 8) : State :=
  let c := s.ctx vi n
  if c.cstate = .free || c.cstate == .ending then s
  else
    let s := s.endCore vi n code
    let r := recordBytes (s.times.get 0 (dieOf pcore)) (BitVec.ofNat 64 (0x7F * 2 ^ 41 + code.toNat)) 0 0 n 0 pcore 0 0 3
    match s.putRecord pcore vi n r with
    | .ok s => s
    | .bad l => s.logBad l (s.ctx vi n).asid.toNat
    | _ => s

/-- Write a record; a fault of the write ends the context with 0x42 and no further record (R367), and an uncorrectable
error in its line with 0x41 (R414). -/
def State.record (s : State) (pcore vi n : Nat) (r : List Byte) : State :=
  match s.putRecord pcore vi n r with
  | .ok s => s
  | .bad l => (s.logBad l (s.ctx vi n).asid.toNat).endCore vi n 0x41
  | _ => s.endCore vi n 0x42

/-! ### The frozen state's layout (R370, R371): one list of fields for saving and for reloading -/

/-- A field of a save area: byte offset, bytes, its value in a group, and how a reload puts it back. -/
structure SaveFld where
  off : Nat
  len : Nat
  get : Group → Nat
  put : Nat → Group → Group

def FState.code : FState → Nat
  | .ready => 0 | .parked => 1 | .waiting => 2 | .recalled => 3 | .held => 4

def FState.ofCode : Nat → FState
  | 0 => .ready | 1 => .parked | 2 => .waiting | 3 => .recalled | _ => .held

/-- sr.ejst as held: ACT, REC, TOUT (R52). -/
def SysRegs.ejstRaw (r : SysRegs) : Nat := ofBool r.act * 2 ^ 63 + r.recNo.toNat * 2 ^ 56 + r.tout.toNat * 2 ^ 48

/-- sr.fidx (R225). -/
def SysRegs.fidx (r : SysRegs) : Nat := ofBool r.fidxV * 2 ^ 63 + r.fidxIx.toNat * 2 ^ 32 + r.fidxPc.toNat

def SysRegs.mstat (r : SysRegs) : Nat := ofBool r.mnv * 2 + ofBool r.mov

/-- The save handler is running (R371, R372). -/
def Group.inSave (g : Group) : Bool := match g.hnd with
  | some h => h.save
  | none => false

/-- A handler other than the save handler is running (R421). -/
def Group.inOther (g : Group) : Bool := match g.hnd with
  | some h => !h.save
  | none => false

/-- A split-table entry's word: its state before it was trap-held, or as it stands under another handler (R371, R421). -/
def Entry.frozenCode (raw : Bool) (e : Entry) : Nat :=
  ofBool e.valid + 2 * (if e.st = .held && !raw then e.saved else e.st).code + 16 * (e.join % 16) + 256 * (e.sjoin % 16)

def entryFlds (i : Nat) : List SaveFld :=
  let o := 0x0C0 + 48 * i
  let upd := fun (f : Nat → Entry → Entry) (x : Nat) (g : Group) => g.setEnt i (f x (g.ent i))
  [ ⟨o, 8, fun g => (g.ent i).frozenCode g.inOther, upd fun x e =>
      { e with valid := x % 2 == 1, st := .ofCode (x / 2 % 8), join := x / 16 % 16, sjoin := x / 256 % 16 }⟩,
    ⟨o + 8, 4, fun g => (g.ent i).pc.toNat, upd fun x e => { e with pc := .ofNat 32 x }⟩,
    ⟨o + 12, 4, fun g => (g.ent i).rpc.toNat, upd fun x e => { e with rpc := .ofNat 32 x }⟩,
    ⟨o + 16, 4, fun g => (g.ent i).srpc.toNat, upd fun x e => { e with srpc := .ofNat 32 x }⟩,
    ⟨o + 20, 12, fun g => (g.ent i).mask.toNat, upd fun x e => { e with mask := .ofNat 96 x }⟩,
    ⟨o + 32, 12, fun g => (g.ent i).dom.toNat, upd fun x e => { e with dom := .ofNat 96 x }⟩ ]

/-- Deferral records by position from the bottom of the stack (R371): the list holds the top first. Bit 4 tells a
record that the handler itself owns, which R421 has saved and for which OWNER has no value (log entry 12). -/
def Defer.code (d : Defer) : Nat := d.owner % 8 + 8 * ofBool d.phase + 16 * ofBool (d.owner == 8) + 128

def deferAt (g : Group) (k : Nat) : Option Defer := g.defer.reverse[k]?

def deferBytes (g : Group) (k : Nat) : Nat :=
  match deferAt g k with
  | none => 0
  | some d => d.code + d.rpc.toNat * 2 ^ 64 + d.pc.toNat * 2 ^ 96 + d.mask.toNat * 2 ^ 128 + d.arrived.toNat * 2 ^ 224

def deferFld (k : Nat) : SaveFld :=
  ⟨0x240 + 40 * k, 40, fun g => deferBytes g k, fun x g =>
    if x / 128 % 2 = 0 then g
    else
      let d : Defer :=
        { owner := if x / 16 % 2 = 1 then 8 else x % 8, phase := x / 8 % 2 == 1, rpc := .ofNat 32 (x / 2 ^ 64), pc := .ofNat 32 (x / 2 ^ 96),
          mask := .ofNat 96 (x / 2 ^ 128), arrived := .ofNat 96 (x / 2 ^ 224) }
      { g with defer := d :: g.defer }⟩

/-- System registers and sweep state of the hardware header, as frozen (R371). -/
def regFlds : List SaveFld :=
  let sr := fun (f : Nat → SysRegs → SysRegs) (x : Nat) (g : Group) => { g with sr := f x g.sr }
  [ ⟨0x040, 8, fun g => g.sr.ejt.toNat, sr fun x r => { r with ejt := .ofNat 4 x }⟩,
    ⟨0x048, 8, fun g => g.sr.ejto.toNat, sr fun x r => { r with ejto := .ofNat 32 x }⟩,
    ⟨0x050, 8, fun g => g.sr.ejstRaw, sr fun x r =>
      { r with act := x / 2 ^ 63 % 2 == 1, recNo := .ofNat 2 (x / 2 ^ 56), tout := .ofNat 4 (x / 2 ^ 48) }⟩,
    ⟨0x058, 8, fun g => g.sr.fidx, sr fun x r =>
      { r with fidxV := x / 2 ^ 63 % 2 == 1, fidxIx := .ofNat 7 (x / 2 ^ 32), fidxPc := .ofNat 32 x }⟩,
    ⟨0x060, 8, fun g => g.sr.mstat, sr fun x r => { r with mnv := x / 2 % 2 == 1, mov := x % 2 == 1 }⟩,
    ⟨0x068, 8, fun g => g.sr.fpstat.toNat, sr fun x r => { r with fpstat := .ofNat 5 x }⟩,
    ⟨0x070, 8, fun g => ofBool g.sr.ftz, sr fun x r => { r with ftz := x % 2 == 1 }⟩,
    ⟨0x078, 8, fun g => g.sr.fault.toNat, sr fun x r => { r with fault := .ofNat 64 x }⟩,
    ⟨0x080, 8, fun g => g.sr.faddr.toNat, sr fun x r => { r with faddr := .ofNat 64 x }⟩,
    ⟨0x088, 8, fun g => ofBool g.sweep0.valid * 2 ^ 63 + g.sweep0.pc.toNat, fun x g =>
      { g with sweep0 := { g.sweep0 with valid := x / 2 ^ 63 % 2 == 1, pc := .ofNat 32 x } }⟩,
    ⟨0x090, 8, fun g => g.sweep0.idx, fun x g => { g with sweep0 := { g.sweep0 with idx := x } }⟩ ]

def MType.num : MType → Nat
  | .dx4 => 0 | .dx8 => 1 | .bf16 => 2 | .fp16 => 3 | .fp32 => 4 | .fp64 => 5

def MType.ofNum : Nat → MType
  | 0 => .dx4 | 1 => .dx8 | 2 => .bf16 | 3 => .fp16 | 4 => .fp32 | _ => .fp64

/-- A v-register image: lane l at + 4 l (R370). -/
def rowNat (r : Row) : Nat := ofBytes (lanes.flatMap fun l => toBytes 4 (r.at l.val).toNat)

def natRow (x : Nat) : Row := Row.ofFn fun l => BitVec.ofNat 32 (x / 2 ^ (32 * l.val))

/-- Keep latch: tag in the header, images in the group area (R370, R371). -/
def keepFlds : List SaveFld :=
  ⟨0x098, 8, fun g => match g.keep with
      | none => 0
      | some k => 2 ^ 63 + k.x + k.e * 2 ^ 7 + MType.num k.ta * 2 ^ 14 + ofBool k.bla * 2 ^ 17,
    fun x g =>
      let k : Keep :=
        { x := x % 128, e := x / 2 ^ 7 % 128, ta := MType.ofNum (x / 2 ^ 14 % 8), bla := x / 2 ^ 17 % 2 == 1,
          regs := [], exps := [] }
      { g with keep := if x / 2 ^ 63 % 2 = 0 then none else some k }⟩ ::
  (((List.range 16).map fun i : Nat => (⟨0x4800 + 384 * i, 384,
      fun g => match g.keep with | none => 0 | some k => rowNat (k.regs.getD i Row.zero),
      fun x g => { g with keep := g.keep.map fun k => { k with regs := k.regs ++ [natRow x] } }⟩ : SaveFld))
   ++ ((List.range 4).map fun i : Nat => (⟨0x6000 + 384 * i, 384,
      fun g => match g.keep with | none => 0 | some k => rowNat (k.exps.getD i Row.zero),
      fun x g => { g with keep := g.keep.map fun k => { k with exps := k.exps ++ [natRow x] } }⟩ : SaveFld)))

/-- Ejection record r (R370). -/
def recFlds (r : Nat) : List SaveFld :=
  let o := 0x400 + 0x1100 * r
  let get := fun (f : Rec → Nat) (g : Group) => f (g.recs.get Rec.free r)
  let put := fun (f : Nat → Rec → Rec) (x : Nat) (g : Group) => { g with recs := g.recs.upd Rec.free r (f x) }
  [ ⟨o, 4, get fun c => ofBool c.valid + c.sjoin % 16 * 16 + c.tix.toNat * 2 ^ 16,
      put fun x c => { c with valid := x % 2 == 1, sjoin := x / 16 % 16, tix := .ofNat 16 (x / 2 ^ 16) }⟩,
    ⟨o + 4, 4, get fun c => c.rpc.toNat, put fun x c => { c with rpc := .ofNat 32 x }⟩,
    ⟨o + 8, 4, get fun c => c.srpc.toNat, put fun x c => { c with srpc := .ofNat 32 x }⟩,
    ⟨o + 12, 4, get fun c => c.timer.toNat, put fun x c => { c with timer := .ofNat 32 x }⟩,
    ⟨o + 0x10, 12, get fun c => c.onl.toNat, put fun x c => { c with onl := .ofNat 96 x }⟩,
    ⟨o + 0x20, 12, get fun c => c.held.toNat, put fun x c => { c with held := .ofNat 96 x }⟩,
    ⟨o + 0x30, 12, get fun c => c.dom.toNat, put fun x c => { c with dom := .ofNat 96 x }⟩,
    ⟨o + 0x40, 12, get fun c => c.mask.toNat, put fun x c => { c with mask := .ofNat 96 x }⟩ ]
  ++ ((List.range 8).map fun i : Nat => (⟨o + 0x50 + 4 * i, 4,
      get fun c => match (Mask.list c.held)[i]? with
        | some l => (c.hpc.get 0 l.val).toNat
        | none => 0,
      put fun x c => match (Mask.list c.held)[i]? with
        | some l => { c with hpc := c.hpc.set 0 l.val (.ofNat 32 x) }
        | none => c⟩ : SaveFld))
  ++ ((List.range 8).map fun i : Nat => (⟨o + 0x100 + 512 * i, 512,
      get fun c => match (Mask.list c.held)[i]? with
        | some l => ofBytes ((List.range 64).flatMap fun k => toBytes 8 (Store.get (0 : Word64) (Store.get [] c.hscl l.val) k).toNat)
        | none => 0,
      put fun x c => match (Mask.list c.held)[i]? with
        | some l => { c with hscl := c.hscl.set [] l.val ((List.range 64).foldl (fun m k =>
            m.set 0 k (BitVec.ofNat 64 (x / 2 ^ (64 * k)))) []) }
        | none => c⟩ : SaveFld))

/-- The handler block of R421; code 0x30 there is a restore handler's. -/
def handlerFlds : List SaveFld :=
  let e := fun (f : Nat → Entry → Entry) (x : Nat) (g : Group) => g.setEnt 8 (f x (g.ent 8))
  [ ⟨0x380, 8, fun g => match g.hnd with
      | none => 0
      | some h => if h.save then 0 else 1 + h.code.toNat * 256,
      fun x g => if x % 2 = 0 then { g with hnd := none }
        else ({ g with hnd := some ⟨.ofNat 8 (x / 256), false, x / 256 % 256 == 0x30⟩ } : Group).setEnt 8 { g.ent 8 with valid := true }⟩,
    ⟨0x388, 4, fun g => (g.ent 8).pc.toNat, e fun x c => { c with pc := .ofNat 32 x }⟩,
    ⟨0x38C, 4, fun g => (g.ent 8).rpc.toNat, e fun x c => { c with rpc := .ofNat 32 x }⟩,
    ⟨0x390, 1, fun g => (g.ent 8).join % 16, e fun x c => { c with join := x % 16 }⟩,
    ⟨0x398, 12, fun g => (g.ent 8).mask.toNat, e fun x c => { c with mask := .ofNat 96 x }⟩,
    ⟨0x3A8, 12, fun g => (g.ent 8).dom.toNat, e fun x c => { c with dom := .ofNat 96 x }⟩ ]

/-- Scalars s0 to s3 as copied at handler entry (R45). -/
def hdrFlds : List SaveFld :=
  (List.range 4).map fun k => ⟨8 * k, 8, fun g => (g.hdr.get 0 k).toNat,
    fun x g => { g with hdr := g.hdr.set 0 k (.ofNat 64 x) }⟩

/-- Priority of a pending event (R44), from 0. -/
def evPrio (code : BitVec 8) : Nat :=
  if code = 0x34 then 0 else if code = 0x30 then 1 else if code = 0x31 then 2 else if code = 0x32 then 3 else 4

/-- Code of the event of a priority. -/
def evCode (i : Nat) : BitVec 8 :=
  if i = 0 then 0x34 else if i = 1 then 0x30 else if i = 2 then 0x31 else if i = 3 then 0x32 else 0x33

/-- Status word of the header (R371); the pending events of a reload are with those that the group still holds, whose
data are in the model alone (log entry 12). -/
def statusFld : SaveFld :=
  ⟨0x020, 8, fun g => 1 + 2 * ofBool g.forced + 4 * ofBool g.hdone
      + (List.range 5).foldl (fun a i => a + ofBool (g.pend.any fun p => evPrio p.code == i) * 2 ^ (8 + i)) 0,
    fun x g => { g with
      forced := x / 2 % 2 == 1, hdone := x / 4 % 2 == 1
      pend := g.pend ++ (List.range 5).filterMap fun i =>
        if x / 2 ^ (8 + i) % 2 = 0 || g.pend.any fun p => evPrio p.code == i then none else some ⟨evCode i, 0⟩ }⟩

def cowFld : SaveFld := ⟨0x028, 21, fun g => g.cow.toNat, fun x g => { g with cow := .ofNat 163 x }⟩

/-- The hardware header and what HDONE and a forced save write beside it, but for the register image. -/
def frozenFlds : List SaveFld :=
  hdrFlds ++ [statusFld, cowFld] ++ regFlds ++ keepFlds ++ (List.range 8).flatMap entryFlds
    ++ (List.range 8).map deferFld ++ (List.range 4).flatMap recFlds ++ handlerFlds

/-- The register image (R370), each register with its bit in the copy-on-write bitmap (R371); s0 to s3 have none, and
under the save handler their image is the header's copy (R372). -/
def imageFlds : List (Nat × SaveFld) :=
  ((List.range 96).map fun k : Nat => (k, (⟨0x6800 + 384 * k, 384,
      fun g => rowNat (g.v.get Row.zero k),
      fun x g => { g with v := g.v.set Row.zero k (natRow x) }⟩ : SaveFld)))
  ++ ((List.range 7).map fun k : Nat => (96 + k, (⟨0xF800 + 16 * k, 12,
      fun g => (g.p.get 0 k).toNat,
      fun x g => { g with p := g.p.set 0 k (.ofNat 96 x) }⟩ : SaveFld)))
  ++ ((List.range 64).map fun k : Nat => (if k < 4 then 163 else 99 + k, (⟨0xF880 + 8 * k, 8,
      fun g => ((if k < 4 && g.inSave then g.hdr else g.s).get 0 k).toNat,
      fun x g => { g with s := g.s.set 0 k (.ofNat 64 x) }⟩ : SaveFld)))

/-- What a forced save writes of a group (R372, R421): under the save handler the registers that it has not written, and
of the split table only the frozen entries, since the others keep their values of before the handler (R371). -/
def Group.forcedFlds (g : Group) : List SaveFld :=
  if g.inSave then
    hdrFlds ++ [statusFld, cowFld] ++ keepFlds
      ++ ((List.range 8).filter fun i => (g.ent i).st == .held).flatMap entryFlds ++ (List.range 4).flatMap recFlds
      ++ (imageFlds.filter fun p => !g.cow.getLsbD p.1).map Prod.snd
  else frozenFlds ++ imageFlds.map Prod.snd

/-- Write fields of a group at its save area. -/
def State.saveFlds (s : State) (pcore vi n : Nat) (g : Group) (fs : List SaveFld) : Hw State :=
  fs.foldl (fun o f => o.bind fun s =>
    s.ctxWrite pcore vi n (g.sr.ctxsave + BitVec.ofNat 64 f.off) (toBytes f.len (f.get g))) (.ok s)

/-- Reload fields of a group from its save area. -/
def State.loadFlds (s : State) (pcore vi n : Nat) (base : Word64) (g : Group) (fs : List SaveFld) :
    Hw (State × Group) :=
  fs.foldl (fun o f => o.bind fun r =>
    (r.1.ctxRead pcore vi n (base + BitVec.ofNat 64 f.off) f.len).bind fun q =>
      .ok (q.1, f.put (ofBytes q.2) r.2)) (.ok (s, g))

/-- An accumulator tile, or an FP64 pair of tiles, as destinations of a word (R132): tiles from 300 on. -/
def accDst (t : Nat) (f64 : Bool) : List Nat := if f64 then [300 + t, 301 + t] else [300 + t]

/-! ### Blocks: the save area's own part (R369, R370) -/

/-- Bytes of a group area, and of a block area (R369). -/
def groupArea (c : Ctx) : Nat := 0x10000 + c.usrsz.toNat
def blockArea (c : Ctx) : Nat := 0xDE000 + 16 * groupArea c

/-- Address of a block's save area. -/
def areaBase (c : Ctx) (i : Nat) : Word64 := c.saveb + BitVec.ofNat 64 (i * blockArea c)

/-- sr.ctxsave of group g of a block with area i. -/
def groupBase (c : Ctx) (i g : Nat) : Word64 := areaBase c i + BitVec.ofNat 64 (0xDE000 + g * groupArea c)

/-- Groups of a block that have not ended. -/
def State.liveGids (s : State) (b : Block) : List Nat := b.gids.filter fun g => (s.group g).live

/-- TCB byte of a binding (R303). -/
def Binding.tcb : Binding → Nat
  | .unbound => 0
  | .prism c => 64 + c
  | .zoom => 128
  | .soft => 192

/-- Keys of the groups of a cohort that have not ended. -/
def State.cohortIx (s : State) (c : Cohort) : List Nat := c.members.flatMap fun b => (s.liveIx b).map (16 * b + ·)

/-- The CBAR state of a header: expected count, arrivals and generation, 16, 16 and 32 bits of it. R370 gives it 8 bytes
and no fields; the counts reach 384, which the fields of the other barriers do not hold (log entry 70). -/
def Bar.cbarWord (r : Bar) (expected : Nat) : Nat :=
  expected % 2 ^ 16 + r.arrived.length % 2 ^ 16 * 2 ^ 16 + r.gen % 2 ^ 32 * 2 ^ 32

/-- The block header's bytes up to the ring handles (R370). -/
def State.blockHeader (s : State) (bid : Nat) : List Byte :=
  let b := s.block bid
  let bar := fun (k : Nat) (expected : Nat) =>
    let r := b.bars.get Bar.zero k
    toBytes 8 (expected % 256 + r.arrived.length % 256 * 256 + r.gen % 2 ^ 32 * 2 ^ 16)
  let n := (s.liveIx bid).length
  let co := s.cohorts.get Cohort.empty b.coh
  (List.range 16).flatMap (fun k => bar k n) ++ bar 16 n
    ++ toBytes 8 (co.cbar.cbarWord (s.cohortIx co).length)
    ++ (List.range 16).flatMap (fun g =>
        let i := s.group (b.gids.getD g 0)
        toBytes 8 (if i.live then i else s.savedG.get Group.empty (16 * bid + g)).mmacN)
    ++ List.replicate 0xF0 0
    ++ (List.range 32).flatMap (fun k =>
        let t := b.tc.get Tc.unbound k
        toBytes 8 t.value.toNat ++ toBytes 8 t.bind.tcb)
    ++ (List.range 16).flatMap (fun k => toBytes 4 (b.q.getD k 0))

/-- Zoom table slots, tile image and accumulator image of a block, as (offset, bytes) (R370). -/
def Block.zoomParts (b : Block) : List (Nat × List Byte) :=
  (List.range 128).filterMap fun i =>
    match ((b.tc.get Tc.unbound (i / 4)).tables).get [] (i % 4) with
    | [] => none
    | t => some (0x1000 + 0x410 * i, t)

def Block.imageParts (b : Block) : List (Nat × List Byte) :=
  [(0x22000, (List.range (512 * 1024)).map fun a => b.tile.get 0 a),
   (0xA2000, (List.range (10 * 6144)).flatMap fun w => toBytes 4 (b.acc.get 0 w).toNat)]

/-- Write parts of a block's save area. -/
def State.saveParts (s : State) (b : Block) (ps : List (Nat × List Byte)) : Hw State :=
  match b.area with
  | none => .ok s
  | some i =>
    ps.foldl (fun o p => o.bind fun s =>
      s.ctxWrite b.pcore b.vi b.ctx (areaBase (s.ctx b.vi b.ctx) i + BitVec.ofNat 64 p.1) p.2) (.ok s)

/-! ### Freezing (R45) -/

/-- Freeze an entry: the wait is abandoned but at a barrier, where the arrival stands (R44, R45). -/
def Entry.freeze (e : Entry) : Entry :=
  if !e.valid || e.st == .held then e
  else
    match e.st, e.wait with
    | .parked, .bar n k => { e with st := .held, saved := .parked, wait := .bar n k }
    | .parked, .cbar k => { e with st := .held, saved := .parked, wait := .cbar k }
    | st, _ => { e with st := .held, saved := st, wait := .none, flagged := false }

/-- The union of a group's domains: its entries' and its records' (R45, R55). -/
def Group.allDom (g : Group) : Mask :=
  (g.tab.filter fun c => c.1 < 8 && c.2.valid).foldl (fun m c => m ||| c.2.dom) 0
    ||| (g.recs.filter fun c => c.2.valid).foldl (fun m c => m ||| c.2.dom) 0

/-- The ring that a wait is on (R281). -/
def Wait.ringNo : Wait → Option Nat
  | .ring k _ | .room k | .emit k _ => some k
  | _ => Option.none

/-- Freeze a group (R45, step 2): every entry held, waiting sets of SYNCM discarded, an MMAC arrival withdrawn,
s0 to s3 copied. -/
def Group.freeze (g : Group) : Group :=
  { g with tab := g.tab.map fun c => (c.1, if c.1 < 8 then c.2.freeze else c.2), syncm := [], mmacAt := none,
           sweep0 := g.sweep
           onRings := g.tab.filterMap fun c => if c.2.valid && c.2.st == .parked then c.2.wait.ringNo else none
           hdr := (List.range 4).foldl (fun m k => m.set 0 k (g.s.get 0 k)) [] }

/-- The state to which a held entry returns: parked at its barrier, and ready where its wait was abandoned (R44). -/
def Entry.thawed (e : Entry) : FState := if e.saved = .parked ∧ e.wait = .none then .ready else e.saved

/-- Unfreeze a group (R48, R161): s0 to s3 from the header copy, every held entry in its saved state. -/
def Group.unfreeze (g : Group) (now : Nat) : Group :=
  { g with tab := (g.tab.filter fun c => c.1 < 8).map fun c =>
             (c.1, if c.2.st = .held then { c.2 with st := c.2.thawed, saved := .ready, since := now } else c.2),
           s := (List.range 4).foldl (fun m k => m.set 0 k (g.hdr.get 0 k)) g.s,
           hdr := [], hnd := none, cow := 0, sweep := g.sweep0, sweep0 := {}, onRings := [] }

end Sys2Proof.Machine
end

