-- ==== Sys2Proof/Machine/Fragments.lean ====
section
/-! DEFINITION. Releases and acquires; fragments, deferral and fusion (R32 to R36); barriers (R38, R235); Loupe threads
(R55 to R68); and the end of groups and blocks (R36, R334, R350). -/

namespace Sys2Proof.Machine

/-! ### Releases and acquires (R92) -/

/-- Release of scope y by a party at cluster k on a core (R92, R96): its stores accepted, its vault writes
acknowledged, the drain. -/
def State.release1 (s : State) (gid core k : Nat) (y : Scope) : State :=
  ((s.drainCore core).ackVaults gid).drain k y

/-- Release of scope y by the executing party. -/
def State.relScope (s : State) (y : Scope) : State := s.release1 s.cur.gid s.core s.clu y

/-- Acquire of scope y on a core (R92): from cluster scope on, the whole L1 is invalidated. -/
def State.acquire1 (s : State) (core : Nat) (y : Scope) : State := if y = .core then s else s.flushL1 core

/-- Acquire of scope y by the executing party; a Loupe thread reads no core cache (R59). -/
def State.acqScope (s : State) (y : Scope) : State :=
  if s.g.isLoupe then s else s.acquire1 s.core y

/-! ### The split table (R32 to R36) -/

/-- Entry f is allocatable (R32): not valid, and no valid entry, nor the handler, has JOIN f. -/
def Group.allocatable (g : Group) (f : Nat) : Bool :=
  decide (f < 8) && !(g.ent f).valid && !(g.tab.any fun c => c.2.valid && c.2.join == f)

/-- Lowest-numbered allocatable entry. -/
def Group.alloc (g : Group) : Option Nat := (List.range 8).find? g.allocatable

/-- Free an entry in the table; SRPC and SJOIN stand (R32). -/
def Group.clearEnt (g : Group) (i : Nat) : Group :=
  g.setEnt i { Entry.free with srpc := (g.ent i).srpc, sjoin := (g.ent i).sjoin }

/-- Free the entry of a fragment that ends: it then owns no deferral record (R36). -/
def Group.freeEnt (g : Group) (i : Nat) : Group :=
  { g with defer := g.defer.filter fun d => d.owner != i }.clearEnt i

/-- Entries that fuse are freed, and the fused fragment k owns their deferral records: those of k stand (R34, R35);
those of another entry go over to k, which takes its lanes, where the rules name no owner (log entry 68). -/
def Group.clearAll (g : Group) (es : List Nat) (k : Nat) : Group :=
  es.foldl Group.clearEnt
    { g with defer := g.defer.map fun d => if es.contains d.owner then { d with owner := k } else d }

/-- Valid entries, the handler fragment among them, with a join tag. -/
def Group.tagged (g : Group) (tag : Nat) : List Nat :=
  (g.tab.filter fun c => c.2.valid && c.2.join == tag).map Prod.fst

/-- Top deferral record that an entry owns (R35). -/
def Group.topDefer (g : Group) (e : Nat) : Option Defer := g.defer.find? fun d => d.owner == e

/-- Replace or drop the top deferral record of an entry. -/
def mapTop (e : Nat) (f : Defer → Option Defer) : List Defer → List Defer
  | [] => []
  | d :: t => if d.owner = e then (match f d with | some d' => d' :: t | none => t) else d :: mapTop e f t

/-- The top record of entry e advances with a set of arrived lanes (R35, step 2; R36). -/
def Group.advanceDefer (g : Group) (e : Nat) (arrived : Mask) (now : Nat) : Group :=
  match g.topDefer e with
  | none => g
  | some d =>
    if d.phase then
      let g := { g with defer := mapTop e (fun _ => none) g.defer }
      g.setEnt e { g.ent e with mask := (g.ent e).mask ||| d.arrived, pc := d.rpc, since := now }
    else
      let g := { g with defer := mapTop e (fun d => some { d with arrived := arrived, phase := true }) g.defer }
      g.setEnt e { g.ent e with mask := d.mask, pc := d.pc, since := now }

/-- Lanes of an entry's domain that its deferral records hold (R36). -/
def Group.deferred (g : Group) (e : Nat) : Mask :=
  (g.defer.filter fun d => d.owner == e).foldl (fun m d => m ||| (if d.phase then d.arrived else d.mask)) 0

/-- A ready entry stands at the RPC of its top deferral record (R35, steps 2 and 3). -/
def Group.atDefer (g : Group) (e : Nat) : Bool :=
  (g.ent e).valid && (g.ent e).st == .ready &&
    match g.topDefer e with
    | some d => d.rpc == (g.ent e).pc
    | none => false

/-- A join tag, or one of the tags saved above it by the splits and ejections it stands in, is a given tag. -/
def Group.under (g : Group) (tag : Nat) : Nat → Nat → Bool
  | 0, _ => false
  | n + 1, t =>
    t == tag || (decide (t < 8) && g.under tag n (g.ent t).sjoin)
      || (decide (8 ≤ t) && decide (t < 12) && g.under tag n (g.recs.get Rec.free (t - 8)).sjoin)

/-- A fragment or a record of an inner split comes back under a tag (R63; log entry 18). -/
def Group.inner (g : Group) (tag : Nat) : Bool :=
  (g.tab.any fun c => c.2.valid && c.2.join != tag && g.under tag 12 c.2.join)
    || g.recs.any fun c => c.2.valid && 8 + c.1 != tag && g.under tag 12 (8 + c.1)

/-- There is an entry with a split's tag, and every such entry waits (R34, R49). -/
def Group.canFuse (g : Group) (tag : Nat) : Bool :=
  decide (tag < 8) && !(g.tagged tag).isEmpty && (g.tagged tag).all fun i => (g.ent i).st == .waiting

/-- Fusion of a split's tag (R34); lanes of a split of the handler return to the handler (R46). -/
def Group.fuse (g : Group) (tag now : Nat) : Group :=
  let es := g.tagged tag
  let m := es.foldl (fun m i => m ||| (g.ent i).mask) 0
  let d := es.foldl (fun m i => m ||| (g.ent i).dom) 0
  let rp := (g.ent tag).srpc
  let jt := (g.ent tag).sjoin
  let k := if es.contains 8 then 8 else (minOf es).getD 0
  let x := (g.ent k).rpc
  let g := g.clearAll es k
  g.setEnt k { g.ent k with valid := true, st := .ready, pc := x, mask := m, dom := d, rpc := rp, join := jt, since := now }

/-- A handler of the group runs, or its state is frozen for the driver: its fragments and records stand still (R46,
R161). -/
def Group.still (g : Group) : Bool := g.hnd.isSome || g.forced || g.frozen

/-- A record's fusion can take place (R63): no lane out or held, every tagged entry waits, those that inner splits of the
remaining side still owe among them (log entry 18), and an entry is freed or allocatable, or no lane is left. The
records of a group that stands still are frozen (R161). -/
def Group.canFuseRec (g : Group) (r : Nat) : Bool :=
  let c := g.recs.get Rec.free r
  let es := g.tagged (8 + r)
  c.valid && !g.still && c.onl == 0 && c.held == 0 && (es.all fun i => (g.ent i).st == .waiting) && !g.inner (8 + r) &&
    (!es.isEmpty || g.alloc.isSome || c.dom == 0)

/-- Fusion of an ejection record (R63), but for its acquire. -/
def Group.fuseRec (g : Group) (r now : Nat) : Group :=
  let c := g.recs.get Rec.free r
  let es := g.tagged (8 + r)
  let m := es.foldl (fun m i => m ||| (g.ent i).mask) c.mask
  let d := es.foldl (fun m i => m ||| (g.ent i).dom) c.dom
  let k := (minOf es).getD (g.alloc.getD 0)
  let g := { g.clearAll es k with recs := g.recs.erase r }
  if d = 0 then g
  else g.setEnt k { g.ent k with valid := true, st := .ready, pc := c.rpc, mask := m, dom := d, rpc := c.srpc, join := c.sjoin, since := now }

/-- Lanes of a group on the Loupe or held (R36). -/
def Group.out (g : Group) : Mask :=
  (g.recs.filter fun c => c.2.valid).foldl (fun m c => m ||| c.2.onl ||| c.2.held) 0

/-- No lane of the group is left (R36). -/
def Group.over (g : Group) : Bool :=
  g.allDom == 0 && g.out == 0 && !(g.tab.any fun c => c.2.valid && c.2.dom != 0)

/-! ### Barriers (R38, R45, R235) -/

/-- The generation in which an arrival of a group, by its key, counts (R38). -/
def Bar.slotFor (b : Bar) (i : Nat) : Nat → Nat → Nat
  | 0, k => k
  | f + 1, k =>
    if (k == b.gen && b.arrived.contains i) || b.early.contains (i, k) then Bar.slotFor b i f (k + 1) else k

/-- A group arrives; the generation it waits for. -/
def Bar.arrive (b : Bar) (i : Nat) : Bar × Nat :=
  let k := b.slotFor i 16 b.gen
  (if k = b.gen then { b with arrived := b.arrived ++ [i] } else { b with early := b.early ++ [(i, k)] }, k)

/-- A group has arrived in a generation. -/
def Bar.has (b : Bar) (k i : Nat) : Bool := if k = b.gen then b.arrived.contains i else b.early.contains (i, k)

/-- Withdraw nothing but forget groups that have ended; an arrival without a group is counted by a reloaded header
alone (R373). -/
def Bar.keep (b : Bar) (live : List Nat) : Bar :=
  { b with arrived := b.arrived.filter fun i => live.contains i || i == noSlot
           early := b.early.filter fun p => live.contains p.1 }

/-- Arrivals equal the expected count, the number of groups that have not ended (R38). -/
def Bar.full (b : Bar) (live : List Nat) : Bool := !live.isEmpty && decide (live.length ≤ b.arrived.length)

/-- The next generation (R38). -/
def Bar.complete (b : Bar) : Bar :=
  { arrived := (b.early.filter fun p => p.2 == b.gen + 1).map Prod.fst
    early := b.early.filter fun p => p.2 != b.gen + 1
    gen := b.gen + 1 }

/-- A fragment goes on at a program counter, with no chain behind it; a recalled one leaves STATE 3 (R60). -/
def Entry.moved (e : Entry) (pc : PC) (now : Nat) : Entry :=
  { e with pc := pc, st := .ready, wait := .none, flagged := false, cont := none, after := none, pre := none, since := now }

/-- A fragment parks (R31); its wait is a new one (R357). -/
def Entry.parked (e : Entry) (w : Wait) (now : Nat) : Entry := { e with st := .parked, wait := w, wseq := now }

/-- A fragment passes the word at which it waited: it goes on after its chain, or at the chain's word on the B pipe. -/
def Entry.passed (e : Entry) (now : Nat) : Entry := match e.after with
  | some b => { e with st := .ready, wait := .none, flagged := false, pc := b, after := none, since := now
                       cont := some (e.cont.getD (pcAdd e.pc 1)) }
  | none => e.moved (e.cont.getD (pcAdd e.pc 1)) now

/-- Release an entry parked with a wait: the barrier's fragments go on at their next instruction, a trap-held one is
saved so (R38, R44). -/
def Entry.passBar (w : Wait) (now : Nat) (e : Entry) : Entry :=
  if e.valid && e.wait == w then
    if e.st = .held then { e.passed now with st := .held, saved := .ready } else e.passed now
  else e

/-- Release every entry of some groups that is parked with a wait. -/
def State.passBars (s : State) (gids : List Nat) (w : Wait) : State :=
  gids.foldl (fun s g =>
    let x := s.group g
    s.setGroup g { x with tab := x.tab.map fun c => (c.1, c.2.passBar w s.clock) }) s

/-- Release the entries of a group that are parked at barriers whose generation has passed (R44). -/
def Group.passGone (g : Group) (bars : Nat → Nat) (cgen : Nat) (now : Nat) : Group :=
  { g with tab := g.tab.map fun c => (c.1, match c.2.wait with
      | .bar n k => if k < bars n then c.2.passBar (.bar n k) now else c.2
      | .cbar k => if k < cgen then c.2.passBar (.cbar k) now else c.2
      | _ => c.2) }

/-- Complete generations of block barrier n while every live group has arrived (R38). -/
def State.settleBar (bid n : Nat) : Nat → State → State
  | 0, s => s
  | f + 1, s =>
    let b := s.block bid
    let live := s.liveIx bid
    let r := (b.bars.get Bar.zero n).keep live
    if r.full live then
      let s := s.setBlock bid { b with bars := b.bars.set Bar.zero n r.complete }
      State.settleBar bid n f (s.passBars (s.liveGids b) (.bar n r.gen))
    else s.setBlock bid { b with bars := b.bars.set Bar.zero n r }

/-- Scope of a cohort level (R41, R235). -/
def Level.scope : Level → Scope
  | .core => .core
  | .neigh => .die
  | .clu => .clu
  | .die => .die
  | .stk => .stk
  | .ipr => .ipr
  | .pkg => .pkg

/-- Groups of a cohort on their cores. -/
def State.cohortGids (s : State) (c : Cohort) : List Nat := c.members.flatMap fun b => s.liveGids (s.block b)

/-- Complete generations of a cohort's barrier (R235); completion is an acquire at its scope. -/
def State.settleCbar (coh : Nat) : Nat → State → State
  | 0, s => s
  | f + 1, s =>
    let c := s.cohorts.get Cohort.empty coh
    let live := s.cohortIx c
    let r := c.cbar.keep live
    let here := c.members.all fun b => (s.block b).live && !(s.block b).saved
    if here && r.full live then
      let s := { s with cohorts := s.cohorts.set Cohort.empty coh { c with cbar := r.complete } }
      let s := c.members.foldl (fun s b => s.acquire1 (s.block b).pcore c.level.scope) s
      State.settleCbar coh f (s.passBars (s.cohortGids c) (.cbar r.gen))
    else { s with cohorts := s.cohorts.set Cohort.empty coh { c with cbar := r } }

/-! ### Ends of groups and blocks (R36, R334, R346, R350) -/

/-- Completion scope of the packet that a launch record serves (R332). -/
def State.pktScope (s : State) (lrec : Nat) : Scope :=
  let p := s.pkts.get {} (s.lrecs.get {} lrec).pkt
  match (p.bytes.getD 2 0).toNat % 8 with
  | 0 => .core | 1 => .clu | 2 => .die | 3 => .stk | 4 => .ipr | 5 => .pkg | _ => .sys

/-- Forget an ended block at rings, cohort and areas. -/
def State.dropBlock (s : State) (bid : Nat) : State :=
  let b := s.block bid
  let s := s.forgetRings bid
  let c := s.cohorts.get Cohort.empty b.coh
  let c' : Cohort := { c with members := c.members.filter (· != bid) }
  { s with blocks := s.blocks.erase bid
           cohorts := s.cohorts.set Cohort.empty b.coh (if c'.members.isEmpty then Cohort.empty else c')
           savedG := s.savedG.filter fun x => x.1 / 16 != bid
           starts := s.starts.erase bid
           batches := s.batches.erase bid }

/-- Give a save area back (R369); where its bitmap faults, the context ends (R372). -/
def State.returnArea (s : State) (pcore vi n i : Nat) : State :=
  match s.freeArea pcore vi n i with
  | .ok s => s
  | .bad l => (s.logBad l (s.ctx vi n).asid.toNat).endContext vi n pcore 0x41
  | _ => s.endContext vi n pcore 0x42

/-- The block ends when all its groups have ended, its engine operations are complete and its vault writes can be
acknowledged (R36): the release at the
packet's scope, the resources back, the save area freed, the REMAIN decrement sent. Of a stopped block the last engine
context ends (R263). -/
def State.blockOver (s : State) (bid : Nat) : State :=
  let b := s.block bid
  if b.killed then (if b.idle then { s with blocks := s.blocks.erase bid } else s)
  else if b.live && !b.saved && (s.liveIx bid).isEmpty && b.idle && (b.gids.flatMap s.vaultWaits).isEmpty then
    let s := (b.gids.foldl State.ackVaults (s.drainCore b.pcore)).drain (cluOf b.pcore) (s.pktScope b.lrec)
    let s := ({ s with ends := s.ends ++ [b.lrec] } : State).release b
    let s := State.settleCbar b.coh 16 (s.dropBlock bid)
    match b.area with
    | some i => s.returnArea b.pcore b.vi b.ctx i
    | none => s
  else s

/-- A group whose lanes are all gone ends; barriers that waited for it may complete (R36, R38, R235). -/
def State.groupOver (s : State) (gid : Nat) : State :=
  let g := s.group gid
  if g.live && g.over then
    let s := s.setGroup gid Group.empty
    let s := (List.range 17).foldl (fun s n => State.settleBar g.bid n 16 s) s
    let s := State.settleCbar (s.block g.bid).coh 16 s
    s.blockOver g.bid
  else s

/-! ### Loupe threads (R57 to R68) -/

/-- Number of Loupe context c of Loupe core k of a cluster. -/
def tidOf (clu k c : Nat) : Nat := 16384 + 64 * clu + 16 * k + c

/-- Free contexts of a Loupe core. -/
def State.freeCtxs (s : State) (clu k : Nat) : List Nat :=
  (List.range 16).filter fun c => !(s.group (tidOf clu k c)).live

/-- The context that the allocator gives next (R57). -/
def State.allocThread (s : State) (clu : Nat) : Option Nat :=
  let best := (List.range 4).foldl (fun b k =>
    if (s.freeCtxs clu b).length < (s.freeCtxs clu k).length then k else b) 0
  (s.freeCtxs clu best).head?.map (tidOf clu best)

/-- Number of free contexts of a cluster's Loupe. -/
def State.freeThreads (s : State) (clu : Nat) : Nat :=
  ((List.range 4).map fun k => (s.freeCtxs clu k).length).sum

/-- A row that holds one lane's value. -/
def Row.only (l : Nat) (r : Row) : Row := Row.ofFn fun i => if i.val = l then r.at l else 0

/-- Start a Loupe thread for a lane of a record (R58, R68) with some registers and predicates of the group's file; s61 to
s63 are its own mask. -/
def State.startThread (s : State) (tid gid r l : Nat) (pc : PC) (on : Bool) (sc : Store Word64) (vs : Mask)
    (ps : BitVec 7) : State :=
  let g := s.group gid
  let e : Entry := { valid := true, st := .ready, pc := pc, mask := if on then Mask.one l else 0, dom := Mask.one l,
                     since := s.clock }
  s.setGroup tid
    { live := true, kind := .loupe gid r l, bid := g.bid, gix := g.gix, helper := 0
      v := (Mask.list vs).foldl (fun m k => m.set Row.zero k.val (Row.only l (g.v.get Row.zero k.val))) []
      p := (List.range 7).foldl (fun m k => if ps.getLsbD k then m.set 0 k (g.p.get 0 k &&& Mask.one l) else m) []
      s := sc.filter fun x => x.1 < 61
      tab := [(0, e)] }

/-- Copy a lane's registers back from its thread (R60, R62). -/
def Group.copyBack (g t : Group) (l : Nat) (vs : Mask) (ps : BitVec 7) : Group :=
  { g with
    v := (Mask.list vs).foldl (fun m k => m.set Row.zero k.val
      (Row.merge (Mask.one l) (m.get Row.zero k.val) fun _ => (t.v.get Row.zero k.val).at l)) g.v
    p := (List.range 7).foldl (fun m k => if ps.getLsbD k then
        m.set 0 k ((m.get 0 k &&& ~~~ Mask.one l) ||| (t.p.get 0 k &&& Mask.one l)) else m) g.p
    sr := { g.sr with fpstat := g.sr.fpstat ||| t.sr.fpstat } }

/-- The release of a Loupe thread and the acquire of its group (R64). -/
def State.handBack (s : State) (tid gid : Nat) : State := (s.ackVaults tid).flushL1 (coreOf gid)

/-- Recall a thread (R60): none where no entry is allocatable. In a group that stands still the recalled fragment is one
of the frozen ones. -/
def State.recallThread (s : State) (tid : Nat) : Option State :=
  let t := s.group tid
  match t.kind with
  | .loupe gid r l =>
    let g := s.group gid
    let c := g.recs.get Rec.free r
    match g.alloc with
    | none => none
    | some f =>
      let e := t.ent 0
      let s := s.handBack tid gid
      let g := g.copyBack t l (c.lin ||| c.lout) (c.pin ||| c.pout)
      let g := { g with recs := g.recs.set Rec.free r { c with onl := c.onl &&& ~~~ Mask.one l } }
      let old := g.ent f
      let n : Entry := { Entry.free with
        valid := true, st := if g.still then .held else .recalled, saved := if g.still then .recalled else .ready
        pc := e.pc, mask := e.mask, dom := Mask.one l, rpc := c.rpc
        join := 8 + r, srpc := old.srpc, sjoin := old.sjoin, since := s.clock, cont := e.cont }
      let g := g.setEnt f n
      some ((s.setGroup gid g).setGroup tid Group.empty)
  | _ => none

/-- Rejoin a thread that stands at its record's RPC (R62). -/
def State.rejoinThread (s : State) (tid : Nat) : State :=
  let t := s.group tid
  match t.kind with
  | .loupe gid r l =>
    let g := s.group gid
    let c := g.recs.get Rec.free r
    let s := s.handBack tid gid
    let g := g.copyBack t l c.lout c.pout
    let c' : Rec := { c with onl := c.onl &&& ~~~ Mask.one l, dom := c.dom ||| Mask.one l,
                             mask := c.mask ||| (t.ent 0).mask }
    (s.setGroup gid { g with recs := g.recs.set Rec.free r c' }).setGroup tid Group.empty
  | _ => s

/-- The 64 scalars of a Loupe thread; s61 to s63 are its mask (R27, R58, R67). -/
def Group.scalars (t : Group) : Store Word64 :=
  (List.range 3).foldl (fun m k => m.set 0 (61 + k) (((t.ent 0).mask.extractLsb' (32 * k) 32).zeroExtend 64)) t.s

/-- Pre-emption recall of a thread into HELD (R67). -/
def State.holdThread (s : State) (tid : Nat) : State :=
  let t := s.group tid
  match t.kind with
  | .loupe gid r l =>
    let g := s.group gid
    let c := g.recs.get Rec.free r
    let s := s.handBack tid gid
    let g := g.copyBack t l (c.lin ||| c.lout) (c.pin ||| c.pout)
    let c' : Rec := { c with onl := c.onl &&& ~~~ Mask.one l, held := c.held ||| Mask.one l,
                             dom := c.dom ||| Mask.one l, mask := c.mask ||| (t.ent 0).mask,
                             hpc := c.hpc.set 0 l (t.ent 0).pc, hscl := c.hscl.set [] l t.scalars }
    (s.setGroup gid { g with recs := g.recs.set Rec.free r c' }).setGroup tid Group.empty
  | _ => s

/-- The lane of a Loupe thread executes EXIT (R59); vault writes of the thread are its group's from then on. -/
def State.exitThread (s : State) (tid : Nat) : State :=
  let t := s.group tid
  match t.kind with
  | .loupe gid r l =>
    let g := s.group gid
    let c := g.recs.get Rec.free r
    let c' : Rec := { c with onl := c.onl &&& ~~~ Mask.one l }
    let g := { g with recs := g.recs.set Rec.free r c', exited := g.exited ||| Mask.one l,
                      sr := { g.sr with fpstat := g.sr.fpstat ||| t.sr.fpstat } }
    { (s.setGroup gid g).setGroup tid Group.empty with
      vq := s.vq.map fun w => if w.gid = tid then { w with gid := gid } else w }
  | _ => s

/-- Send the lowest held lane of a record to a Loupe thread of the cluster, if a context is free (R68). -/
def State.sendHeld (s : State) (gid r : Nat) : State :=
  let g := s.group gid
  let c := g.recs.get Rec.free r
  match Mask.low c.held, s.allocThread (cluOf (coreOf gid)) with
  | some l, some tid =>
    let c' : Rec := { c with held := c.held &&& ~~~ Mask.one l, dom := c.dom &&& ~~~ Mask.one l,
                             mask := c.mask &&& ~~~ Mask.one l, onl := c.onl ||| Mask.one l,
                             hpc := c.hpc.erase l, hscl := c.hscl.erase l }
    (s.startThread tid gid r l (c.hpc.get 0 l) (Mask.has c.mask l) (c.hscl.get [] l)
        (c.lin ||| c.lout) (c.pin ||| c.pout)).setGroup gid
      { g with recs := g.recs.set Rec.free r c' }
  | _, _ => s

/-- A word that sets flags has been issued in a group, by a fragment other than i of it, and is not complete (R116,
R164). -/
def State.flagging (s : State) (gid i : Nat) : Bool :=
  let h := match (s.group gid).kind with
    | .loupe p _ _ => p
    | _ => gid
  (s.group h).tab.any fun c => c.2.valid && c.2.flagged && c.2.st != .held && (h != gid || c.1 != i)

end Sys2Proof.Machine
end

