-- ==== Sys2Proof/Machine/FwView.lean ====
section
/-! DEFINITION. The firmware region of an interface and its context table as memory: what their words hold and what a store
to them does (R341 to R350, R355, R360, R361; log entry 20). -/

namespace Sys2Proof.Machine

/-! ### Words made of fields (R8) -/

/-- A number made of fields, each with its lowest bit; what lies between them is reserved and reads as zero. -/
def fieldsNat (fs : List (Nat × Nat)) : Nat := (fs.map fun f => f.2 * 2 ^ f.1).sum

def fieldsWord (fs : List (Nat × Nat)) : Word64 := BitVec.ofNat 64 (fieldsNat fs)

/-- 64-bit word w of a number. -/
def wordOf (n w : Nat) : Word64 := BitVec.ofNat 64 (n / 2 ^ (64 * w))

/-! ### Interfaces, rings and ready lists -/

def State.iface (s : State) (vi : Nat) : Iface := s.ifaces.get {} vi

def State.setIface (s : State) (vi : Nat) (x : Iface) : State := { s with ifaces := s.ifaces.set {} vi x }

/-- The interface whose partition holds a core. -/
def State.ownerOf (s : State) (pcore : Nat) : Option Nat :=
  (s.ifaces.find? fun c => c.2.clus.contains (cluOf pcore)).map Prod.fst

def State.ring (s : State) (r : Nat) : Ring := s.rings.get Ring.empty r

def State.setRing (s : State) (r : Nat) (c : Ring) : State := { s with rings := s.rings.set Ring.empty r c }

def RState.num : RState → Nat
  | .active => 0
  | .error => 1
  | .halted => 2

/-- Word w of a ring's status (R277, R282). -/
def Ring.word (c : Ring) (w : Nat) : Word64 := match w with
  | 0 => BitVec.ofNat 64 (c.ecode.toNat * 2 ^ 32 + RState.num c.st * 2 ^ 30 + Scope.num c.scope * 2 ^ 27
      + c.lsize % 16 * 2 ^ 20 + c.lcount % 32 * 2 ^ 15)
  | 1 => c.fill.zeroExtend 64
  | 2 => c.pub.zeroExtend 64
  | 3 => c.read.zeroExtend 64
  | 4 => c.base
  | _ => 0

/-- A ready list of an interface. -/
def State.rlist (s : State) (vi l : Nat) : RList := s.rlists.get {} (vi * 4 + l)

def State.setRlist (s : State) (vi l : Nat) (r : RList) : State :=
  { s with rlists := s.rlists.set {} (vi * 4 + l) r }

/-- The slot at P is free (R343). -/
def RList.open (r : RList) : Bool := !r.ents.any fun e => e.1 % 16384 == r.p % 16384

/-- Push an entry; a full list holds it back. -/
def RList.push (r : RList) (e : REntry) : RList :=
  if r.open && r.waiting.isEmpty then { r with p := r.p + 1, ents := r.ents ++ [(r.p, e)] }
  else { r with waiting := r.waiting ++ [e] }

/-- Pushes that waited take the slots that are free. -/
def RList.flush : Nat → RList → RList
  | 0, r => r
  | f + 1, r => match r.waiting with
    | [] => r
    | e :: t => if r.open then RList.flush f { r with p := r.p + 1, ents := r.ents ++ [(r.p, e)], waiting := t } else r

/-- STAT of an entry becomes 0: its slot is free (R343). -/
def RList.drop (r : RList) (i : Nat) : RList :=
  RList.flush r.waiting.length { r with ents := r.ents.filter fun x => x.1 != i }

/-! ### Layouts (R343, R348, R350, R361) -/

/-- Address of a batch area (R342). -/
def State.batchVa (s : State) (vi a : Nat) : Word64 := (s.iface vi).fwbase + BitVec.ofNat 64 (0x900000 + 6144 * a)

/-- Address of a launch or node record (R342). -/
def State.recordVa (s : State) (vi r : Nat) : Word64 := (s.iface vi).fwbase + BitVec.ofNat 64 (0x44000 + 64 * (r % 4096))

/-- Word w of entry i of a ready list (R343). -/
def State.entryWord (s : State) (vi i : Nat) (e : REntry) (w : Nat) : Word64 :=
  if w < 8 then
    (if e.relaunch then (if w = 0 then s.recordVa vi e.item else 0)
     else BitVec.ofNat 64 (numAt (s.pkts.get {} e.item).bytes (8 * w) 8))
  else wordOf (fieldsNat [(512, e.q), (552, e.ctxn), (568, ofBool e.relaunch), (576, e.rlcoh), (960, i + 1)]) w

/-- The words of a launch or node record (R350). T0 = none is held as 0, and so is a T0 whose time is 0: the rule gives
no code for none (log entry 20). -/
def LRec.word (l : LRec) (w : Nat) : Word64 := match w with
  | 0 => fieldsWord [(0, l.nbat)]
  | 4 => fieldsWord [(32, ofBool l.node), (48, l.run)]
  | 5 => fieldsWord [(0, l.t0.getD 0), (32, l.next)]
  | 6 => fieldsWord [(0, l.remain)]
  | 7 => l.ent
  | _ => 0

def LRec.setWord (l : LRec) (w : Nat) (v : Word64) : LRec := match w with
  | 0 => { l with nbat := bits v 0 32 }
  | 4 => { l with node := v.getLsbD 32, run := bits v 48 16 }
  | 5 => { l with t0 := if bits v 0 32 = 0 then none else some (bits v 0 32), next := bits v 32 32 }
  | 6 => { l with remain := v.toNat }
  | 7 => { l with ent := v }
  | _ => l

/-- Bytes of the window map of a start record: valid, core in die (R348). -/
def winNat (win : List (Option Nat)) (lo : Nat) : Nat :=
  fieldsNat ((List.range 8).map fun i => (8 * i, match win.getD (lo + i) none with
    | some c => 128 + c % 64
    | none => 0))

/-- Word w of a start record (R348). -/
def State.startWord (s : State) (r : StartRec) (w : Nat) : Word64 :=
  wordOf (fieldsNat [(349, r.slotm), (365, r.accm), (375, r.asid), (384, r.ctxn), (420, r.rnum), (432, r.ridx.toNat),
    (464, r.nrec), (472, r.mbr), (480, r.coh), (512, r.extent), (544, r.lane0), (576, winNat r.win 16),
    (640, winNat r.win 8), (704, winNat r.win 0), (768, (s.recordVa r.vi r.lrec).toNat),
    (832, (s.batchVa r.vi r.trec).toNat), (896, r.argp.toNat), (960, r.kd.toNat)]) w

/-- The record of a placement pass that stands in slot k of a mailbox: one is written once the core has consumed the
record four before it (R348). -/
def Mailbox.inSlot (m : Mailbox) (k : Nat) : Option (Nat × StartRec) :=
  m.recs.find? fun x => x.1 % 4 == k && decide (x.1 < m.consumed + 4)

/-- The ready word of slot k of a mailbox: that of the record in the slot, else of the last one written to it or taken
from it (R348). -/
def Mailbox.ready (m : Mailbox) (k : Nat) : Nat :=
  match m.inSlot k with
  | some x => x.1 + 1
  | none => Nat.max (m.rdys.get 0 k)
      (((List.range 4).find? fun j => j < m.consumed && (m.consumed - 1 - j) % 4 == k).elim 0 fun j => m.consumed - j)

/-- Word w of slot k of a mailbox. -/
def State.slotWord (s : State) (m : Mailbox) (k w : Nat) : Word64 := match m.inSlot k with
  | some x => s.startWord x.2 w
  | none => m.slots.get 0 (16 * k + w)

/-- Reserved bits of word w of a start record (R348). -/
def startMask (w : Nat) : Word64 := match w with
  | 0 | 1 | 2 | 3 | 4 => 0
  | 5 => 0xFFFFFFFFE0000000
  | 6 => 0xFFFFFFF00000FFFF
  | _ => 0xFFFFFFFFFFFFFFFF

/-- Reserved bits of an occupancy word read as zero (R8, R345). -/
def occMask : Word64 := 0xFE00FFFFFFFF03FF

def CState.num : CState → Nat
  | .free => 0 | .live => 1 | .stopping => 2 | .stopped => 3 | .ending => 4

def CState.ofNum : Nat → CState
  | 0 => .free | 1 => .live | 2 => .stopping | 3 => .stopped | _ => .ending

/-- 64-bit word w of a context entry (R361); CMD reads as zero. -/
def Ctx.word (c : Ctx) (w : Nat) : Word64 := match w with
  | 0 => fieldsWord [(0, c.asid.toNat), (9, c.cstate.num), (16, ofBool c.debug), (17, ofBool c.hold), (18, c.vec.toNat),
      (36, ofBool c.busy), (37, ofBool c.err), (48, c.endc.toNat)]
  | 2 => c.ptroot
  | 3 => c.saveb
  | 4 => c.savemap
  | 5 => fieldsWord [(0, c.saven.toNat), (32, c.usrsz.toNat)]
  | 6 => c.feat0
  | 7 => c.feat1
  | 9 => fieldsWord [(20, c.pasid.toNat), (40, c.invlog.toNat), (48, c.invva.toNat % 2 ^ 16)]
  | 10 => fieldsWord [(0, c.invva.toNat / 2 ^ 16), (56, c.fltlog.toNat)]
  | 11 => fieldsWord [(0, c.fltrd.toNat), (32, c.fltwr.toNat)]
  | 12 => c.fltring
  | _ => 0

/-- A store by firmware to word w of a context entry in memory: CSTATE, BUSY, ERR, ENDC and FLTWR are read-only (R7,
R361). R362 speaks of the driver's writes of CMD; a store to CMD here performs no command (log entry 20). -/
def Ctx.setWord (c : Ctx) (w : Nat) (v : Word64) : Ctx := match w with
  | 0 => { c with asid := v.truncate 9, debug := v.getLsbD 16, hold := v.getLsbD 17, vec := (v >>> 18).truncate 5 }
  | 2 => { c with ptroot := v }
  | 3 => { c with saveb := v }
  | 4 => { c with savemap := v }
  | 5 => { c with saven := v.truncate 32, usrsz := (v >>> 32).truncate 32 }
  | 6 => { c with feat0 := v }
  | 7 => { c with feat1 := v }
  | 9 => { c with pasid := (v >>> 20).truncate 20, invlog := (v >>> 40).truncate 8
                  invva := BitVec.ofNat 64 (c.invva.toNat / 2 ^ 16 * 2 ^ 16 + bits v 48 16) }
  | 10 => { c with invva := BitVec.ofNat 64 (bits v 0 48 * 2 ^ 16 + c.invva.toNat % 2 ^ 16)
                   fltlog := (v >>> 56).truncate 8 }
  | 11 => { c with fltrd := v.truncate 32 }
  | 12 => { c with fltring := v }
  | _ => c

/-! ### Where they lie (R342, R348, R360) -/

/-- What stands in an 8-byte word of the region or of the context table. -/
inductive FwField
  | push (l : Nat)
  | ticket (l : Nat)
  | command
  | occ (pcore : Nat)
  | ring (n w : Nat)
  | record (r w : Nat)
  | entry (l slot w : Nat)
  | batch (a off : Nat)
  | start (pcore k w : Nat)
  | mailTicket (pcore : Nat)
  | consumed (pcore : Nat)
  | ready (pcore k : Nat)
  | ctx (n w : Nat)
  /-- The agent's copy of the ready-list entry of a record (R350; log entry 20). -/
  | copy (r w : Nat)
  | reserved
  /-- Bytes to which the spec gives no meaning. -/
  | plain
  deriving DecidableEq, Repr

/-- Bytes of the region, and of the context table. -/
def fwSize : Nat := 0x2180000
def tableSize : Nat := 0x10000

/-- A word of a start mailbox (R348). -/
def mailField (p o : Nat) : FwField :=
  if o < 0x200 then .start p (o / 128) (o % 128 / 8)
  else if o = 0x200 then .mailTicket p
  else if o = 0x208 then .consumed p
  else if o < 0x230 then .ready p ((o - 0x210) / 8)
  else .reserved

/-- The word at an offset of the region, a multiple of 8 (R342). -/
def fwField (off : Nat) : FwField :=
  if off < 0x100 then
    (if off % 0x40 = 0 then .push (off / 0x40) else if off % 0x40 = 8 then .ticket (off / 0x40) else .plain)
  else if off = 0x200 then .command
  else if off < 0x1000 then .plain
  else if off < 0x2000 then .occ ((off - 0x1000) / 8)
  else if off < 0x4000 then .copy (3968 + (off - 0x2000) / 128) (off % 128 / 8)
  else if off < 0x44000 then .ring ((off - 0x4000) / 64) (off % 64 / 8)
  else if off < 0x84000 then .record ((off - 0x44000) / 64) (off % 64 / 8)
  else if off < 0x100000 then .copy ((off - 0x84000) / 128) (off % 128 / 8)
  else if off < 0x900000 then
    let e := off - 0x100000
    .entry (e / 0x200000) (e % 0x200000 / 128) (e % 128 / 8)
  else if off < 0x2100000 then .batch ((off - 0x900000) / 6144) ((off - 0x900000) % 6144)
  else if off < fwSize then mailField ((off - 0x2100000) / 0x400) (off % 0x400)
  else .plain

/-- The region or the table in which a firmware address lies: its interface, whether it is the table, the offset. -/
def State.fwAt (s : State) (va : Word64) : Option (Nat × Bool × Nat) :=
  if !va.getLsbD 56 then none
  else
    let inside := fun (base : Word64) n => base.getLsbD 56 && decide (base.toNat ≤ va.toNat ∧ va.toNat < base.toNat + n)
    s.ifaces.findSome? fun c =>
      if inside c.2.fwbase fwSize then some (c.1, false, va.toNat - c.2.fwbase.toNat)
      else if inside c.2.ctxTab tableSize then some (c.1, true, va.toNat - c.2.ctxTab.toNat)
      else none

/-- The region or the table behind which a physical address lies, as the firmware page table maps them: HBM holds both
(R342, R360). -/
def State.fwOfPa (s : State) (pa : Nat) : Option (Nat × Bool × Nat) :=
  let offIn := fun (base : Word64) (n : Nat) =>
    if !base.getLsbD 56 then none
    else (List.range (n / 4096 + 1)).findSome? fun k =>
      let va := base.toNat / 4096 * 4096 + 4096 * k
      let a := va + pa % 4096
      match (walk s 512 512 (va % 2 ^ 57) 5 s.fwRoot).2 with
      | .ok t =>
        if (t.pa + va % 2 ^ t.lg) / 4096 = pa / 4096 ∧ base.toNat ≤ a ∧ a < base.toNat + n then some (a - base.toNat)
        else none
      | .error _ => none
  s.ifaces.findSome? fun c =>
    ((offIn c.2.fwbase fwSize).map fun o => (c.1, false, o)).or ((offIn c.2.ctxTab tableSize).map fun o => (c.1, true, o))

/-- What an agent's access at an address reaches of the regions and tables: by their own mapping, or by another. -/
def State.fwSeen (s : State) (va : Word64) (pa : Nat) : Option (Nat × Bool × Nat) := (s.fwAt va).or (s.fwOfPa pa)

/-- Where the agents keep the copy of a record's ready-list entry: bytes of the region that R342 gives no other use
(log entry 20). -/
def copyOff (r : Nat) : Nat :=
  if r % 4096 < 3968 then 0x84000 + 128 * (r % 4096) else 0x2000 + 128 * ((r % 4096 - 3968) % 64)

def State.copyVa (s : State) (vi r : Nat) : Word64 := (s.iface vi).fwbase + BitVec.ofNat 64 (copyOff r)

/-- Word w of the copy that the agent of a record made as it claimed the entry; its STAT is 0, as the claim leaves it. -/
def State.copyWord (s : State) (l : LRec) (w : Nat) : Word64 :=
  let p := s.pkts.get {} l.pkt
  if w = 15 then 0
  else s.entryWord l.vi 0 { relaunch := false, rlcoh := 0, ctxn := p.ctxn, q := p.q, item := l.pkt, blocks := [] } w

/-- The mailbox of a core, where the core is of the interface's partition (R342, R348). -/
def State.mailOf (s : State) (vi c : Nat) : Option Mailbox :=
  if s.ownerOf c = some vi then some (s.mail.get {} c) else none

/-- The word at an offset of the region or the table. -/
def fieldAt (tab : Bool) (off : Nat) : FwField :=
  if tab then .ctx (off / 256) (off % 256 / 8) else fwField (off / 8 * 8)

/-! ### What they hold, and a store to them -/

/-- What a word holds; none where it is a byte of memory like any other. -/
def State.fwWord (s : State) (vi : Nat) : FwField → Option Word64
  | .push l => some (BitVec.ofNat 64 (s.rlist vi l).p)
  | .ticket l => some (BitVec.ofNat 64 (s.rlist vi l).t)
  | .command => some (match (s.iface vi).restart with
    | some (n, i, h) => Config.commandWord n i h
    | none => 0)
  | .occ c => some (if s.ownerOf c = some vi then s.occOf c else occReset)
  | .ring n w => if w < 5 then some ((s.ring n).word w) else none
  | .record r w =>
    let l := s.lrecs.get {} (vi * 4096 + r)
    if l.live then some (l.word w) else if 1 ≤ w ∧ w ≤ 3 then some 0 else none
  | .copy r w =>
    let l := s.lrecs.get {} (vi * 4096 + r)
    if l.live then some (s.copyWord l w) else none
  | .entry l slot w =>
    match (s.rlist vi l).ents.find? fun e => e.1 % 16384 == slot with
    | some (i, e) => some (s.entryWord vi i e w)
    | none => if 10 ≤ w then some 0 else none
  | .batch a off =>
    let bs := (s.batches.get [] (bidOf vi a)).flatten
    if off + 8 ≤ bs.length then some (BitVec.ofNat 64 (numAt bs off 8)) else none
  | .start c k w => (s.mailOf vi c).map fun m => s.slotWord m k w
  | .mailTicket c => (s.mailOf vi c).map fun m => BitVec.ofNat 64 m.ticket
  | .consumed c => (s.mailOf vi c).map fun m => BitVec.ofNat 64 m.consumed
  | .ready c k => (s.mailOf vi c).map fun m => BitVec.ofNat 64 (m.ready k)
  | .reserved => some 0
  | .ctx n w => some ((s.ctx vi n).word w)
  | .plain => none

/-- Task records of 64 bytes. -/
def recordsOf (bs : List Byte) : List (List Byte) :=
  (List.range (bs.length / 64)).map fun i => (bs.drop (64 * i)).take 64

/-- A store of a word that holds something. What hardware alone writes, what is reserved, and what the spec gives no
layout, keeps its value: the ring status window, the command word, entries but for STAT, and consumed. -/
def State.setFwWord (s : State) (vi : Nat) (v : Word64) : FwField → State
  | .push l => s.setRlist vi l { s.rlist vi l with p := v.toNat }
  | .ticket l => s.setRlist vi l { s.rlist vi l with t := v.toNat }
  | .occ c => if s.ownerOf c = some vi then { s with occ := s.occ.set occReset c (v &&& occMask) } else s
  | .record r w =>
    { s with lrecs := s.lrecs.set {} (vi * 4096 + r) ((s.lrecs.get {} (vi * 4096 + r)).setWord w v) }
  | .entry l slot w =>
    match (s.rlist vi l).ents.find? fun e => e.1 % 16384 == slot with
    | some (i, _) => if w = 15 ∧ v = 0 then s.setRlist vi l ((s.rlist vi l).drop i) else s
    | none => s
  | .batch a off =>
    let bs := (s.batches.get [] (bidOf vi a)).flatten
    { s with batches := s.batches.set [] (bidOf vi a) (recordsOf (bs.take off ++ toBytes 8 v.toNat ++ bs.drop (off + 8))) }
  | .mailTicket c => { s with mail := s.mail.set {} c { s.mail.get {} c with ticket := v.toNat } }
  | .start c k w =>
    let m := s.mail.get {} c
    { s with mail := s.mail.set {} c { m with slots := m.slots.set 0 (16 * k + w) (v &&& startMask w) } }
  | .ready c k =>
    let m := s.mail.get {} c
    { s with mail := s.mail.set {} c { m with rdys := m.rdys.set 0 k v.toNat } }
  | .ctx n w => s.setCtx vi n ((s.ctx vi n).setWord w v)
  | .command | .ring _ _ | .copy _ _ | .consumed _ | .reserved | .plain => s

/-- Bytes at an offset, over the bytes of memory that stand there. -/
def State.fwBytes (s : State) (vi : Nat) (tab : Bool) (off : Nat) (raw : List Byte) : List Byte :=
  (List.range raw.length).map fun j => match s.fwWord vi (fieldAt tab (off + j)) with
    | some w => (toBytes 8 w.toNat).getD ((off + j) % 8) 0
    | none => raw.getD j 0

/-- The part of a store that lies in the aligned word at an offset reaches what stands there: the bytes of the store,
by their offset from it. -/
def State.putFwWord (s : State) (vi : Nat) (tab : Bool) (off : Nat) (bs : Nat → Option Byte) : State :=
  let f := fieldAt tab off
  match s.fwWord vi f with
  | none => s
  | some w =>
    let old := toBytes 8 w.toNat
    s.setFwWord vi (BitVec.ofNat 64 (ofBytes ((List.range 8).map fun j => (bs j).getD (old.getD j 0)))) f

/-- A store of at most 16 bytes at an offset reaches what stands in its words. -/
def State.putFw (s : State) (vi : Nat) (tab : Bool) (off : Nat) (bs : List Byte) : State :=
  let lo := off / 8 * 8
  (List.range ((off + bs.length - lo + 7) / 8)).foldl (fun s k =>
    s.putFwWord vi tab (lo + 8 * k) fun j => if lo + 8 * k + j < off then none else bs[lo + 8 * k + j - off]?) s

end Sys2Proof.Machine
end

