-- ==== Sys2Proof/Machine/Ops.lean ====
section
/-! DEFINITION. Taking an exception and returning from one, as shared operations: traps, page faults, handler entry,
TRET, saving (R44 to R48, R161, R365 to R368, R372), and what the execution of a word comes to. -/

namespace Sys2Proof.Machine

/-! ### Agents (R338, R339) -/

/-- Cores of a package cluster (R13). -/
def cluCores (k : Nat) : List Nat :=
  (List.range 8).map fun i => k / 8 * 64 + (2 * (k % 8 / 2) + i / 4) * 8 + 4 * (k % 2) + i % 4

/-- Cores of an interface's partition, rising (R323). -/
def State.partCores (s : State) (vi : Nat) : List Nat :=
  (List.range 512).filter fun c => (s.ifaces.get {} vi).clus.contains (cluOf c)

/-- The agent that takes over the items of an agent: the lowest-numbered partition core on another die, else another
core of the partition, else itself (R339; log entry 13). -/
def State.heir (s : State) (vi pcore : Nat) : Nat :=
  let cs := s.partCores vi
  match cs.find? fun c => dieOf c != dieOf pcore with
  | some c => c
  | none => (cs.find? (· != pcore)).getD pcore

/-- Pass on what the agent of a core owns: launch and node records, and the entries that it has claimed and not placed yet
(R339). -/
def State.passOn (s : State) (pcore : Nat) : State :=
  { s with
    lrecs := s.lrecs.map fun r =>
      (r.1, if r.2.owner == some pcore then { r.2 with owner := some (s.heir r.2.vi pcore) } else r.2)
    inHand := s.inHand.map fun c => if c.1 = pcore then (s.heir ((s.ownerOf pcore).getD 0) pcore, c.2) else c }

/-- Number under which an agent's counters stand; it is no block's. -/
def agentBid (pcore : Nat) : Nat := 2 ^ 50 + pcore

/-- The handles of an agent: software counters, on which its WAITC parks (R338; log entry 26). -/
def agentHandles : Block := { tc := (List.range 32).foldl (fun m k => m.set Tc.unbound k { bind := .soft }) [] }

/-- An agent as it starts (R338): extent 1, at packet 0 of the firmware's code. -/
def agentStart (pcore : Nat) (sr : SysRegs) (now : Nat) : Group :=
  { live := true, kind := .agent, bid := agentBid pcore, helper := Mask.all &&& ~~~ Mask.one 0, sr := sr
    tab := [(0, { valid := true, mask := Mask.all, dom := Mask.all, since := now })] }

/-- Start the agent of a core. -/
def State.putAgent (s : State) (pcore : Nat) (sr : SysRegs) : State :=
  (s.setBlock (agentBid pcore) agentHandles).setGroup (pcore * 17 + 16) (agentStart pcore sr s.clock)

/-- Reset the agent of a core after a synchronous trap (R338). -/
def State.resetAgent (s : State) (pcore : Nat) (code : BitVec 8) : State :=
  let g := s.group (pcore * 17 + 16)
  let sr : SysRegs := { ifn := g.sr.ifn, agOut := g.sr.agOut, fwbase := g.sr.fwbase }
  let s := s.putAgent pcore sr
  (s.passOn pcore).logNow 0x41 (locOf 6 pcore) (code.zeroExtend 64)

/-! ### Handler entry (R45, R161) -/

/-- Header fields that are written when a handler is entered (R371). -/
def headerFlds : List SaveFld :=
  hdrFlds ++ [statusFld, cowFld] ++ regFlds ++ keepFlds.take 1 ++ (List.range 8).flatMap entryFlds
    ++ (List.range 8).map deferFld ++ handlerFlds

/-- Word of the trap vector table that serves a code (R304). -/
def tvecIx (code : BitVec 8) : Nat :=
  if code = 0x30 then 0 else if code = 0x31 then 2 else if code = 0x32 then 3 else if code = 0x33 then 4 else 5

/-- The end of a context whose save area faults, or holds an uncorrectable error (R363, R372, R414). -/
def State.saveFail (s : State) (bid : Nat) (code : BitVec 8) : State :=
  let b := s.block bid
  s.endContext b.vi b.ctx b.pcore code

/-- Enter a handler of a group for a code and the slot of its word (R45, R161, R366): freeze the group, save s0 to s3 and
the header, and start the handler fragment over the union of domains at its trap vector entry; without an entry the
context ends. -/
def State.tryHandler (s : State) (gid : Nat) (code : BitVec 8) (info : BitVec 16) (slot : Nat) : Hw State :=
  let g := (s.group gid).freeze
  let b := s.block g.bid
  let pc := (b.kern.tvec)[tvecIx code]?.getD noPc
  if pc = noPc then .ok (s.endContext b.vi b.ctx b.pcore code)
  else
    ((s.setGroup gid g).saveFlds b.pcore b.vi b.ctx g headerFlds).bind fun s =>
      let g := s.group gid
      let t : Trap := { code := code, info := info }
      let h : Entry := { valid := true, st := .ready, pc := pc, mask := g.allDom, dom := g.allDom, since := s.clock }
      .ok (s.setGroup gid ({ g with
        sr := { g.sr with fault := t.synd slot }
        hnd := some { code := code, save := code == 0x30, restore := false } }.setEnt 8 h))

/-- Hardware has met an uncorrectable error for a block: its context ends (R414). -/
def State.blockBad (s : State) (bid line : Nat) : State :=
  let b := s.block bid
  (s.logBad line b.asid).endContext b.vi b.ctx b.pcore 0x41

/-- The state after an access to a save area of a block, or what it comes to where the access fails; w for a wait. -/
def Hw.orFail (h : Hw State) (s : State) (bid : Nat) (w : State) : State := match h with
  | .ok s => s
  | .wait _ => w
  | .fault => s.saveFail bid 0x42
  | .bad line => s.blockBad bid line

/-! ### Saving (R45, R47, R372, R421) -/

/-- Move a group off its core, its slot released (R45, step 5). -/
def State.parkGroup (s : State) (gid : Nat) : State :=
  let g := s.group gid
  if g.live then
    let b := s.block g.bid
    let s := (s.setBlock g.bid { b with slots := b.slots.set g.gix noSlot }).setGroup gid Group.empty
    { s with
      savedG := s.savedG.set Group.empty (16 * g.bid + g.gix) g
      occ := s.occ.upd occReset b.pcore fun w => w ||| (1#64 <<< (32 + slotOf gid)) }
  else s

/-- Move a saved block off its core (R45). -/
def State.parkBlock (s : State) (bid : Nat) : State :=
  let s := (s.block bid).gids.foldl State.parkGroup s
  let b := s.block bid
  (s.release b).setBlock bid { b with saved := true, stopping := false, preempted := false }

/-- A start record of a context is waiting in a mailbox (R348). -/
def State.starting (s : State) (vi n : Nat) : Bool :=
  s.mail.any fun c => c.2.recs.any fun r => r.2.vi == vi && r.2.ctxn == n

/-- The context is stopped once every block of it is saved (R362). -/
def State.stopDone (s : State) (vi n : Nat) : State :=
  let c := s.ctx vi n
  if c.cstate == .stopping && !s.starting vi n && (s.blocksOf vi n).all fun b => (s.block b).saved || (s.block b).killed then
    s.setCtx vi n { c with cstate := .stopped, busy := c.invalidating }
  else s

/-- Write what a save of a block writes for some of its groups that are saved by force, and for the block (R370,
R372). -/
def State.writeBlock (s : State) (bid : Nat) (forced : List Nat) : Hw State :=
  let b := s.block bid
  (forced.foldl (fun (o : Hw State) i => o.bind fun s =>
    let g := s.group i
    s.saveFlds b.pcore b.vi b.ctx g g.forcedFlds) (.ok s)).bind fun s =>
    s.saveParts b ([(0, s.blockHeader bid)] ++ b.zoomParts ++ (if forced.isEmpty then [] else b.imageParts))

/-- A block leaves its core once each of its groups has executed HDONE or is to be saved by force, and its engine
operations are complete (R45, R47, R263). -/
def State.saveDue (s : State) (bid : Nat) : Bool :=
  let b := s.block bid
  b.live && !b.saved && b.idle && !(s.liveIx bid).isEmpty && (s.liveGids b).all fun i => (s.group i).forced

/-- The release before a save, and its writes (R109, R372). -/
def State.saveNow (s : State) (bid : Nat) : Hw State :=
  let b := s.block bid
  let gs := s.liveGids b
  match gs.flatMap s.vaultWaits with
  | w :: ws => .wait (Wait.join (w :: ws))
  | [] => ((gs.foldl State.ackVaults (s.drainCore b.pcore)).drain (cluOf b.pcore) .pkg).writeBlock bid gs

/-- Save a block that is due; while an access of the save waits, the block stays. -/
def State.trySave (s : State) (bid : Nat) : State :=
  let b := s.block bid
  if s.saveDue bid then
    match s.saveNow bid with
    | .ok t => (t.parkBlock bid).stopDone b.vi b.ctx
    | h => h.orFail s bid s
  else s

/-- Mark a group for a forced save: ejected lanes recalled, the group frozen where no handler has frozen it (R47,
R365, R421). -/
def State.forceGroup (s : State) (gid : Nat) : State :=
  let s := (s.threadsOf gid).foldl State.holdThread s
  let g := s.group gid
  if !g.live || g.hdone then s
  else
    let g := if g.hnd.isNone then g.freeze else g
    s.setGroup gid { g with forced := true, pend := g.pend.filter fun p => p.code != 0x30 }

/-- A Loupe thread of the group is being recalled, and waits for an entry (R60, R68). -/
def State.recallWaits (s : State) (gid : Nat) : Bool :=
  (s.threadsOf gid).any fun t => ((s.group t).ent 0).wait == .entry

/-- An event is held for a group, once of its kind (R44). -/
def Group.hold (g : Group) (p : Pend) : Group :=
  if g.pend.any fun q => q.code == p.code then g else { g with pend := g.pend ++ [p] }

/-- Pre-emption reaches a group (R45): lanes recalled, then the save handler; held behind another handler (R44) and behind
a recall in progress (R68). -/
def State.preemptEntry (s : State) (gid : Nat) : Hw State :=
  let g := s.group gid
  if !g.live || g.forced || g.hdone then .ok s
  else if g.hnd.isSome || s.recallWaits gid then .ok (s.setGroup gid (g.hold ⟨0x30, 0⟩))
  else ((s.threadsOf gid).foldl State.holdThread s).tryHandler gid 0x30 0 0

/-- The same, held while the save area waits. -/
def State.preemptGroup (s : State) (gid : Nat) : State :=
  (s.preemptEntry gid).orFail s (s.group gid).bid (s.setGroup gid ((s.group gid).hold ⟨0x30, 0⟩))

/-- Pre-empt a block (R45). -/
def State.preemptBlock (s : State) (bid : Nat) : State :=
  let b := s.block bid
  if !b.live || b.saved || b.stopping then s
  else
    let s := s.setBlock bid { b with stopping := true, preempted := true }
    (s.liveGids b).foldl State.preemptGroup s

/-- Command 2 of a context (R362): pre-emption of every block. -/
def State.stopContext (s : State) (vi n : Nat) : State :=
  let c := s.ctx vi n
  let s := s.setCtx vi n { c with cstate := .stopping, busy := true, err := false }
  ((s.blocksOf vi n).foldl State.preemptBlock s).stopDone vi n

/-! ### Synchronous traps and page faults (R365 to R368) -/

/-- The party that stands at a word: group, fragment, program counter, slot. -/
structure At where
  gid : Nat
  ent : Nat
  pc : PC
  slot : Nat

/-- Set the syndrome registers (R366). -/
def SysRegs.syndrome (r : SysRegs) (t : Trap) (slot : Nat) : SysRegs :=
  { r with fault := t.synd slot, faddr := t.addr.getD r.faddr }

/-- A fault record for a group of a block (R367). -/
def State.recordFor (s : State) (gid : Nat) (pc : PC) (kind : Nat) : State :=
  let g := s.group gid
  let b := s.block g.bid
  s.record b.pcore b.vi b.ctx
    (recordBytes (s.times.get 0 (dieOf b.pcore)) g.sr.fault g.sr.faddr pc b.ctx (b.area.getD 0) b.pcore (slotOf gid)
      b.att.toNat kind)

/-- Recall the Loupe thread a word of which traps, or park it while no entry is allocatable (R60, R61). -/
def State.recallAt (s : State) (tid : Nat) : State :=
  match s.recallThread tid with
  | some s => s
  | none =>
    let t := s.group tid
    s.setGroup tid (t.setEnt 0 ((t.ent 0).parked .entry s.clock))

/-- A trap for the driver reaches a group: the syndrome is written, the group is frozen unless it runs a handler, and a
record of kind 0 is written (R161, R365, R366). -/
def State.trapAt (t : Trap) (s : State) (a : At) : State :=
  let g := s.group a.gid
  let g := { g with sr := g.sr.syndrome t a.slot }.setEnt a.ent { g.ent a.ent with pc := a.pc }
  (s.setGroup a.gid (if g.hnd.isSome then g else { g.freeze with frozen := true })).recordFor a.gid a.pc 0

/-- What a trap comes to for the context of the groups that have taken it, all at once (R161, R255, R365): it ends,
inside a handler whatever HOLD is; with HOLD 1, or for a breakpoint, it stops, and the groups are saved by force. -/
def State.trapDone (s : State) (b : Block) (code : BitVec 8) (gids : List Nat) : State :=
  let c := s.ctx b.vi b.ctx
  if c.cstate == .ending then s
  else if (c.hold || code == 0x0B) && gids.all fun i => (s.group i).hnd.isNone then
    let s := (gids.foldl State.forceGroup s).stopContext b.vi b.ctx
    (gids.map fun i => (s.group i).bid).foldl State.trySave s
  else s.endContext b.vi b.ctx b.pcore code

/-- Groups of one context take a synchronous trap together (R255, R365). -/
def State.takeTraps (s : State) (as : List At) (t : Trap) : State :=
  match as with
  | [] => s
  | a :: _ => (as.foldl (State.trapAt t) s).trapDone (s.block (s.group a.gid).bid) t.code (as.map (·.gid))

/-- Take a synchronous trap whose destination is the driver (R61, R161, R338, R365, R366). -/
def State.takeTrap (s : State) (a : At) (t : Trap) : State :=
  match (s.group a.gid).kind with
  | .loupe _ _ _ => s.recallAt a.gid
  | .agent => s.resetAgent (coreOf a.gid) t.code
  | .user => s.takeTraps [a] t

/-- A party whose record is held waits for the record too (R367). -/
def State.holdFault (s : State) (a : At) : State :=
  let g := s.group a.gid
  let b := s.block g.bid
  match (s.ctx b.vi b.ctx).lastHeld with
  | some k => if g.live then s.setGroup a.gid (g.setEnt a.ent { g.ent a.ent with wait := .record k }) else s
  | none => s

/-- Take a page fault (R368): the fragment or thread parks, the syndrome is written, a record of kind 1 goes to the
driver; an agent, which has no driver to ask and parks only on WAITC, is reset (R338; log entry 26). -/
def State.takePage (s : State) (a : At) (lane : Option Nat) (va : Word64) : State :=
  let g := s.group a.gid
  let e := g.ent a.ent
  let s := s.setGroup a.gid (g.setEnt a.ent (e.parked .fault s.clock))
  let t := tPage lane va
  match g.kind with
  | .agent => s.resetAgent (coreOf a.gid) t.code
  | .loupe p _ _ =>
    let h := s.group p
    ((s.setGroup p { h with sr := h.sr.syndrome t a.slot }).recordFor p a.pc 1).holdFault a
  | .user =>
    let h := s.group a.gid
    ((s.setGroup a.gid { h with sr := h.sr.syndrome t a.slot }).recordFor a.gid a.pc 1).holdFault a

/-! ### What the execution of a word comes to -/

/-- Program counter of the word being executed. -/
def State.wordPc (s : State) : PC := match s.chain with
  | some c => mkPc (pcPacket c.start) c.slot
  | none => s.e.pc

/-- Its packet slot (R366). -/
def State.slot (s : State) : Nat := match s.chain with
  | some c => c.slot
  | none => pcSlot s.e.pc

/-- The executing party at its word; a trap names the first word of its chain (R133). -/
def State.here (s : State) : At := ⟨s.cur.gid, s.cur.ent, s.e.pc, s.slot⟩

/-- Outcome of a meaning before it is committed. -/
inductive Eff
  /-- The effect has taken place; the fragment goes on at the next word. -/
  | ok (s : State)
  /-- The fragment goes on at a program counter. -/
  | jump (pc : PC) (s : State)
  /-- The meaning has placed the fragment itself. -/
  | done (s : State)
  | trap (t : Trap) (s : State)
  | page (lane : Option Nat) (va : Word64) (s : State)
  /-- Parked before any effect; the word, with its chain, is executed again. -/
  | park (w : Wait) (s : State)
  /-- Parked after the other words of the chain (R154, R238); this word alone is executed again, or passed. -/
  | wait (w : Wait) (s : State)
  /-- The word recalls its Loupe thread (R60). -/
  | recall (s : State)

/-- Continue at a program counter. -/
def State.advance (s : State) (pc : PC) : State := s.setE (s.e.moved pc s.clock)

/-- The executing fragment parks at its word or chain (R31). -/
def State.parkHere (s : State) (w : Wait) : State := s.setE (s.e.parked w s.clock)

/-- The executing fragment parks at this word alone, with the continuation after its chain (R154). -/
def State.waitHere (s : State) (w : Wait) : State :=
  s.setE { s.e.parked w s.clock with pc := s.wordPc, cont := some s.next }

/-- The executing fragment stands at a word that sets flags and has been issued (R164). -/
def State.flag (s : State) : State := s.setE { s.e with flagged := true }

/-- Count a word that ended without its effect. -/
def State.stop (s : State) : State := { s with stops := s.stops + 1 }

/-- Count a word that ended by a trap, with the step of R143 that it failed. -/
def State.failed (s : State) (t : Trap) : State :=
  { s.stop with fails := if t.code = tEncoding.code then s.fails + 1 else s.fails }

/-- The next state of an outcome. -/
def Eff.state : Eff → State
  | .ok s => s.advance s.next
  | .jump pc s => s.advance pc
  | .done s => s
  | .trap t s => (s.takeTrap s.here t).failed t
  | .page l va s => (s.takePage s.here l va).stop
  | .park w s => (s.parkHere w).stop
  | .wait w s => s.waitHere w
  | .recall s => (s.recallAt s.cur.gid).stop

/-- Commit a meaning's outcome. -/
def commit (e : Eff) : Host.Outcome State Fault Refusal := .next e.state

/-- A meaning that recalls a Loupe thread, and otherwise acts (R60). -/
def State.groupOnly (s : State) (f : State → Eff) : Eff := if s.g.isLoupe then .recall s else f s

/-! ### Handler exit (R46, R48, R66, R161) -/

/-- A live entry or deferral record of the handler's own (R46). -/
def Group.ownSplits (g : Group) : Bool :=
  (g.tab.any fun c => decide (c.1 < 8) && c.2.valid && c.2.st != .held) || g.defer.any fun d => d.owner == 8

/-- Apply the course written for a timed-out record at TRET (R66), as sr.ejst stood before the chain (R164). Where ACT = 1
recalls several lanes and too few entries are allocatable, the spec gives no order: they take them by thread number (log
entry 68). -/
def State.applyAct (s : State) (gid : Nat) (sr : SysRegs) : State :=
  let g := s.group gid
  let r := sr.recNo.toNat
  if sr.tout.getLsbD r then
    let s := if sr.act then
        (s.threadsOf gid).foldl (fun s t => match (s.group t).kind with
          | .loupe _ k _ => if k = r then s.recallAt t else s
          | _ => s) s
      else s.setGroup gid { g with recs := g.recs.upd Rec.free r fun c =>
          if c.valid then { c with timer := 0, stopped := false } else c }
    let g := s.group gid
    s.setGroup gid { g with sr := { g.sr with tout := g.sr.tout &&& ~~~ (1#4 <<< r) } }
  else s

/-- The held lanes of a group ask for Loupe contexts, at the end of a resume (R57, R68). -/
def Group.askHeld (g : Group) (now : Nat) : Group :=
  { g with recs := g.recs.map fun c => (c.1, if c.2.held = 0 then c.2 else { c.2 with asked := now }) }

/-- Return from a handler (R48, R161): the course of R66, s0 to s3 from the header copy, every fragment in its saved
state; timed-out records that are left are delivered again. -/
def State.returnFrom (s : State) (gid : Nat) (sr : SysRegs) : State :=
  let g := s.group gid
  let resumed := g.hnd.any fun h => h.restore
  let g := g.unfreeze s.clock
  let s := (s.setGroup gid (if resumed then g.askHeld s.clock else g)).applyAct gid sr
  let g := s.group gid
  if g.sr.tout = 0 then s else s.setGroup gid (g.hold ⟨0x33, g.sr.tout.zeroExtend 16⟩)

/-- Highest-priority pending event and the rest (R44). -/
def takePend (ps : List Pend) : Option (Pend × List Pend) :=
  match minOf (ps.map fun p => evPrio p.code) with
  | none => none
  | some k => match ps.find? fun p => evPrio p.code == k with
    | none => none
    | some p => some (p, ps.erase p)

end Sys2Proof.Machine
end

