-- ==== Sys2Proof/WellFormed.lean ====
section
/-! DEFINITION. Which instructions the instruction set admits: register alignment, operand kinds, literal counts,
orders and spans, as the encoding chapters state them (R110, R138 to R142, R88 and each instruction's own rule). -/

namespace Sys2Proof

/-- The operand type T of R138: 8, 16, 32 or 64 bits of integer or bits, or a floating-point width. -/
inductive OpT | i8 | i16 | i32 | i64 | f16 | f32 | f64
  deriving DecidableEq, Repr

/-- T is 64 bits wide: v-registers are even/odd pairs (R110). -/
def OpT.is64 : OpT → Bool
  | .i64 | .f64 => true
  | _ => false

/-- T is 16 bits wide: a literal has bits 31:16 zero (R140). -/
def OpT.is16 : OpT → Bool
  | .i16 | .f16 => true
  | _ => false

/-- T is a floating-point type (R138). -/
def OpT.isFp : OpT → Bool
  | .f16 | .f32 | .f64 => true
  | _ => false

def IType.opT : IType → OpT
  | .s8 | .n8 => .i8
  | .s16 | .n16 => .i16
  | .s32 | .n32 => .i32
  | .s64 | .n64 => .i64

def Wid.opT : Wid → OpT
  | .b32 => .i32
  | .b64 => .i64

def JType.opT : JType → OpT
  | .s32 | .n32 => .i32
  | .s64 | .n64 => .i64

def FType.opT : FType → OpT
  | .f16 | .bf16 => .f16
  | .f32 => .f32
  | .f64 => .f64

def RType.opT : RType → OpT
  | .s32 | .n32 => .i32
  | .s64 | .n64 => .i64
  | .f32 => .f32
  | .f64 => .f64

def AType.opT : AType → OpT
  | .s32 | .n32 => .i32
  | .s64 | .n64 => .i64
  | .f32 => .f32
  | .f64 => .f64

def AType32.aType : AType32 → AType
  | .s32 => .s32
  | .n32 => .n32

def AType64F.aType : AType64F → AType
  | .s64 => .s64
  | .n64 => .n64
  | .f32 => .f32
  | .f64 => .f64

def ATypeInt.aType : ATypeInt → AType
  | .s32 => .s32
  | .n32 => .n32
  | .s64 => .s64
  | .n64 => .n64

def ATypeFp.aType : ATypeFp → AType
  | .f32 => .f32
  | .f64 => .f64

def StW.opT : StW → OpT
  | .b8 | .b16 | .b32 => .i32
  | .b64 => .i64

/-- The type as which a tile or vault store reads its operand; .b128 is four registers (R219). -/
def TvW.opT : TvW → OpT
  | .b32 | .b128 => .i32
  | .b64 => .i64

/-- A source operand is legal for operand type t (R110, R138, R140). -/
def Src.ok (t : OpT) : Src → Bool
  | .v r => !t.is64 || r.val % 2 == 0
  | .s _ => true
  | .int _ => !t.isFp
  | .flt _ => t.isFp
  | .special _ => !t.isFp
  | .lit32 w => !t.is16 || w.toNat < 65536
  | .lit64 _ => t.is64

def Src.isLit : Src → Bool
  | .lit32 _ | .lit64 _ => true
  | _ => false

def SSrc.isLit : SSrc → Bool
  | .lit32 _ | .lit64 _ => true
  | _ => false

def MAddr.isLit : MAddr → Bool
  | .slit _ _ => true
  | _ => false

def CAddr.isLit : CAddr → Bool
  | .slit _ _ => true
  | _ => false

/-- A v-register destination of a result of type t (R139). -/
def dstOk (t : OpT) (d : Fin 96) : Bool := !t.is64 || d.val % 2 == 0

/-- A binary form: both operands legal, and at most one literal (R140). -/
def binOk (t : OpT) (d : Fin 96) (a b : Src) : Bool :=
  dstOk t d && a.ok t && b.ok t && !(a.isLit && b.isLit)

/-- A unary form whose source and result have one type. -/
def unOk (t : OpT) (d : Fin 96) (a : Src) : Bool := dstOk t d && a.ok t

/-- Two operands with no vector destination of the same type: the compares. -/
def cmpOk (t : OpT) (a b : Src) : Bool := a.ok t && b.ok t && !(a.isLit && b.isLit)

/-- Orders of loads (R88). -/
def Order.load : Order → Bool
  | .rlx | .acq => true
  | _ => false

/-- Orders of stores and no-return reductions (R88). -/
def Order.store : Order → Bool
  | .rlx | .rel => true
  | _ => false

/-- A load destination: an even code for 64 bits, a multiple of 4 up to 92 for 128 bits (R219). -/
def TvW.dOk (w : TvW) (d : Fin 96) : Bool :=
  match w with
  | .b32 => true
  | .b64 => d.val % 2 == 0
  | .b128 => d.val % 4 == 0

/-- A store operand of a tile or vault access (R219). -/
def TvW.sOk (w : TvW) (a : Src) : Bool :=
  match w with
  | .b128 => match a with
    | .v r => r.val % 4 == 0
    | _ => false
  | _ => a.ok w.opT

def LType.dOk : LType → Fin 96 → Bool
  | .b64, d => d.val % 2 == 0
  | _, _ => true

def VSDst.ok (t : OpT) : VSDst → Bool
  | .v r => dstOk t r
  | .s _ => true

/-- First register of an accumulator row of LDAC or STAC (R222). -/
def acRowOk (f64 : Bool) (v : Fin 96) (t : Fin 10) : Bool :=
  if f64 then v.val % 2 == 0 && v.val ≤ 64 && t.val % 2 == 0 else v.val ≤ 80

/-- Registers that a row of MRD or MWR spans (R259). -/
def FType.rowSpan : FType → Nat
  | .f16 | .bf16 => 8
  | .f32 => 16
  | .f64 => 32

/-- Tile number t is legal for an access of FP32 or FP64 tiles (R76). -/
def tileOk (f64 : Bool) (t : Fin 10) : Bool := !f64 || t.val % 2 == 0

def mrwOk (f : MrwF) : Bool :=
  f.v.val + f.f.rowSpan ≤ 96 && (f.f != .f64 || f.v.val % 2 == 0) && tileOk f.tf64 f.t

def MType.isDx : MType → Bool
  | .dx4 | .dx8 => true
  | _ => false

/-- Registers that the exponent operand spans (R241). -/
def expSpan (ta : MType) (bla : Bool) : Nat :=
  match ta, bla with
  | .dx8, false => 1
  | .dx8, true => 2
  | .dx4, false => 2
  | .dx4, true => 4
  | _, _ => 0

/-- Swizzle codes satisfy s at least log2(C) + 3 (R245). -/
def Swz.ok (z : Swz) : Bool := z.cs.val ≤ z.sb.val

/-- The fields of MMA that R246 and R247 check at step 4 of R143. -/
def mmaOk (f : MmaF) : Bool :=
  f.x.val ≤ 80 && (f.ta != .fp64 || f.x.val % 2 == 0) && tileOk f.tacc f.t
    && (!f.bla || f.ta.isDx) && (!f.blb || f.tb.isDx)
    && (if f.ta.isDx then f.e.val + expSpan f.ta f.bla ≤ 96 else f.e.val == 0)
    && (f.glob || f.scope == .core)
    && (match f.swz with | none => true | some z => z.ok)

/-- SWP operations that take the scalar sZ (R210). -/
def SwpOp.usesScalar : SwpOp → Bool
  | .scale | .axpy | .fill => true
  | _ => false

/-- Access field of a form that is a load, a store or a returning atomic, and its literals. -/
def ldOk (x : Acc) : Bool := x.order.load

def stOk (a : Src) (m : MAddr) (x : Acc) : Bool := x.order.store && !(a.isLit && m.isLit)

/-- The instruction is one that the instruction set admits. Events have no encoding and no restriction. -/
def Instr.wf : Instr → Bool
  | .brd _ _ l => l.ep || l.tix == 0
  | .vadd t d a b | .vaddSat t d a b | .vsub t d a b | .vsubSat t d a b | .vmul t d a b | .vmulh t d a b
  | .vmad t d a b | .vmin t d a b | .vmax t d a b => binOk t.opT d a b
  | .vshl w d a b | .vshr w d a b | .vsra w d a b | .vand w d a b | .vor w d a b | .vxor w d a b
  | .vbfi w d a b | .vaddc w d a b | .vsel _ w d a b => binOk w.opT d a b
  | .vmov w d a | .vnot w d a | .vpopc w d a | .vclz w d a => unOk w.opT d a
  | .vbfx t d a b => binOk t.opT d a b
  | .vabs t d a | .vneg t d a => unOk t.opT d a
  | .vcmp _ t _ a b => cmpOk t.opT a b
  | .fadd f _ d a b | .fsub f _ d a b | .fmul f _ d a b | .ffma f _ d a b => binOk f.opT d a b
  | .fdiv f d a b | .fmin f d a b | .fmax f d a b => binOk f.opT d a b
  | .fcmpEqNe _ f _ a b | .fcmpLtLe _ f _ a b | .fcmpGtGeUnOrd _ f _ a b => cmpOk f.opT a b
  | .fscale f _ d a b => dstOk f.opT d && a.ok f.opT && b.ok .i32 && !(a.isLit && b.isLit)
  | .fabs f d a | .fneg f d a | .frnd f _ d a | .frcp f d a | .frsq f d a | .fsqrt f d a | .fexp2 f d a
  | .flog2 f d a | .fsinp f d a | .fcosp f d a | .ftanh f d a => unOk f.opT d a
  | .fclass f _ a => a.ok f.opT
  | .cvt r f _ d a => dstOk r.opT d && a.ok f.opT
  | .cvtiF2i j f _ d a => dstOk j.opT d && a.ok f.opT
  | .cvtiI2f j f _ d a => dstOk f.opT d && a.ok j.opT
  | .dxenc _ _ _ _ a => a.ok .f32
  | .dxdec _ _ a => a.ok .i32
  | .qswx w d a | .qswy w d a | .qswd w d a | .qbc w _ d a => dstOk w.opT d && dstOk w.opT a
  | .lshfl _ _ b => b.ok .i32
  | .lscanAdd t _ d a | .lscanMax t _ d a => dstOk t.opT d && dstOk t.opT a
  | .lredAdd t d a | .lredMax t d a | .lredMin t d a => d.ok t.opT && dstOk t.opT a
  | .lredOr w d a => d.ok w.opT && dstOk w.opT a
  | .swp op _ _ z => op.usesScalar || z.val == 0
  | .ld t d _ x => t.dOk d && ldOk x
  | .st w a m x => a.ok w.opT && stOk a m x
  | .ldq d _ x => d.val % 4 == 0 && ldOk x
  | .stq d _ x => d.val % 4 == 0 && x.order.store
  | .ldt w d _ x | .ldv w d _ x => w.dOk d && ldOk x
  | .stt w a m x | .stv w a m x => w.sOk a && stOk a m x
  | .ldac v t _ f64 x => acRowOk f64 v t && ldOk x
  | .stac v t _ f64 x => acRowOk f64 v t && x.order.store
  | .cstore w a m x => a.ok w.opT && x.order.store && !(a.isLit && m.isLit)
  | .xload w d _ x => dstOk w.opT d && ldOk x
  | .aadd t d _ _ => dstOk t.opT d
  | .amin32 _ _ _ _ => true
  | .amin64Fp t d _ _ => dstOk t.aType.opT d
  | .amaxInt t d _ _ => dstOk t.aType.opT d
  | .amaxFp t d _ _ => dstOk t.aType.opT d
  | .aand w d _ _ | .aor w d _ _ | .axor w d _ _ | .axchg w d _ _ => dstOk w.opT d
  | .acas w d _ _ => d.val % (if w = .b32 then 2 else 4) == 0
  | .acasB128 d _ _ => d.val % 8 == 0
  | .aincwN64 d _ _ => dstOk .i64 d
  | .redAdd t a m x | .redMin t a m x => a.ok t.opT && stOk a m x
  | .redAddPbf16 a m x => a.ok .i32 && stOk a m x
  | .redMax32 t a m x => a.ok t.aType.opT && stOk a m x
  | .redMax64Fp t a m x => a.ok t.aType.opT && stOk a m x
  | .redAnd w a m x | .redOr w a m x | .redXor w a m x => a.ok w.opT && stOk a m x
  | .mma f => mmaOk f
  | .mmac f _ => mmaOk f && !f.keep
  | .mzero f64 t => tileOk f64 t
  | .mrd f | .mwr f => mrwOk f
  | .pcpy _ ring _ _ dsp _ _ => !ring || dsp == .glob
  | .pcpys _ _ z => z.ok
  | .qerr _ c => c != 0
  | _ => true

end Sys2Proof
end

