-- ==== Sys2Proof/Machine/Operands.lean ====
section
/-! DEFINITION. Reading and writing registers and every operand form (R27, R136 to R140, R172, R180, R372). -/

namespace Sys2Proof.Machine

/-! ### Reads: sources are those of before the chain (R133) -/

/-- Word w of a lane set: lanes 32 w to 32 w + 31 (R24). -/
def maskWord (m : Mask) (w : Nat) : Word64 := (m.extractLsb' (32 * w) 32).zeroExtend 64

/-- Scalar register r; s61 to s63 read the issuing fragment's mask (R27). -/
def State.readS (s : State) (r : Nat) : Word64 :=
  if r < 61 then s.rg.s.get 0 r else maskWord s.re.mask (r - 61)

/-- Lane l of v-register r. -/
def State.readV (s : State) (r l : Nat) : Word32 := (s.rg.v.get Row.zero r).at l

/-- Lane l of the pair v(r):v(r+1) (R110). -/
def State.readV64 (s : State) (r l : Nat) : Word64 := s.readV (r + 1) l ++ s.readV r l

/-- Predicate k as a lane set; p7 reads ones (R139). -/
def State.readP (s : State) (k : Nat) : Mask := if k = 7 then Mask.all else s.rg.p.get 0 k

/-- Active lanes: the issuing fragment's mask. -/
def State.active (s : State) : Mask := s.re.mask

/-- Active non-helper lanes (R25). -/
def State.actNH (s : State) : Mask := s.re.mask &&& ~~~ s.rg.helper

/-- FTZ of the party: a Loupe thread's is its group's (R59, R115). -/
def State.ftz (s : State) : Bool := (if s.g.isLoupe then s.hg else s.rg).sr.ftz

/-! ### Writes -/

/-- A restore handler is running (R48). -/
def Group.inRestore (g : Group) : Bool := match g.hnd with
  | some h => h.restore
  | none => false

/-- A write of word w of the mask: the value AND the domain (R27). -/
def Entry.writeMask (e : Entry) (w : Nat) (x : Word64) : Entry :=
  let put : Mask := (e.mask &&& ~~~ ((0xFFFFFFFF : Mask) <<< (32 * w))) ||| ((x.truncate 32).zeroExtend 96 <<< (32 * w))
  { e with mask := put &&& e.dom }

/-- Write scalar register r (R27, R154, R172). -/
def State.writeS (s : State) (r : Nat) (x : Word64) : State :=
  if r < 61 then
    s.setG { s.g with s := s.g.s.set 0 r x }
  else s.setE (s.e.writeMask (r - 61) x)

/-- Write v-register r in the lanes of m (R180). -/
def State.writeV (s : State) (m : Mask) (r : Nat) (f : Lane → Word32) : State :=
  s.setG { s.g with v := s.g.v.set Row.zero r (Row.merge m (s.g.v.get Row.zero r) f) }

/-- Write the pair v(r):v(r+1) in the lanes of m (R110). -/
def State.writeV64 (s : State) (m : Mask) (r : Nat) (f : Lane → Word64) : State :=
  (s.writeV m r fun l => (f l).truncate 32).writeV m (r + 1) fun l => (f l).extractLsb' 32 32

/-- Write predicate k in the lanes of m. -/
def State.writeP (s : State) (m : Mask) (k : Nat) (f : Nat → Bool) : State :=
  s.setG { s.g with p := s.g.p.set 0 k ((s.g.p.get 0 k &&& ~~~ m) ||| (Mask.ofFn f &&& m)) }

/-- Write n registers from r on in the lanes of m: word k of each lane's list. -/
def State.writeVs (s : State) (m : Mask) (r n : Nat) (f : Nat → Lane → Word32) : State :=
  (List.range n).foldl (fun s k => s.writeV m (r + k) (f k)) s

/-- OR flags into the party's sr.fpstat (R116). -/
def State.orFlags (s : State) (fl : Flags) : State :=
  if fl = 0 then s else s.setG { s.g with sr := { s.g.sr with fpstat := s.g.sr.fpstat ||| fl } }

/-! ### Source operands (R136, R138, R140) -/

/-- The b9 operand of an S-format word (R136). -/
def State.readB (s : State) (b : SSrc) : Word64 := match b with
  | .s r => s.readS r.val
  | .imm i => i.signExtend 64
  | .lit32 w => w.signExtend 64
  | .lit64 w => w

/-- Width in bits of an operand type. -/
def OpT.bits : OpT → Nat
  | .i8 => 8
  | .i16 | .f16 => 16
  | .i32 | .f32 => 32
  | .i64 | .f64 => 64

/-- Integers 0, 1, 2, -1 at a width (R138). -/
def intCode (w : Nat) (k : Fin 4) : Nat := match k.val with
  | 0 => 0
  | 1 => 1
  | 2 => 2
  | _ => 2 ^ w - 1

/-- 0.5, 1.0, 2.0, -1.0 in a format (R138). -/
def fltCode (f : Fmt) (k : Fin 4) : Nat :=
  let one := f.bias * 2 ^ f.fb
  match k.val with
  | 0 => one - 2 ^ f.fb
  | 1 => one
  | 2 => one + 2 ^ f.fb
  | _ => f.sgn true + one

/-- Codes 120 to 123 (R23, R138). -/
def State.special (s : State) (k : Fin 4) (l : Nat) : Nat := match k.val with
  | 0 => l
  | 1 => s.rg.gix
  | 2 => s.blk.bix.toNat
  | _ => s.blk.member

/-- A source operand in lane l, as a pattern of the type's width (R138, R140); f is the format that inline
floating-point values take. -/
def State.src (s : State) (a : Src) (t : OpT) (f : Fmt) (l : Nat) : Nat :=
  let w := OpT.bits t
  match a with
  | .v r => if w = 64 then (s.readV64 r.val l).toNat else (s.readV r.val l).toNat % 2 ^ w
  | .s r => (s.readS r.val).toNat % 2 ^ w
  | .int k => intCode w k
  | .flt k => fltCode f k
  | .special k => s.special k l % 2 ^ w
  | .lit32 x => if w = 64 then (if t.isFp then widenLit x.toNat else (x.signExtend 64).toNat) else x.toNat % 2 ^ w
  | .lit64 x => x.toNat % 2 ^ w

/-- A source operand of an integer or bit type. -/
def State.srcI (s : State) (a : Src) (t : OpT) (l : Nat) : Nat := s.src a t Fmt.f32 l

/-- A source operand of a floating-point type. -/
def State.srcF (s : State) (a : Src) (f : FType) (l : Nat) : Nat := s.src a f.opT (FType.fmt f) l

/-! ### Addresses (R137, R224) -/

/-- Address of lane l of an M-format access (R137). -/
def State.addr (s : State) (m : MAddr) (l : Nat) : Word64 := match m with
  | .s r => s.readS r.val
  | .sv b o => s.readS b.val + (s.readV o.val l).signExtend 64
  | .pair k => s.readV64 (2 * k.val) l
  | .slit r w => s.readS r.val + w.signExtend 64

/-- Base of CSTORE and XLOAD (R224). -/
def State.caddr (s : State) (m : CAddr) : Word64 := match m with
  | .s r => s.readS r.val
  | .slit r w => s.readS r.val + w.signExtend 64

/-- Lowest lane of a set that satisfies f. -/
def firstLane (m : Mask) (f : Nat → Bool) : Option Nat := ((Mask.list m).find? fun l => f l.val).map Fin.val

end Sys2Proof.Machine
end

