-- ==== Sys2Proof/Machine/Vector.lean ====
section
/-! DEFINITION. Lane-wise integer and bit instructions (R110, R111, R180 to R188). -/

namespace Sys2Proof.Machine

/-- Write a w-bit pattern per active lane: a pair for 64 bits, else extended to 32 bits by its type (R110, R180). -/
def State.writeLanes (s : State) (signed : Bool) (w : Nat) (d : Fin 96) (f : Nat → Nat) : State :=
  if w = 64 then s.writeV64 s.active d.val fun l => BitVec.ofNat 64 (f l.val)
  else s.writeV s.active d.val fun l => BitVec.ofNat 32 (extend signed w (f l.val))

/-- An integer form of a type. -/
def State.vecI (s : State) (t : IType) (d : Fin 96) (f : Nat → Nat) : Host.Outcome State Fault Refusal :=
  commit (.ok (s.writeLanes (IType.signed t) (IType.width t) d f))

/-- A bit form of a width. -/
def State.vecB (s : State) (w : Wid) (d : Fin 96) (f : Nat → Nat) : Host.Outcome State Fault Refusal :=
  commit (.ok (s.writeLanes false (Wid.width w) d f))

/-- An exact operation on two operands, wrapped to the type's width. -/
def State.vecWrap (s : State) (t : IType) (d : Fin 96) (a b : Src) (f : Int → Int → Int) :
    Host.Outcome State Fault Refusal :=
  let v := fun (x : Src) (l : Nat) => ival (IType.signed t) (IType.width t) (s.srcI x t.opT l)
  s.vecI t d fun l => wrap (IType.width t) (f (v a l) (v b l))

/-- The same, saturated at the type's bounds (R111). -/
def State.vecSat (s : State) (t : IType) (d : Fin 96) (a b : Src) (f : Int → Int → Int) :
    Host.Outcome State Fault Refusal :=
  let v := fun (x : Src) (l : Nat) => ival (IType.signed t) (IType.width t) (s.srcI x t.opT l)
  s.vecI t d fun l => saturate (IType.signed t) (IType.width t) (f (v a l) (v b l))

/-- A function of two w-bit patterns. -/
def State.vecB2 (s : State) (w : Wid) (d : Fin 96) (a b : Src) (f : Nat → Nat → Nat) :
    Host.Outcome State Fault Refusal :=
  s.vecB w d fun l => f (s.srcI a w.opT l) (s.srcI b w.opT l)

/-- The old destination as a w-bit pattern. -/
def State.oldD (s : State) (w : Nat) (d : Fin 96) (l : Nat) : Nat :=
  if w = 64 then (s.readV64 d.val l).toNat else (s.readV d.val l).toNat % 2 ^ w

def execVadd (t : IType) (d : Fin 96) (a b : Src) (s : State) : Host.Outcome State Fault Refusal :=
  s.vecWrap t d a b (· + ·)

def execVaddSat (t : IType) (d : Fin 96) (a b : Src) (s : State) : Host.Outcome State Fault Refusal :=
  s.vecSat t d a b (· + ·)

def execVsub (t : IType) (d : Fin 96) (a b : Src) (s : State) : Host.Outcome State Fault Refusal :=
  s.vecWrap t d a b (· - ·)

def execVsubSat (t : IType) (d : Fin 96) (a b : Src) (s : State) : Host.Outcome State Fault Refusal :=
  s.vecSat t d a b (· - ·)

def execVmul (t : IType) (d : Fin 96) (a b : Src) (s : State) : Host.Outcome State Fault Refusal :=
  s.vecWrap t d a b (· * ·)

/-- Bits 2w - 1 : w of the exact product (R182). -/
def execVmulh (t : IType) (d : Fin 96) (a b : Src) (s : State) : Host.Outcome State Fault Refusal :=
  s.vecWrap t d a b fun x y => x * y / 2 ^ IType.width t

/-- a * b + d (R182). -/
def execVmad (t : IType) (d : Fin 96) (a b : Src) (s : State) : Host.Outcome State Fault Refusal :=
  s.vecI t d fun l =>
    (s.srcI a t.opT l * s.srcI b t.opT l + s.oldD (IType.width t) d l) % 2 ^ IType.width t

def execVmin (t : IType) (d : Fin 96) (a b : Src) (s : State) : Host.Outcome State Fault Refusal :=
  s.vecI t d fun l => iminmax false (IType.signed t) (IType.width t) (s.srcI a t.opT l) (s.srcI b t.opT l)

def execVmax (t : IType) (d : Fin 96) (a b : Src) (s : State) : Host.Outcome State Fault Refusal :=
  s.vecI t d fun l => iminmax true (IType.signed t) (IType.width t) (s.srcI a t.opT l) (s.srcI b t.opT l)

def execVshl (w : Wid) (d : Fin 96) (a b : Src) (s : State) : Host.Outcome State Fault Refusal :=
  s.vecB2 w d a b (shl (Wid.width w))

def execVshr (w : Wid) (d : Fin 96) (a b : Src) (s : State) : Host.Outcome State Fault Refusal :=
  s.vecB2 w d a b (shr (Wid.width w))

def execVsra (w : Wid) (d : Fin 96) (a b : Src) (s : State) : Host.Outcome State Fault Refusal :=
  s.vecB2 w d a b (sra (Wid.width w))

def execVmov (w : Wid) (d : Fin 96) (a : Src) (s : State) : Host.Outcome State Fault Refusal :=
  s.vecB w d fun l => s.srcI a w.opT l

def execVand (w : Wid) (d : Fin 96) (a b : Src) (s : State) : Host.Outcome State Fault Refusal :=
  s.vecB2 w d a b Nat.land

def execVor (w : Wid) (d : Fin 96) (a b : Src) (s : State) : Host.Outcome State Fault Refusal :=
  s.vecB2 w d a b Nat.lor

def execVxor (w : Wid) (d : Fin 96) (a b : Src) (s : State) : Host.Outcome State Fault Refusal :=
  s.vecB2 w d a b Nat.xor

def execVnot (w : Wid) (d : Fin 96) (a : Src) (s : State) : Host.Outcome State Fault Refusal :=
  s.vecB w d fun l => 2 ^ Wid.width w - 1 - s.srcI a w.opT l

/-- Field extract by lane (R173, R185). -/
def execVbfx (t : JType) (d : Fin 96) (a b : Src) (s : State) : Host.Outcome State Fault Refusal :=
  commit (.ok (s.writeLanes (JType.signed t) (JType.width t) d fun l =>
    bfx (JType.signed t) (JType.width t) (s.srcI a t.opT l) (s.srcI b t.opT l)))

/-- Field insert by lane (R173, R185). -/
def execVbfi (w : Wid) (d : Fin 96) (a b : Src) (s : State) : Host.Outcome State Fault Refusal :=
  s.vecB w d fun l =>
    bfi (Wid.width w) (s.oldD (Wid.width w) d l) (s.srcI a w.opT l) (s.srcI b w.opT l)

/-- Add with the carry of p6 (R186). -/
def execVaddc (w : Wid) (d : Fin 96) (a b : Src) (s : State) : Host.Outcome State Fault Refusal :=
  let sum := fun (l : Nat) => s.srcI a w.opT l + s.srcI b w.opT l + ofBool (Mask.has (s.readP 6) l)
  let m := s.active
  commit (.ok ((s.writeLanes false (Wid.width w) d fun l => sum l % 2 ^ Wid.width w).writeP m 6 fun l =>
    decide (2 ^ Wid.width w ≤ sum l)))

def execVsel (p : Fin 8) (w : Wid) (d : Fin 96) (a b : Src) (s : State) : Host.Outcome State Fault Refusal :=
  s.vecB w d fun l => if Mask.has (s.readP p.val) l then s.srcI a w.opT l else s.srcI b w.opT l

/-- Absolute value; of an unsigned type, the operand (R184). -/
def execVabs (t : IType) (d : Fin 96) (a : Src) (s : State) : Host.Outcome State Fault Refusal :=
  s.vecI t d fun l => wrap (IType.width t) ((ival (IType.signed t) (IType.width t) (s.srcI a t.opT l)).natAbs : Int)

def execVneg (t : IType) (d : Fin 96) (a : Src) (s : State) : Host.Outcome State Fault Refusal :=
  s.vecI t d fun l => wrap (IType.width t) (-(s.srcI a t.opT l : Int))

def execVcmp (c : Cond) (t : IType) (p : Fin 7) (a b : Src) (s : State) : Host.Outcome State Fault Refusal :=
  let v := fun (x : Src) (l : Nat) => ival (IType.signed t) (IType.width t) (s.srcI x t.opT l)
  commit (.ok (s.writeP s.active p.val fun l => icmp c (v a l) (v b l)))

/-- The count goes to the even register of a 64-bit form, zero to the odd one (R183). -/
def execVpopc (w : Wid) (d : Fin 96) (a : Src) (s : State) : Host.Outcome State Fault Refusal :=
  s.vecB w d fun l => popcount (Wid.width w) (s.srcI a w.opT l)

def execVclz (w : Wid) (d : Fin 96) (a : Src) (s : State) : Host.Outcome State Fault Refusal :=
  s.vecB w d fun l => clz (Wid.width w) (s.srcI a w.opT l)

end Sys2Proof.Machine
end

