-- ==== Sys2Proof/Machine/VFloat.lean ====
section
/-! DEFINITION. Lane-wise floating-point instructions, conversions and dual-exponent blocks (R112 to R123, R180, R189 to
R199). -/

namespace Sys2Proof.Machine

/-- The flags that the active non-helper lanes raise (R116). -/
def State.laneFlags (s : State) (f : Nat → Flags) : Flags :=
  (Mask.list s.actNH).foldl (fun a l => a ||| f l.val) 0

/-- A form whose lanes give a w-bit pattern and flags. -/
def State.vecF (s : State) (w : Nat) (d : Fin 96) (f : Nat → Nat × Flags) : Host.Outcome State Fault Refusal :=
  let fl := s.laneFlags fun l => (f l).2
  commit (.ok ((s.writeLanes false w d fun l => (f l).1).orFlags fl))

/-- A form of two operands of a format. -/
def State.vecF2 (s : State) (f : FType) (d : Fin 96) (a b : Src) (g : Nat → Nat → Nat × Flags) :
    Host.Outcome State Fault Refusal :=
  s.vecF (FType.fmt f).width d fun l => g (s.srcF a f l) (s.srcF b f l)

/-- A form of one operand of a format. -/
def State.vecF1 (s : State) (f : FType) (d : Fin 96) (a : Src) (g : Nat → Nat × Flags) :
    Host.Outcome State Fault Refusal :=
  s.vecF (FType.fmt f).width d fun l => g (s.srcF a f l)

def execFadd (f : FType) (n : Rnd) (d : Fin 96) (a b : Src) (s : State) : Host.Outcome State Fault Refusal :=
  s.vecF2 f d a b ((FType.fmt f).add n s.ftz)

def execFsub (f : FType) (n : Rnd) (d : Fin 96) (a b : Src) (s : State) : Host.Outcome State Fault Refusal :=
  s.vecF2 f d a b ((FType.fmt f).sub n s.ftz)

def execFmul (f : FType) (n : Rnd) (d : Fin 96) (a b : Src) (s : State) : Host.Outcome State Fault Refusal :=
  s.vecF2 f d a b ((FType.fmt f).mul n s.ftz)

/-- a * b + d, rounded once (R189). -/
def execFfma (f : FType) (n : Rnd) (d : Fin 96) (a b : Src) (s : State) : Host.Outcome State Fault Refusal :=
  let w := (FType.fmt f).width
  s.vecF w d fun l => (FType.fmt f).fma n s.ftz (s.srcF a f l) (s.srcF b f l) (s.oldD w d l)

def execFdiv (f : FType) (d : Fin 96) (a b : Src) (s : State) : Host.Outcome State Fault Refusal :=
  s.vecF2 f d a b ((FType.fmt f).div s.ftz)

/-- FCMP: a predicate by lane, with NV (R190). -/
def State.fcmp (s : State) (r : FRel) (f : FType) (p : Fin 7) (a b : Src) : Host.Outcome State Fault Refusal :=
  let v := fun (l : Nat) => (FType.fmt f).cmp r (s.srcF a f l) (s.srcF b f l)
  let fl := s.laneFlags fun l => (v l).2
  commit (.ok ((s.writeP s.active p.val fun l => (v l).1).orFlags fl))

def execFcmpEqNe (c : FCondE) (f : FType) (p : Fin 7) (a b : Src) (s : State) : Host.Outcome State Fault Refusal :=
  s.fcmp (match c with | .eq => .eq | .ne => .ne) f p a b

def execFcmpLtLe (c : FCondL) (f : FType) (p : Fin 7) (a b : Src) (s : State) : Host.Outcome State Fault Refusal :=
  s.fcmp (match c with | .lt => .lt | .le => .le) f p a b

def execFcmpGtGeUnOrd (c : FCondG) (f : FType) (p : Fin 7) (a b : Src) (s : State) :
    Host.Outcome State Fault Refusal :=
  s.fcmp (match c with | .gt => .gt | .ge => .ge | .un => .un | .ord => .ord) f p a b

def execFmin (f : FType) (d : Fin 96) (a b : Src) (s : State) : Host.Outcome State Fault Refusal :=
  s.vecF2 f d a b ((FType.fmt f).minmax false)

def execFmax (f : FType) (d : Fin 96) (a b : Src) (s : State) : Host.Outcome State Fault Refusal :=
  s.vecF2 f d a b ((FType.fmt f).minmax true)

/-- a * 2^b, b a signed 32-bit value (R192). -/
def execFscale (f : FType) (n : Rnd) (d : Fin 96) (a b : Src) (s : State) : Host.Outcome State Fault Refusal :=
  s.vecF (FType.fmt f).width d fun l => (FType.fmt f).scale n s.ftz (s.srcF a f l) (sval 32 (s.srcI b .i32 l))

def execFabs (f : FType) (d : Fin 96) (a : Src) (s : State) : Host.Outcome State Fault Refusal :=
  s.vecF1 f d a ((FType.fmt f).signOp false)

def execFneg (f : FType) (d : Fin 96) (a : Src) (s : State) : Host.Outcome State Fault Refusal :=
  s.vecF1 f d a ((FType.fmt f).signOp true)

/-- The class mask, never a pair (R194). -/
def execFclass (f : FType) (d : Fin 96) (a : Src) (s : State) : Host.Outcome State Fault Refusal :=
  s.vecF 32 d fun l => ((FType.fmt f).classOf (s.srcF a f l), 0)

def execFrnd (f : FType) (n : Rnd) (d : Fin 96) (a : Src) (s : State) : Host.Outcome State Fault Refusal :=
  s.vecF1 f d a ((FType.fmt f).rnd n s.ftz)

def execFrcp (f : FType) (d : Fin 96) (a : Src) (s : State) : Host.Outcome State Fault Refusal :=
  s.vecF1 f d a ((FType.fmt f).rcp s.ftz)

def execFrsq (f : FType) (d : Fin 96) (a : Src) (s : State) : Host.Outcome State Fault Refusal :=
  s.vecF1 f d a ((FType.fmt f).rsqrt s.ftz)

def execFsqrt (f : FType) (d : Fin 96) (a : Src) (s : State) : Host.Outcome State Fault Refusal :=
  s.vecF1 f d a ((FType.fmt f).sqrt s.ftz)

/-- A special function without a .f64 form: the unimplemented-combination trap there, with the type code (R118). -/
def State.special1 (s : State) (f : FType) (d : Fin 96) (a : Src) (g : Nat → Nat × Flags) :
    Host.Outcome State Fault Refusal :=
  if f = .f64 then commit (.trap (tUnimpl 3) s) else s.vecF1 f d a g

def execFexp2 (f : FType) (d : Fin 96) (a : Src) (s : State) : Host.Outcome State Fault Refusal :=
  s.special1 f d a ((FType.fmt f).exp2 s.ftz)

def execFlog2 (f : FType) (d : Fin 96) (a : Src) (s : State) : Host.Outcome State Fault Refusal :=
  s.special1 f d a ((FType.fmt f).log2 s.ftz)

def execFsinp (f : FType) (d : Fin 96) (a : Src) (s : State) : Host.Outcome State Fault Refusal :=
  s.special1 f d a ((FType.fmt f).sinp s.ftz false)

def execFcosp (f : FType) (d : Fin 96) (a : Src) (s : State) : Host.Outcome State Fault Refusal :=
  s.special1 f d a ((FType.fmt f).sinp s.ftz true)

def execFtanh (f : FType) (d : Fin 96) (a : Src) (s : State) : Host.Outcome State Fault Refusal :=
  s.special1 f d a ((FType.fmt f).tanh s.ftz)

/-! ### Conversions (R117, R195, R196) -/

def execCvt (r f : FType) (n : Rnd) (d : Fin 96) (a : Src) (s : State) : Host.Outcome State Fault Refusal :=
  s.vecF (FType.fmt r).width d fun l => (FType.fmt r).cvt (FType.fmt f) n s.ftz (s.srcF a f l)

def execCvtiF2i (j : JType) (f : FType) (n : Rnd) (d : Fin 96) (a : Src) (s : State) :
    Host.Outcome State Fault Refusal :=
  s.vecF (JType.width j) d fun l =>
    (FType.fmt f).toInt (JType.signed j) (JType.width j) n s.ftz (s.srcF a f l)

def execCvtiI2f (j : JType) (f : FType) (n : Rnd) (d : Fin 96) (a : Src) (s : State) :
    Host.Outcome State Fault Refusal :=
  s.vecF (FType.fmt f).width d fun l =>
    (FType.fmt f).ofInt n (ival (JType.signed j) (JType.width j) (s.srcI a j.opT l))

/-! ### Dual-exponent blocks (R120 to R123, R197 to R199) -/

/-- Lane form of an element (R197). -/
def laneForm (e0 e1 el : Nat) : Nat := e1 * 65536 + e0 * 256 + el

/-- Results of one block of b lanes from lane l0 on, as (lane, value, flags) (R198). -/
def State.dxBlock (s : State) (scl dx4 : Bool) (d : Fin 96) (a : Src) (l0 b : Nat) : List (Nat × Nat × Flags) :=
  let ls := (List.range b).map (l0 + ·)
  let val := fun (l : Nat) =>
    if Mask.has s.active l then Fmt.f32.val (Fmt.f32.flush s.ftz (s.srcF a .f32 l)) else FV.fin false 0 0
  let old := (s.readV d.val l0).toNat
  let sup := if scl then some (old / 256 % 256, old / 65536 % 256) else none
  let (e0, e1) := dxScales dx4 sup (ls.map val)
  (ls.filter (Mask.has s.active)).map fun l =>
    let (el, fl) := dxElement dx4 e0 e1 (val l)
    (l, laneForm e0 e1 el, fl)

def execDxenc (scl b16 dx4 : Bool) (d : Fin 96) (a : Src) (s : State) : Host.Outcome State Fault Refusal :=
  commit (s.groupOnly fun s =>
    if !s.feature (if dx4 then 16 else 17) then .trap (tUnimpl 0) s
    else
      let b := if b16 then 16 else 32
      let rs := (List.range (96 / b)).flatMap fun k => s.dxBlock scl dx4 d a (b * k) b
      let look := fun (l : Nat) => (rs.find? fun r => r.1 == l).map Prod.snd
      let fl := s.laneFlags fun l => ((look l).map Prod.snd).getD 0
      .ok ((s.writeV s.active d.val fun l => BitVec.ofNat 32 (((look l.val).map Prod.fst).getD 0)).orFlags fl))

def execDxdec (dx4 : Bool) (d : Fin 96) (a : Src) (s : State) : Host.Outcome State Fault Refusal :=
  if !s.feature (if dx4 then 16 else 17) then commit (.trap (tUnimpl 0) s)
  else s.vecF 32 d fun l =>
    let x := s.srcI a .i32 l
    (dxDecode dx4 (x % (if dx4 then 16 else 256)) (x / 256 % 256) (x / 65536 % 256), 0)

end Sys2Proof.Machine
end

