-- ==== Sys2Proof/Machine/Lane.lean ====
section
/-! DEFINITION. Instructions that move values between the lanes of a group (R200 to R205). -/

namespace Sys2Proof.Machine

/-! ### Quads, shuffle and broadcast (R201, R202) -/

/-- Each active lane takes the value of another lane of the group. -/
def State.permute (s : State) (w : Wid) (d a : Fin 96) (from' : Nat → Nat) : Host.Outcome State Fault Refusal :=
  commit (s.groupOnly fun s => .ok (s.writeLanes false (Wid.width w) d fun l => s.oldD (Wid.width w) a (from' l)))

def execQswx (w : Wid) (d a : Fin 96) (s : State) : Host.Outcome State Fault Refusal :=
  s.permute w d a fun l => Nat.xor l 1

def execQswy (w : Wid) (d a : Fin 96) (s : State) : Host.Outcome State Fault Refusal :=
  s.permute w d a fun l => Nat.xor l 2

def execQswd (w : Wid) (d a : Fin 96) (s : State) : Host.Outcome State Fault Refusal :=
  s.permute w d a fun l => Nat.xor l 3

def execQbc (w : Wid) (k : Fin 4) (d a : Fin 96) (s : State) : Host.Outcome State Fault Refusal :=
  s.permute w d a fun l => 4 * (l / 4) + k.val

/-- A lane's value by index; 0 past lane 95 (R202). -/
def State.laneAt (s : State) (a : Fin 96) (i : Nat) : Nat := if i < 96 then (s.readV a.val i).toNat else 0

def execLshfl (d a : Fin 96) (b : Src) (s : State) : Host.Outcome State Fault Refusal :=
  commit (s.groupOnly fun s => .ok (s.writeLanes false 32 d fun l => s.laneAt a (s.srcI b .i32 l)))

/-- Write a uniform result to the active lanes or to a scalar, extended by its type (R202, R203). -/
def State.writeUniform (s : State) (signed : Bool) (w : Nat) (d : VSDst) (x : Nat) : State := match d with
  | .v r => s.writeLanes false w r fun _ => x
  | .s r => s.writeS r.val (BitVec.ofNat 64 (if signed then wrap 64 (sval w x) else x))

/-- The index operand of LBC. -/
def State.lbcIx (s : State) (b : LbcSrc) : Nat := match b with
  | .s r => (s.readS r.val).toNat % 2 ^ 32
  | .int k => intCode 32 k
  | .lit32 w => w.toNat

def execLbc (d : VSDst) (a : Fin 96) (b : LbcSrc) (s : State) : Host.Outcome State Fault Refusal :=
  commit (s.groupOnly fun s => .ok (s.writeUniform false 32 d (s.laneAt a (s.lbcIx b))))

/-! ### Scans and reductions (R203) -/

/-- Operations of a fold. -/
inductive FoldOp | add | max | min
  deriving DecidableEq, Repr

def RType.width (t : RType) : Nat := OpT.bits (Sys2Proof.RType.opT t)

def RType.signed : RType → Bool
  | .s32 | .s64 => true
  | _ => false

/-- The format of a floating-point type. -/
def RType.fmt : RType → Option Fmt
  | .f32 => some .f32
  | .f64 => some .f64
  | _ => none

/-- One combination of two patterns of a type (R191, R203); FTZ does not act. -/
def foldStep (op : FoldOp) (t : RType) (rnd : Rnd) (a b : Nat) : Nat × Flags :=
  match RType.fmt t, op with
  | some f, .add => f.add rnd false a b
  | some f, .max => f.minmax true a b
  | some f, .min => f.minmax false a b
  | none, .add => ((a + b) % 2 ^ RType.width t, 0)
  | none, .max => (iminmax true (RType.signed t) (RType.width t) a b, 0)
  | none, .min => (iminmax false (RType.signed t) (RType.width t) a b, 0)

/-- The fold of an empty list (R203). -/
def foldUnit (op : FoldOp) (t : RType) : Nat :=
  match RType.fmt t, op with
  | _, .add => 0
  | some f, .max => f.inf true
  | some f, .min => f.inf false
  | none, .max => wrap (RType.width t) (intMin (RType.signed t) (RType.width t))
  | none, .min => wrap (RType.width t) (intMax (RType.signed t) (RType.width t))

/-- The fold of a list, with the flags of its steps. A list of one element is that element, bit for bit, as R203 has it
for the first contributor; R114's canonical NaN is the result of an operation, and none is executed (log entry 66). -/
def foldAll (op : FoldOp) (t : RType) (rnd : Rnd) : List Nat → Nat × Flags
  | [] => (foldUnit op t, 0)
  | a :: r => r.foldl (fun p x => let q := foldStep op t rnd p.1 x; (q.1, p.2 ||| q.2)) (a, 0)

/-- The contributors in lane order with their values (R203). -/
def State.contrib (s : State) (w : Nat) (a : Fin 96) : List (Nat × Nat) :=
  (Mask.list s.actNH).map fun l => (l.val, s.oldD w a l.val)

/-- LSCAN (R203). -/
def State.lscan (s : State) (op : FoldOp) (t : RType) (exc : Bool) (d a : Fin 96) : Host.Outcome State Fault Refusal :=
  commit (s.groupOnly fun s =>
    let cs := s.contrib (RType.width t) a
    let v := fun (l : Nat) =>
      foldAll op t .rne ((cs.filter fun c => if exc then decide (c.1 < l) else decide (c.1 ≤ l)).map Prod.snd)
    let fl := s.laneFlags fun l => (v l).2
    .ok ((s.writeLanes false (RType.width t) d fun l => (v l).1).orFlags fl))

def execLscanAdd (t : RType) (exc : Bool) (d a : Fin 96) (s : State) : Host.Outcome State Fault Refusal :=
  s.lscan .add t exc d a

def execLscanMax (t : RType) (exc : Bool) (d a : Fin 96) (s : State) : Host.Outcome State Fault Refusal :=
  s.lscan .max t exc d a

/-- LRED (R203). -/
def State.lred (s : State) (op : FoldOp) (t : RType) (d : VSDst) (a : Fin 96) : Host.Outcome State Fault Refusal :=
  commit (s.groupOnly fun s =>
    let r := foldAll op t .rne ((s.contrib (RType.width t) a).map Prod.snd)
    .ok ((s.writeUniform (RType.signed t) (RType.width t) d r.1).orFlags r.2))

def execLredAdd (t : RType) (d : VSDst) (a : Fin 96) (s : State) : Host.Outcome State Fault Refusal :=
  s.lred .add t d a

def execLredMax (t : RType) (d : VSDst) (a : Fin 96) (s : State) : Host.Outcome State Fault Refusal :=
  s.lred .max t d a

def execLredMin (t : RType) (d : VSDst) (a : Fin 96) (s : State) : Host.Outcome State Fault Refusal :=
  s.lred .min t d a

def execLredOr (w : Wid) (d : VSDst) (a : Fin 96) (s : State) : Host.Outcome State Fault Refusal :=
  commit (s.groupOnly fun s =>
    .ok (s.writeUniform false (Wid.width w) d ((s.contrib (Wid.width w) a).foldl (fun x c => Nat.lor x c.2) 0)))

/-- BALLOT: three scalars (R204). -/
def execBallot (d : Fin 14) (p : Fin 8) (s : State) : Host.Outcome State Fault Refusal :=
  commit (s.groupOnly fun s =>
    let m := s.actNH &&& s.readP p.val
    .ok ((List.range 3).foldl (fun t w => t.writeS (d.val + w) (maskWord m w)) s))

/-! ### SYNCM (R40, R205) -/

/-- A participant's membership mask, helper lanes ignored. -/
def State.member (s : State) (a : Fin 94) (l : Nat) : Mask :=
  (s.readV (a.val + 2) l ++ (s.readV (a.val + 1) l ++ s.readV a.val l : Word64) : Mask) &&& ~~~ s.rg.helper

/-- The fragments of a waiting set resume. -/
def State.releaseSync (s : State) (w : SyncSet) : State :=
  s.setG (w.ents.foldl (fun g i => g.setEnt i ((g.ent i).passed s.clock)) s.g)

def State.syncm (s : State) (a : Fin 94) : Eff :=
  let p := s.actNH
  let ms := (Mask.list p).map fun l => s.member a l.val
  match ms with
  | [] => .ok s
  | m :: rest =>
    let g := s.g
    if rest.any (· != m) || p &&& ~~~ m != 0 || m &&& g.exited != 0
        || g.syncm.any fun w => w.m != m && w.m &&& m != 0 then .trap tMask s
    else
      let s := s.relScope .core
      let g := s.g
      let old := (g.syncm.find? fun w => w.m == m).getD ⟨m, 0, []⟩
      let w : SyncSet := { old with arrived := old.arrived ||| p }
      let others := g.syncm.filter fun w => w.m != m
      if w.arrived = m then .ok ((s.setG { g with syncm := others }).releaseSync w)
      else .wait .syncm (s.setG { g with syncm := others ++ [{ w with ents := w.ents ++ [s.cur.ent] }] })

def execSyncm (a : Fin 94) (s : State) : Host.Outcome State Fault Refusal :=
  commit (s.groupOnly fun s => s.syncm a)

end Sys2Proof.Machine
end

