-- ==== Sys2Proof/Machine/Spaces.lean ====
section
/-! DEFINITION. Where an address lies in the spaces of R70, the checks of R216, and one access to a located word. -/

namespace Sys2Proof.Machine

/-- A located address: physical address with the ASID whose key applies, a block's tile memory, a vault. -/
inductive Loc
  | glob (pa asid : Nat)
  /-- A word of an interface's firmware region, or of its context table, at an offset (R342, R360). -/
  | fw (vi : Nat) (tab : Bool) (off pa asid : Nat)
  | tile (bid off : Nat)
  | vault (v off : Nat)
  deriving DecidableEq, Repr

/-- Result of checking one address (R216). -/
inductive LRes
  | ok (l : Loc)
  | mis
  | prot (reason : Nat)
  | page
  | wait (w : Wait)
  deriving DecidableEq, Repr

/-- The ASID whose vaults the executing party may reach; an agent has none (R77). -/
def State.vaultAsid (s : State) : Option Nat := if s.g.isAgent then none else some s.blk.asid

/-- A vault that the executing party may reach (R77, R169). -/
def State.ownsVault (s : State) (v : Nat) : Bool :=
  let o := s.vown.get Vown.reset v
  o.valid && s.vaultAsid == some o.asid.toNat && s.feature 21

/-- Check and locate one address of a space (R70, R214 to R216): alignment first (log entry 66). -/
def State.locate (s : State) (sp : Space) (va : Word64) (n : Nat) (need : Need) : State × LRes :=
  if !aligned va n then (s, .mis)
  else match sp with
  | .glob =>
    match s.translate va need with
    | (s, .ok pa) => (s, .ok (match (if s.g.isAgent then s.fwSeen va pa else none) with
      | some (vi, tab, off) => .fw vi tab off pa (s.asidFor va)
      | none => .glob pa (s.asidFor va)))
    | (s, .page) => (s, .page)
    | (s, .prot r) => (s, .prot r)
    | (s, .wait w) => (s, .wait w)
  | .tile =>
    if va.toNat < 2 ^ 24 then
      match s.tileAt s.g.bid va.toNat n with
      | some (b, o) => (s, .ok (.tile b o))
      | none => (s, .prot 0)
    else (s, .prot 0)
  | .vault =>
    if va.toNat < 2 ^ 31 then
      let v := va.toNat / 2 ^ 22
      if s.ownsVault v then
        if (s.vown.get Vown.reset v).scrub then (s, .wait (.scrub v))
        else if !s.rdymap.getLsbD (8 + v / 64) then (s, .wait (.notReady (.vault (Fin.ofNat 8 (v / 64)))))
        else (s, .ok (.vault v (va.toNat % 2 ^ 22)))
      else (s, .prot 4)
    else (s, .prot 0)

/-- The address, and the outcome of its checks, of every lane of a list. -/
def locateAll (sp : Space) (addr : Nat → Word64) (n : Nat) (need : Need) :
    List Nat → State → State × List (Nat × Word64 × LRes)
  | [], s => (s, [])
  | l :: t, s =>
    let (s, r) := s.locate sp (addr l) n need
    let (s, rs) := locateAll sp addr n need t s
    (s, (l, addr l, r) :: rs)

/-- HBM lines with an uncorrectable error that located accesses meet (R414). -/
def State.badLine (s : State) (rs : List (Nat × Word64 × LRes)) : Option Nat :=
  (rs.filterMap fun r => match r.2.2 with
    | .ok (.glob pa _) | .ok (.fw _ _ _ pa _) => if s.bad.contains (pa / 128) then some (pa / 128) else none
    | _ => none).head?

/-- An access of the executing party meets an uncorrectable error (R414): logged, and its context ends. -/
def State.uncorrectable (s : State) (line : Nat) : State :=
  let b := s.blk
  let asid := if s.g.isAgent then 0x1FF else b.asid
  let s := s.logBad line asid
  if s.g.isAgent then s else s.endContext b.vi b.ctx s.core 0x41

/-- What the checks come to, in the order of R216: the first failing check of any participating lane decides; then an
access that must wait. none where every access may be performed. -/
def decideAcc (part : Nat → Bool) (rs : List (Nat × Word64 × LRes)) (s s0 : State) : Option Eff :=
  let first := fun (f : LRes → Bool) => rs.find? fun r => part r.1 && f r.2.2
  match first (fun r => r == .mis) with
  | some (l, va, _) => some (.trap (tAlign (some l) va) s0)
  | none =>
    match rs.find? (fun r => part r.1 && match r.2.2 with | .prot _ => true | _ => false) with
    | some (l, va, .prot k) => some (.trap (tProt k (some l) (some va)) s0)
    | _ =>
      match first (fun r => r == .page) with
      | some (l, va, _) => some (.page (some l) va s0)
      | none =>
        match (rs.filterMap fun r => match r.2.2 with | .wait w => some w | _ => none) with
        | w :: ws => some (.park (Wait.join (w :: ws)) s0)
        | [] => (s.badLine rs).map fun line => .done (s.uncorrectable line)

/-! ### One access -/

/-- Perform the vault writes of a party to a vault that have not been performed, oldest first (R79). -/
def State.performVault (s : State) (gid v : Nat) : State :=
  s.vq.foldl (fun s w =>
    if w.gid == gid && w.vault == v && !w.performed then
      let s := s.putVault (v * 2 ^ 22 + w.off) w.bytes
      { s with vq := (s.vq.erase w) ++ [{ w with performed := true }] }
    else s) s

/-- Read n bytes of a physical address: through the core, or at the cluster cache from the Loupe (R59, R91). -/
def State.readGlob (s : State) (pa asid n : Nat) (bypass : Bool) : State × List Byte :=
  if s.g.isLoupe then s.readFrom s.clu asid pa n else s.loadCore s.core asid pa n bypass

/-- Store bytes at a physical address (R59, R91, R221). -/
def State.writeGlob (s : State) (pa asid : Nat) (x : Scope) (bs : List Byte) : State :=
  if s.g.isLoupe then s.writeFrom s.clu x asid pa bs
  else s.issueStore (WtEntry.ofBytes s.core s.cur.gid x asid pa bs)

/-- Read n bytes of a located address; a vault read follows the party's earlier writes (R79). -/
def State.readLoc (s : State) (l : Loc) (n : Nat) (bypass : Bool) : State × List Byte :=
  match l with
  | .glob pa asid => s.readGlob pa asid n bypass
  | .fw vi tab off pa asid =>
    let (s, raw) := s.readGlob pa asid n bypass
    (s, s.fwBytes vi tab off raw)
  | .tile b o => (s, (List.range n).map fun k => (s.block b).tile.get 0 (o + k))
  | .vault v o =>
    let s := s.performVault s.cur.gid v
    (s, (List.range n).map fun k => s.vault.get 0 (v * 2 ^ 22 + o + k))

/-- Store bytes at a located address (R79). -/
def State.writeLoc (s : State) (l : Loc) (x : Scope) (bs : List Byte) : State :=
  match l with
  | .glob pa asid => s.writeGlob pa asid x bs
  | .fw vi tab off pa asid => (s.writeGlob pa asid x bs).putFw vi tab off bs
  | .tile b o => s.putTile b o bs
  | .vault v o => { s with vq := s.vq ++ [{ gid := s.cur.gid, vault := v, off := o, bytes := bs }] }

/-- Read the located lanes of a list in increasing order; a lane whose address failed reads zeros (R215). -/
def readAll (n : Nat) (bypass : Bool) : List (Nat × Word64 × LRes) → State → State × Store (List Byte)
  | [], s => (s, [])
  | (l, _, .ok loc) :: t, s =>
    let (s, bs) := s.readLoc loc n bypass
    let (s, m) := readAll n bypass t s
    (s, (l, bs) :: m)
  | (l, _, _) :: t, s =>
    let (s, m) := readAll n bypass t s
    (s, (l, List.replicate n 0) :: m)

/-- A group's store of bytes at a located address, where it passes through its core's buffer. -/
def State.buffered (s : State) (x : Scope) (bs : List Byte) : Loc → Option WtEntry
  | .glob pa asid | .fw _ _ _ pa asid =>
    if s.g.isLoupe then none else some (WtEntry.ofBytes s.core s.cur.gid x asid pa bs)
  | _ => none

/-- A store of bytes at a located address, but for what passes through its core's buffer. -/
def State.unbuffered (s : State) (x : Scope) (bs : List Byte) (l : Loc) : State :=
  match s.buffered x bs l, l with
  | some _, .fw vi tab off _ _ => s.putFw vi tab off bs
  | some _, _ => s
  | none, _ => s.writeLoc l x bs

/-- Store the located lanes of a list in increasing order (R218): the lanes that store to one global line share its
request (R90). -/
def writeAll (x : Scope) (data : Nat → List Byte) (rs : List (Nat × Word64 × LRes)) (s : State) : State :=
  let stores := rs.filterMap fun r => match r.2.2 with
    | .ok loc => some (loc, data r.1)
    | _ => none
  let s' := stores.foldl (fun s' w => s'.unbuffered x w.2 w.1) s
  (lineRequests (stores.filterMap fun w => s.buffered x w.2 w.1)).foldl State.issueStore s'

/-- Word k of a lane's bytes. -/
def laneWord (m : Store (List Byte)) (k : Nat) (l : Lane) : Word32 :=
  BitVec.ofNat 32 (ofBytes (((m.get [] l.val).drop (4 * k)).take 4))

/-- Tile bytes that hardware reads at issue (R207, R272, R285): none outside the block's own allocation. -/
def State.ownTile (s : State) (a : Word64) (n : Nat) : Option (List Byte) :=
  if a.toNat + n ≤ s.blk.tileSize then some ((List.range n).map fun k => s.blk.tile.get 0 (a.toNat + k)) else none

/-- A write by the save handler to tile memory or an accumulator (R371), with the lowest lane that would write, and its
address (R366). -/
def tSaveWrite (lane : Option Nat) (a : Option Word64) : Trap := tProt 7 lane a

/-! ### Accumulators (R76) -/

/-- Key of FP32 element (i, j) of tile t, and of the low word of an FP64 element. -/
def accKey (f64 : Bool) (t i j : Nat) : Nat := 6144 * t + (if f64 then 128 * i + 2 * j else 64 * i + j)

/-- The pattern of an accumulator element. -/
def Block.accAt (b : Block) (f64 : Bool) (t i j : Nat) : Nat :=
  let k := accKey f64 t i j
  if f64 then (b.acc.get 0 k).toNat + (b.acc.get 0 (k + 1)).toNat * 2 ^ 32 else (b.acc.get 0 k).toNat

/-- Write an accumulator element. -/
def Block.setAcc (b : Block) (f64 : Bool) (t i j x : Nat) : Block :=
  let k := accKey f64 t i j
  if f64 then { b with acc := (b.acc.set 0 k (BitVec.ofNat 32 x)).set 0 (k + 1) (BitVec.ofNat 32 (x / 2 ^ 32)) }
  else { b with acc := b.acc.set 0 k (BitVec.ofNat 32 x) }

/-- The kernel descriptor requested the tile, and the second tile of an FP64 pair (R222, R247). -/
def Block.hasAcc (b : Block) (f64 : Bool) (t : Nat) : Bool := decide (t + (if f64 then 2 else 1) ≤ b.kern.accn)

end Sys2Proof.Machine
end

