-- ==== Sys2Proof/Machine/LoadStore.lean ====
section
/-! DEFINITION. Loads, stores, prefetch, accumulator rows, CSTORE and XLOAD, and the scalar accesses
(R176 to R178, R214 to R226). -/

namespace Sys2Proof.Machine

def LType.bytes : LType → Nat
  | .s8 | .n8 => 1
  | .s16 | .n16 => 2
  | .b32 => 4
  | .b64 => 8

def LType.signed : LType → Bool
  | .s8 | .s16 => true
  | _ => false

def StW.bytes : StW → Nat
  | .b8 => 1
  | .b16 => 2
  | .b32 => 4
  | .b64 => 8

def TvW.bytes : TvW → Nat
  | .b32 => 4
  | .b64 => 8
  | .b128 => 16

def Wid.bytes : Wid → Nat
  | .b32 => 4
  | .b64 => 8

/-- The order has an acquire part, a release part (R88). -/
def Order.isAcq : Order → Bool
  | .acq | .ar => true
  | _ => false

def Order.isRel : Order → Bool
  | .rel | .ar => true
  | _ => false

/-- The acquire of an access that has one (R92, R217). -/
def State.acqPart (s : State) (x : Acc) : State := if Order.isAcq x.order then s.acqScope x.scope else s

/-- The release of an access that has one (R92, R217). -/
def State.relPart (s : State) (x : Acc) : State := if Order.isRel x.order then s.relScope x.scope else s

/-- An acquire load of cluster scope or wider bypasses the L1 (R91). -/
def Acc.bypass (x : Acc) : Bool := Order.isAcq x.order && x.scope != .core

/-! ### Loads -/

/-- A load of n bytes per active lane into registers, its bytes first extended (R215 to R220). -/
def State.load (s : State) (sp : Space) (n d : Nat) (m : MAddr) (x : Acc) (ext : List Byte → List Byte) : Eff :=
  let act := s.active
  let part := fun l => Mask.has s.actNH l
  let (s1, rs) := locateAll sp (fun l => s.addr m l) n .load ((Mask.list act).map Fin.val) s
  match decideAcc part rs s1 s with
  | some e => e
  | none =>
    let (s1, vals) := readAll n (Acc.bypass x) rs s1
    let vals : Store (List Byte) := vals.map fun v => (v.1, ext v.2)
    .ok ((s1.writeVs act d ((n + 3) / 4) fun k l => laneWord vals k l).acqPart x)

/-- Extension of a loaded value to 32 bits by its L type (R110, R220). -/
def extLoad (t : LType) (bs : List Byte) : List Byte :=
  if LType.bytes t < 4 then toBytes 4 (extend (LType.signed t) (8 * LType.bytes t) (ofBytes bs)) else bs

def execLd (t : LType) (d : Fin 96) (m : MAddr) (x : Acc) (s : State) : Host.Outcome State Fault Refusal :=
  commit (s.load .glob (LType.bytes t) d.val m x (extLoad t))

def execLdq (d : Fin 96) (m : MAddr) (x : Acc) (s : State) : Host.Outcome State Fault Refusal :=
  commit (s.load .glob 16 d.val m x id)

def execLdt (w : TvW) (d : Fin 96) (m : MAddr) (x : Acc) (s : State) : Host.Outcome State Fault Refusal :=
  commit (s.load .tile (TvW.bytes w) d.val m x id)

def execLdv (w : TvW) (d : Fin 96) (m : MAddr) (x : Acc) (s : State) : Host.Outcome State Fault Refusal :=
  commit (s.load .vault (TvW.bytes w) d.val m x id)

/-! ### Stores -/

/-- The bytes that a lane stores (R219). -/
def State.dataBytes (s : State) (a : Src) (n l : Nat) : List Byte :=
  if n = 16 then
    match a with
    | .v r => (List.range 4).flatMap fun k => toBytes 4 (s.readV (r.val + k) l).toNat
    | _ => List.replicate 16 0
  else toBytes n (s.srcI a (if n = 8 then .i64 else .i32) l)

/-- A helper lane's store by the save or restore handler that lies in the group's own area (R25, R45). -/
def State.ownArea (s : State) (va : Word64) (n : Nat) : Bool :=
  (s.g.inSave || s.g.inRestore) &&
    decide (s.g.sr.ctxsave.toNat ≤ va.toNat ∧ va.toNat + n ≤ s.g.sr.ctxsave.toNat + groupArea s.myCtx)

/-- The lanes that store (R215). -/
def State.storeLanes (s : State) (sp : Space) (addr : Nat → Word64) (n : Nat) : List Nat :=
  ((Mask.list s.active).map Fin.val).filter fun l =>
    !Mask.has s.rg.helper l || (sp == .glob && s.ownArea (addr l) n)

/-- A store of n bytes per participating lane (R215 to R221). -/
def State.store (s : State) (sp : Space) (n : Nat) (a : Src) (m : MAddr) (x : Acc) : Eff :=
  if sp == .tile && s.g.inSave then
    let ls := s.storeLanes sp (fun l => s.addr m l) n
    match ls.find? fun l => !aligned (s.addr m l) n with
    | some l => .trap (tAlign (some l) (s.addr m l)) s
    | none => .trap (tSaveWrite ls.head? (ls.head?.map (s.addr m))) s
  else
    let (s1, rs) := locateAll sp (fun l => s.addr m l) n .store (s.storeLanes sp (fun l => s.addr m l) n) s
    match decideAcc (fun _ => true) rs s1 s with
    | some e => e
    | none => .ok (writeAll x.scope (fun l => s.dataBytes a n l) rs (s1.relPart x))

def execSt (w : StW) (a : Src) (m : MAddr) (x : Acc) (s : State) : Host.Outcome State Fault Refusal :=
  commit (s.store .glob (StW.bytes w) a m x)

def execStq (d : Fin 96) (m : MAddr) (x : Acc) (s : State) : Host.Outcome State Fault Refusal :=
  commit (s.store .glob 16 (.v d) m x)

def execStt (w : TvW) (a : Src) (m : MAddr) (x : Acc) (s : State) : Host.Outcome State Fault Refusal :=
  commit (s.store .tile (TvW.bytes w) a m x)

def execStv (w : TvW) (a : Src) (m : MAddr) (x : Acc) (s : State) : Host.Outcome State Fault Refusal :=
  commit (s.store .vault (TvW.bytes w) a m x)

/-! ### Prefetch (R226) -/

/-- Bring the line of one lane near, unless its address fails a check. The spec gives PREF no width: an address is
misaligned where it is none of a 4-byte word (log entry 66). -/
def State.prefetch (s : State) (va : Word64) : State :=
  if !aligned va 4 then s
  else match s.translate va .nothing with
  | (s1, .ok pa) =>
    if s.g.isLoupe then (s1.readFrom s.clu (s.asidFor va) pa 1).1
    else (s1.loadCore s.core (s.asidFor va) pa 1 false).1
  | (_, _) => s

/-- What the prefetch of one lane waits for, if anything: it is an access like any other to a function that is not ready
(R20). -/
def State.prefetchWait (s : State) (va : Word64) : Option Wait :=
  if !aligned va 4 then none
  else match (s.translate va .nothing).2 with
  | .wait w => some w
  | _ => none

def execPref (m : MAddr) (s : State) : Host.Outcome State Fault Refusal :=
  let ls := Mask.list s.active
  commit (match (ls.filterMap fun l => s.prefetchWait (s.addr m l.val)) with
    | [] => .ok (ls.foldl (fun s' l => s'.prefetch (s.addr m l.val)) s)
    | ws => .park (Wait.join ws) s)

/-! ### Accumulator rows (R222, R223) -/

/-- An MMAC that has been issued and stands at its rendezvous uses an accumulator tile of the party's block: what uses the
tile after it waits (R223, R250, R259). -/
def State.accBusy (s : State) (f64 : Bool) (t : Nat) : Bool :=
  s.blk.gids.any fun i => match (s.group i).mmacAt with
    | some a => (accDst a.f.t.val a.f.tacc).any (accDst t f64).contains
    | none => false

def execLdac (v : Fin 96) (t : Fin 10) (g : Fin 4) (f64 : Bool) (x : Acc) (s : State) :
    Host.Outcome State Fault Refusal :=
  commit (s.groupOnly fun s =>
    if !s.blk.hasAcc f64 t.val then .trap (tProt 0 none none) s
    else if s.accBusy f64 t.val then .park (.acc f64 t.val) s
    else
      let b := s.blk
      let word := fun (k : Nat) (l : Lane) =>
        if f64 then BitVec.ofNat 32 (b.accAt true t.val l.val (16 * g.val + k / 2) / 2 ^ (32 * (k % 2)))
        else BitVec.ofNat 32 (b.accAt false t.val l.val (16 * g.val + k))
      .ok ((s.writeVs s.active v.val (if f64 then 32 else 16) word).acqPart x))

def execStac (v : Fin 96) (t : Fin 10) (g : Fin 4) (f64 : Bool) (x : Acc) (s : State) :
    Host.Outcome State Fault Refusal :=
  commit (s.groupOnly fun s =>
    if s.g.inSave then .trap (tSaveWrite ((Mask.list s.actNH).head?.map Fin.val) none) s
    else if !s.blk.hasAcc f64 t.val then .trap (tProt 0 none none) s
    else if s.accBusy f64 t.val then .park (.acc f64 t.val) s
    else
      let s1 := s.relPart x
      let val := fun (l k : Nat) =>
        if f64 then (s.readV64 (v.val + 2 * k) l).toNat else (s.readV (v.val + k) l).toNat
      .ok (s1.setBlk ((Mask.list s.actNH).foldl (fun b l => (List.range 16).foldl (fun b k =>
        b.setAcc f64 t.val l.val (16 * g.val + k) (val l.val k)) b) s1.blk)))

/-! ### CSTORE and XLOAD (R224, R225) -/

/-- The elements of a CSTORE that are stored, from rank e on, with their places; what stops it, with its rank (R225). -/
def cstoreAt (base : Word64) (n : Nat) : Nat → List Nat → State →
    State × List (Nat × Word64 × LRes) × Option (Nat × Word64 × LRes)
  | _, [], s => (s, [], none)
  | e, l :: t, s =>
    let va := base + BitVec.ofNat 64 (n * e)
    match s.locate .glob va n .store with
    | (s, .ok loc) =>
      let r := cstoreAt base n (e + 1) t s
      (r.1, (l, va, .ok loc) :: r.2.1, r.2.2)
    | (s, r) => (s, [], some (e, va, r))

/-- Store the elements of a CSTORE from rank e on, in rank order, up to what stops it: those of one line share its request
(R90, R225). -/
def cstoreGo (base : Word64) (n : Nat) (x : Scope) (data : Nat → List Byte) (e : Nat) (els : List Nat) (s : State) :
    State × Option (Nat × Word64 × LRes) :=
  let r := cstoreAt base n e els s
  (writeAll x data r.2.1 r.1, r.2.2)

/-- Record where a CSTORE stopped; nothing on a Loupe thread (R59, R225). The spec records a stop at a trap or a page
fault; the model records one at a target that is not ready or deferred too, so that no element is stored twice
(log entry 66). -/
def State.stopIdx (s : State) (e : Nat) (pc : PC) : State :=
  if s.g.isLoupe then s
  else s.setG { s.g with sr := { s.g.sr with fidxV := true, fidxIx := BitVec.ofNat 7 e, fidxPc := pc } }

/-- Clear VALID and IDX at the end of a CSTORE (R225). -/
def State.clearIdx (s : State) : State :=
  if s.g.isLoupe then s else s.setG { s.g with sr := { s.g.sr with fidxV := false, fidxIx := 0 } }

def State.cstore (s : State) (w : Wid) (a : Src) (m : CAddr) (x : Acc) : Eff :=
  let n := Wid.bytes w
  let base := s.caddr m
  let els := (Mask.list s.actNH).map Fin.val
  if !aligned base n then .trap (tAlign (els.head?) base) s
  else
    let pc := s.wordPc
    let r := s.rg.sr
    let start := if !s.g.isLoupe && r.fidxV && r.fidxPc == pc then r.fidxIx.toNat else 0
    let s1 := s.relPart x
    match cstoreGo base n x.scope (fun l => s.dataBytes a n l) start (els.drop start) s1 with
    | (s1, none) => .ok s1.clearIdx
    | (s1, some (e, va, r)) =>
      let s2 := s1.stopIdx e pc
      match r with
      | .page => .page els[e]? va s2
      | .prot k => .trap (tProt k els[e]? (some va)) s2
      | .wait w => .park w s2
      | _ => .trap (tAlign els[e]? va) s2

def execCstore (w : Wid) (a : Src) (m : CAddr) (x : Acc) (s : State) : Host.Outcome State Fault Refusal :=
  commit (s.cstore w a m x)

/-- Rank of a lane among the elements. -/
def rankOf (els : List Nat) (l : Nat) : Nat := (els.takeWhile (· != l)).length

def execXload (w : Wid) (d : Fin 96) (m : CAddr) (x : Acc) (s : State) : Host.Outcome State Fault Refusal :=
  let n := Wid.bytes w
  let els := (Mask.list s.actNH).map Fin.val
  let (s1, rs) := locateAll .glob (fun l => s.caddr m + BitVec.ofNat 64 (n * rankOf els l)) n .load els s
  commit (match decideAcc (fun _ => true) rs s1 s with
    | some e => e
    | none =>
      if !aligned (s.caddr m) n then .trap (tAlign none (s.caddr m)) s
      else
        let (s1, vals) := readAll n (Acc.bypass x) rs s1
        .ok ((s1.writeVs s.actNH d.val (n / 4) fun k l => laneWord vals k l).acqPart x))

/-! ### Scalar accesses (R176 to R178) -/

/-- A trap or wait of one address without a lane. -/
def scalarStop (va : Word64) (s : State) : LRes → Eff
  | .mis => .trap (tAlign none va) s
  | .prot k => .trap (tProt k none (some va)) s
  | .page => .page none va s
  | .wait w => .park w s
  | .ok _ => .ok s

/-- A scalar load of n bytes (R176). -/
def State.sload (s : State) (d : Fin 64) (va : Word64) (n : Nat) : Eff :=
  match s.locate .glob va n .load with
  | (s1, .ok l) =>
    (match s1.badLine [(0, va, .ok l)] with
    | some line => .done (s1.uncorrectable line)
    | none =>
      let (s1, bs) := s1.readLoc l n false
      .ok (s1.writeS d.val (BitVec.ofNat 64 (ofBytes bs))))
  | (_, r) => scalarStop va s r

/-- A scalar load. The spec gives no order of the two checks of its address: misalignment comes first, as R216 has it for
the vector accesses (R176; log entry 66). -/
def execSld (w : Wid) (d a : Fin 64) (b : SSrc) (s : State) : Host.Outcome State Fault Refusal :=
  commit (s.sload d (s.readS a.val + s.readB b) (Wid.bytes w))

def execSst (w : Wid) (d a : Fin 64) (b : SSrc) (s : State) : Host.Outcome State Fault Refusal :=
  let va := s.readS a.val + s.readB b
  let n := Wid.bytes w
  commit (match s.locate .glob va n .store with
    | (s1, .ok l) => .ok (s1.writeLoc l .core (toBytes n (s.readS d.val).toNat))
    | (_, r) => scalarStop va s r)

/-- An entry of the constant cache of a core (R177): key of the 8 bytes at a physical address. -/
def constKey (core pa : Nat) : Nat := core * 2 ^ 45 + pa / 8

/-- Read an entry of the global offset table through the core's constant cache, which is not coherent with stores: an
entry that it holds is read there or anew (R177; log entry 66). A Loupe thread's read is performed at the cluster cache
or beyond, as R59 has its global accesses; R177 speaks of the core's cache alone (log entry 66). -/
def State.readConst (s : State) (l : Loc) : State × List Byte := match l with
  | .glob pa _ =>
    if s.g.isLoupe then s.readLoc l 8 false
    else
    let k := constKey s.core pa
    match s.consts.get none k with
    | some w =>
      if (Config.freeWord s.free).getLsbD 0 then ({ s with free := s.free + 1 }, toBytes 8 w.toNat)
      else ({ s with free := s.free + 1 } : State).readLoc l 8 false
    | none =>
      let (s, bs) := s.readLoc l 8 false
      ({ s with consts := s.consts.set none k (some (BitVec.ofNat 64 (ofBytes bs))) }, bs)
  | l => s.readLoc l 8 false

/-- Entry b of the global offset table, whose base has its reserved bits zero (R166, R177). -/
def execSldg (d : Fin 64) (b : SSrc) (s : State) : Host.Outcome State Fault Refusal :=
  let va := (s.hg.sr.gotb &&& ~~~ 7) + 8 * s.readB b
  commit (match s.locate .glob va 8 .load with
    | (s1, .ok l) =>
      (match s1.badLine [(0, va, .ok l)] with
      | some line => .done (s1.uncorrectable line)
      | none =>
        let (s1, bs) := s1.readConst l
        .ok (s1.writeS d.val (BitVec.ofNat 64 (ofBytes bs))))
    | (_, r) => scalarStop va s r)

/-! ### Code bytes (R130, R131, R178) -/

/-- Byte address of a program counter's word in the executing party's code (R130). -/
def State.codeVa (s : State) (pc : PC) : Word64 :=
  (if s.g.isAgent then s.fwCode else s.blk.kern.cbase) + BitVec.ofNat 64 (12 * pcPacket pc + 4 * pcSlot pc)

/-- The code word at a program counter, or what its fetch meets (R131). -/
def State.codeWord (s : State) (pc : PC) : State × Except LRes Word32 :=
  let va := s.codeVa pc
  match s.translate va .fetch with
  | (s, .ok pa) =>
    let (s, bs) := s.readPkgs (s.asidFor va) pa 4
    (s, .ok (BitVec.ofNat 32 (ofBytes bs)))
  | (s, .page) => (s, .error .page)
  | (s, .prot r) => (s, .error (.prot r))
  | (s, .wait w) => (s, .error (.wait w))

/-- HBM line with an uncorrectable error that the fetch of some code words meets (R414). -/
def State.badCode (s : State) (pcs : List PC) : Option Nat :=
  if s.bad.isEmpty then none
  else pcs.findSome? fun pc => match (s.translate (s.codeVa pc) .fetch).2 with
    | .ok pa => if s.bad.contains (pa / 128) then some (pa / 128) else none
    | _ => none

/-- SLDL has read its words: their value, or the end of the context by an uncorrectable error (R414). -/
def State.sldlDone (s : State) (d : Fin 64) (pcs : List PC) (x : Word64) : Eff := match s.badCode pcs with
  | some line => .done (s.uncorrectable line)
  | none => .ok (s.writeS d.val x)

def execSldl (w : Wid) (d : Fin 64) (t : Target) (s : State) : Host.Outcome State Fault Refusal :=
  let pc := Target.pc t s.wordPc
  commit (match s.codeWord pc with
    | (_, .error r) => scalarStop (s.codeVa pc) s r
    | (s1, .ok lo) =>
      if w = .b32 then s1.sldlDone d [pc] (lo.zeroExtend 64)
      else match s1.codeWord (pcAdd pc 1) with
        | (_, .error r) => scalarStop (s.codeVa (pcAdd pc 1)) s r
        | (s1, .ok hi) => s1.sldlDone d [pc, pcAdd pc 1] (hi ++ lo))

end Sys2Proof.Machine
end

