-- ==== Sys2Proof/Machine/Atomic.lean ====
section
/-! DEFINITION. Atomics and reductions in memory (R102, R103, R129, R227 to R231). -/

namespace Sys2Proof.Machine

/-! ### One read-modify-write -/

/-- A read-modify-write of the executing party: behind its core's buffered stores, at its scope or at the home; a
present L1 line of its core takes the new bytes (R81, R90, R102, R231). -/
def State.rmw (s : State) (x : Scope) (asid pa n : Nat) (f : List Byte → List Byte) : State × List Byte :=
  let s := if s.g.isLoupe then s else s.drainCore s.core
  let (s, old) := if atHome s.hbmFine pa then s.rmwHome asid pa n f else s.atomicFrom s.clu x asid pa n f
  (if s.g.isLoupe then s else s.l1Put s.core pa (f old), old)

/-- The participating lanes act in increasing order (R231); the old value of each. -/
def State.rmwAll (x : Scope) (n : Nat) (f : Nat → Nat → Nat) :
    List (Nat × Word64 × LRes) → State → State × Store Nat
  | [], s => (s, [])
  | (l, _, .ok (.glob pa asid)) :: t, s =>
    let (s, old) := s.rmw x asid pa n fun bs => toBytes n (f l (ofBytes bs))
    let (s, m) := State.rmwAll x n f t s
    (s, (l, ofBytes old) :: m)
  | (l, _, .ok (.fw vi tab off pa asid)) :: t, s =>
    let seen := s.fwBytes vi tab off
    let new := fun bs => toBytes n (f l (ofBytes (seen bs)))
    let (s, old) := s.rmw x asid pa n new
    let (s, m) := State.rmwAll x n f t (s.putFw vi tab off (new old))
    (s, (l, ofBytes (seen old)) :: m)
  | _ :: t, s => State.rmwAll x n f t s

/-- An atomic of n bytes: checks of every participating lane, release part, operations, acquire part (R216, R217); k
continues with the old values. -/
def State.atomic (s : State) (n : Nat) (m : MAddr) (x : Acc) (f : Nat → Nat → Nat)
    (k : State → Store Nat → State) : Eff :=
  let ls := (Mask.list s.actNH).map Fin.val
  let (s1, rs) := locateAll .glob (fun l => s.addr m l) n .both ls s
  match decideAcc (fun _ => true) rs s1 s with
  | some e => e
  | none =>
    let (s1, old) := State.rmwAll x.scope n f rs (s1.relPart x)
    .ok ((k s1 old).acqPart x)

/-- Words of a lane's old value. -/
def oldWord (m : Store Nat) (k : Nat) (l : Lane) : Word32 := BitVec.ofNat 32 (m.get 0 l.val / 2 ^ (32 * k))

/-- A returning atomic whose result takes n bytes (R227): f gives the new value of a lane from the old one. -/
def State.atomicRet (s : State) (n : Nat) (d : Fin 96) (m : MAddr) (x : Acc) (f : Nat → Nat → Nat) :
    Host.Outcome State Fault Refusal :=
  let lanes := s.actNH
  commit (s.atomic n m x f fun s old => s.writeVs lanes d.val (n / 4) (oldWord old))

/-- A no-return reduction of n bytes (R229). -/
def State.atomicRed (s : State) (n : Nat) (m : MAddr) (x : Acc) (f : Nat → Nat → Nat) :
    Host.Outcome State Fault Refusal :=
  commit (s.atomic n m x f fun s _ => s)

/-! ### Operations on one word (R228 to R230) -/

def AType.bits (t : AType) : Nat := OpT.bits (Sys2Proof.AType.opT t)

def AType.signed : AType → Bool
  | .s32 | .s64 => true
  | _ => false

def AType.fmt : AType → Fmt
  | .f64 => .f64
  | _ => .f32

def AType.isFp : AType → Bool
  | .f32 | .f64 => true
  | _ => false

/-- The new value of a word under an operation of a type. -/
def atVal (op : AtOp) (t : AType) (m x : Nat) : Nat :=
  let w := AType.bits t
  match op with
  | .add => if AType.isFp t then (AType.fmt t).atomAdd m x else (m + x) % 2 ^ w
  | .min => if AType.isFp t then (AType.fmt t).atomMinmax false m x else iminmax false (AType.signed t) w m x
  | .max => if AType.isFp t then (AType.fmt t).atomMinmax true m x else iminmax true (AType.signed t) w m x
  | .and => Nat.land m x
  | .or => Nat.lor m x
  | .xor => Nat.xor m x
  | .xchg => x
  | .cas => m
  | .incw => if x ≤ m then 0 else m + 1
  | .pbf => Fmt.bf16.atomAdd (m % 2 ^ 16) (x % 2 ^ 16) + 2 ^ 16 * Fmt.bf16.atomAdd (m / 2 ^ 16) (x / 2 ^ 16)

/-- The type that carries a bit operation of a width. -/
def Wid.aType : Wid → AType
  | .b32 => .n32
  | .b64 => .n64

/-- A returning atomic of a type: the lane's register is the operand. -/
def State.atomicTy (s : State) (op : AtOp) (t : AType) (d : Fin 96) (m : MAddr) (x : Acc) :
    Host.Outcome State Fault Refusal :=
  s.atomicRet (AType.bits t / 8) d m x fun l old => atVal op t old (s.oldD (AType.bits t) d l)

/-- A reduction of a type: the data field is a source operand. -/
def State.redTy (s : State) (op : AtOp) (t : AType) (a : Src) (m : MAddr) (x : Acc) :
    Host.Outcome State Fault Refusal :=
  s.atomicRed (AType.bits t / 8) m x fun l old => atVal op t old (s.src a t.opT (AType.fmt t) l)

def execAadd (t : AType) (d : Fin 96) (m : MAddr) (x : Acc) (s : State) : Host.Outcome State Fault Refusal :=
  s.atomicTy .add t d m x

def execAmin32 (t : AType32) (d : Fin 96) (m : MAddr) (x : Acc) (s : State) : Host.Outcome State Fault Refusal :=
  s.atomicTy .min t.aType d m x

def execAmin64Fp (t : AType64F) (d : Fin 96) (m : MAddr) (x : Acc) (s : State) : Host.Outcome State Fault Refusal :=
  s.atomicTy .min t.aType d m x

def execAmaxInt (t : ATypeInt) (d : Fin 96) (m : MAddr) (x : Acc) (s : State) : Host.Outcome State Fault Refusal :=
  s.atomicTy .max t.aType d m x

def execAmaxFp (t : ATypeFp) (d : Fin 96) (m : MAddr) (x : Acc) (s : State) : Host.Outcome State Fault Refusal :=
  s.atomicTy .max t.aType d m x

def execAand (w : Wid) (d : Fin 96) (m : MAddr) (x : Acc) (s : State) : Host.Outcome State Fault Refusal :=
  s.atomicTy .and (Wid.aType w) d m x

def execAor (w : Wid) (d : Fin 96) (m : MAddr) (x : Acc) (s : State) : Host.Outcome State Fault Refusal :=
  s.atomicTy .or (Wid.aType w) d m x

def execAxor (w : Wid) (d : Fin 96) (m : MAddr) (x : Acc) (s : State) : Host.Outcome State Fault Refusal :=
  s.atomicTy .xor (Wid.aType w) d m x

def execAxchg (w : Wid) (d : Fin 96) (m : MAddr) (x : Acc) (s : State) : Host.Outcome State Fault Refusal :=
  s.atomicTy .xchg (Wid.aType w) d m x

/-- n words of a lane from a register on, as one number. -/
def State.regsAt (s : State) (r n l : Nat) : Nat :=
  ofBytes ((List.range n).flatMap fun k => toBytes 4 (s.readV (r + k) l).toNat)

/-- ACAS of k words: compare value in vD on, new value in the k registers after it (R227, R228). -/
def State.acas (s : State) (k : Nat) (d : Fin 96) (m : MAddr) (x : Acc) : Host.Outcome State Fault Refusal :=
  s.atomicRet (4 * k) d m x fun l old =>
    if old = s.regsAt d.val k l then s.regsAt (d.val + k) k l else old

def execAcas (w : Wid) (d : Fin 96) (m : MAddr) (x : Acc) (s : State) : Host.Outcome State Fault Refusal :=
  s.acas (Wid.width w / 32) d m x

def execAcasB128 (d : Fin 96) (m : MAddr) (x : Acc) (s : State) : Host.Outcome State Fault Refusal := s.acas 4 d m x

def execAincwN32 (d : Fin 96) (m : MAddr) (x : Acc) (s : State) : Host.Outcome State Fault Refusal :=
  s.atomicTy .incw .n32 d m x

def execAincwN64 (d : Fin 96) (m : MAddr) (x : Acc) (s : State) : Host.Outcome State Fault Refusal :=
  s.atomicTy .incw .n64 d m x

def execRedAdd (t : AType) (a : Src) (m : MAddr) (x : Acc) (s : State) : Host.Outcome State Fault Refusal :=
  s.redTy .add t a m x

/-- red.add.pbf16, of the deprecated class (R147, R169): two bfloat16 sums in one word. -/
def execRedAddPbf16 (a : Src) (m : MAddr) (x : Acc) (s : State) : Host.Outcome State Fault Refusal :=
  if !s.feature 25 then commit (.trap tInstruction s)
  else s.atomicRed 4 m x fun l old => atVal .pbf .n32 old (s.srcI a .i32 l)

def execRedMin (t : AType) (a : Src) (m : MAddr) (x : Acc) (s : State) : Host.Outcome State Fault Refusal :=
  s.redTy .min t a m x

def execRedMax32 (t : AType32) (a : Src) (m : MAddr) (x : Acc) (s : State) : Host.Outcome State Fault Refusal :=
  s.redTy .max t.aType a m x

def execRedMax64Fp (t : AType64F) (a : Src) (m : MAddr) (x : Acc) (s : State) : Host.Outcome State Fault Refusal :=
  s.redTy .max t.aType a m x

def execRedAnd (w : Wid) (a : Src) (m : MAddr) (x : Acc) (s : State) : Host.Outcome State Fault Refusal :=
  s.redTy .and (Wid.aType w) a m x

def execRedOr (w : Wid) (a : Src) (m : MAddr) (x : Acc) (s : State) : Host.Outcome State Fault Refusal :=
  s.redTy .or (Wid.aType w) a m x

def execRedXor (w : Wid) (a : Src) (m : MAddr) (x : Acc) (s : State) : Host.Outcome State Fault Refusal :=
  s.redTy .xor (Wid.aType w) a m x

end Sys2Proof.Machine
end

