-- ==== Sys2Proof/Machine/Control.lean ====
section
/-! DEFINITION. Control transfers, divergence and ejection, EXIT, handlers (R33 to R37, R46, R53 to R58, R154 to R163). -/

namespace Sys2Proof.Machine

def execNop (s : State) : Host.Outcome State Fault Refusal := commit (.ok s)

/-- An unassigned opcode (R144, R147). -/
def execUnassignedOpcode (_w : Word32) (s : State) : Host.Outcome State Fault Refusal := commit (.trap tInstruction s)

/-! ### Uniform branches (R37, R156) -/

/-- Transfer to a target when taken, else go on. -/
def branchTo (taken : Bool) (t : Target) (s : State) : Eff := if taken then .jump (Target.pc t s.wordPc) s else .ok s

/-- The uniform check of R156 on a lane condition: none where the lanes differ. -/
def State.uniform (s : State) (test : Nat → Bool) : Option Bool :=
  let u := (Mask.list s.actNH).map Fin.val
  if u.isEmpty then some false
  else if u.all test then some true
  else if u.all fun l => !test l then some false
  else none

def uniformBranch (c : Option Bool) (t : Target) (s : State) : Eff := match c with
  | none => .trap tNonUniform s
  | some k => branchTo k t s

def execBr (t : Target) (s : State) : Host.Outcome State Fault Refusal := commit (branchTo true t s)

/-- Condition of BZ: the scalar, or each lane's value, is zero (R155). -/
def State.isZero (s : State) (c : BCond) : Option Bool := match c with
  | .s r => some (s.readS r.val == 0)
  | .v r => s.uniform fun l => s.readV r.val l == 0

/-- Condition of BNZ (R155, R156). -/
def State.isNonzero (s : State) (c : BCond) : Option Bool := match c with
  | .s r => some (s.readS r.val != 0)
  | .v r => s.uniform fun l => s.readV r.val l != 0

def execBz (c : BCond) (t : Target) (s : State) : Host.Outcome State Fault Refusal :=
  commit (uniformBranch (s.isZero c) t s)

def execBnz (c : BCond) (t : Target) (s : State) : Host.Outcome State Fault Refusal :=
  commit (uniformBranch (s.isNonzero c) t s)

/-- BP: p7 is taken with any mask (R155, R156). -/
def execBp (p : Fin 8) (t : Target) (s : State) : Host.Outcome State Fault Refusal :=
  commit (uniformBranch (if p.val = 7 then some true else s.uniform fun l => Mask.has (s.readP p.val) l) t s)

/-! ### Calls and indirect jumps (R159) -/

/-- Jump to a scalar value: the protection trap for set upper bits or slot 3. -/
def jumpTo (v : Word64) (f : State → State) (s : State) : Eff :=
  if v.toNat < 2 ^ 32 && pcSlot (v.truncate 32) != 3 then .jump (v.truncate 32) (f s)
  else .trap (tProt 0 none (some v)) s

def execJmpi (a : Fin 64) (s : State) : Host.Outcome State Fault Refusal := commit (jumpTo (s.readS a.val) id s)

def execRet (a : Fin 64) (s : State) : Host.Outcome State Fault Refusal := commit (jumpTo (s.readS a.val) id s)

def execCall (l : Fin 16) (t : Target) (s : State) : Host.Outcome State Fault Refusal :=
  commit (.jump (Target.pc t s.wordPc) (s.writeS l.val (s.next.zeroExtend 64)))

def execCalli (d a : Fin 64) (s : State) : Host.Outcome State Fault Refusal :=
  commit (jumpTo (s.readS a.val) (fun s => s.writeS d.val (s.next.zeroExtend 64)) s)

/-! ### BRD (R33, R35, R53, R56, R158) -/

/-- Live-in and live-out sets of a valid ejection table entry (R53). -/
structure EjEntry where
  lin : Mask
  lout : Mask
  pin : BitVec 7
  pout : BitVec 7

/-- Parse and check the 32 bytes of an entry against a register allocation (R53). -/
def ejParse (regs x : Nat) : Option EjEntry :=
  let li : Mask := BitVec.ofNat 96 x
  let lo : Mask := BitVec.ofNat 96 (x / 2 ^ 96)
  let top := fun (m : Mask) => (Mask.list m).all fun k => decide (k.val < regs)
  if x / 2 ^ 208 = 0 && x / 2 ^ 207 % 2 = 0 && x / 2 ^ 199 % 2 = 0 && Mask.count li ≤ 32 && Mask.count lo ≤ 32
      && top li && top lo then
    some { lin := li, lout := lo, pin := BitVec.ofNat 7 (x / 2 ^ 192), pout := BitVec.ofNat 7 (x / 2 ^ 200) }
  else none

/-- Read n bytes at a virtual address of the party, byte by byte; what stops it. -/
def State.fetchBytes (need : Need) : Nat → Word64 → State → State × Except LRes (List Byte)
  | 0, _, s => (s, .ok [])
  | n + 1, va, s =>
    match s.translate va need with
    | (s, .ok pa) =>
      let (s, b) := s.readPkg (s.asidFor va) pa 1
      match State.fetchBytes need n (va + 1) s with
      | (s, .ok t) => (s, .ok (b ++ t))
      | (s, .error r) => (s, .error r)
    | (s, .page) => (s, .error .page)
    | (s, .prot r) => (s, .error (.prot r))
    | (s, .wait w) => (s, .error (.wait w))

/-- Split the executing entry (R33). -/
def Group.split (g : Group) (e f : Nat) (t n : Mask) (x taken fall : PC) (now : Nat) : Group :=
  let c := g.ent e
  let g := g.setEnt f { (g.ent f).moved taken now with
    valid := true, mask := t, dom := c.dom &&& t, rpc := x, join := f, srpc := c.rpc, sjoin := c.join }
  g.setEnt e { c.moved fall now with dom := c.dom &&& ~~~ t, mask := n, rpc := x, join := f }

/-- Serialise: push a deferral record (R35). -/
def Group.serialise (g : Group) (e : Nat) (t n : Mask) (x taken fall : PC) (now : Nat) : Group :=
  let d : Defer := { owner := e, rpc := x, pc := taken, mask := t, arrived := 0, phase := false }
  { g with defer := d :: g.defer }.setEnt e { (g.ent e).moved fall now with mask := n }

/-- The split of R33, the serialisation of R35, or the split-overflow trap. -/
def State.diverge (s : State) (t n : Mask) (x taken fall : PC) : Eff :=
  let g := s.g
  match g.alloc with
  | some f => .done (s.setG (g.split s.cur.ent f t n x taken fall s.clock))
  | none =>
    if g.defer.length < 8 then .done (s.setG (g.serialise s.cur.ent t n x taken fall s.clock))
    else .trap tSplit s

/-- Lowest record that is free. -/
def Group.freeRec (g : Group) : Option Nat := (List.range 4).find? fun r => !(g.recs.get Rec.free r).valid

/-- Start the threads of a record's lanes (R56, R58). -/
def State.startLanes (gid r : Nat) (pc : PC) : List Nat → State → State
  | [], s => s
  | l :: ls, s =>
    match s.allocThread (cluOf (coreOf gid)) with
    | none => s
    | some tid => 
      let c := (s.group gid).recs.get Rec.free r
      State.startLanes gid r pc ls (s.startThread tid gid r l pc true (s.group gid).s c.lin c.pin)

/-- Eject side e to the Loupe, the rest continuing (R56). -/
def State.eject (s : State) (r : Nat) (h : Option Nat) (ej rest : Mask) (tix : BitVec 16) (c : EjEntry)
    (x pcE pcS : PC) : State :=
  let g := s.g
  let e := s.e
  let onl := ej &&& ~~~ g.helper
  let hs := ej &&& g.helper
  let rc : Rec := {
    valid := true, tix := tix, rpc := x, srpc := e.rpc, sjoin := e.join, onl := onl
    lin := c.lin, lout := c.lout, pin := c.pin, pout := c.pout }
  let g := { g with recs := g.recs.set Rec.free r rc }
  let g := match h with
    | none => g
    | some i => g.setEnt i { (g.ent i).moved pcE s.clock with
        valid := true, mask := hs, dom := hs, rpc := x, join := 8 + r }
  let g := g.setEnt s.cur.ent { e.moved pcS s.clock with
    dom := e.dom &&& ~~~ ej, mask := rest, rpc := x, join := 8 + r }
  State.startLanes s.cur.gid r pcE ((Mask.list onl).map Fin.val) ((s.setG g).relScope .clu)

/-- Try ejection, else split (R56, R158). -/
def State.tryEject (s : State) (t n : Mask) (tix : BitVec 16) (c : EjEntry) (x taken fall : PC) : Eff :=
  let g := s.g
  let ejt := if s.feature 19 then s.rg.sr.ejt.toNat else 0
  let cnt := fun (m : Mask) => Mask.count (m &&& ~~~ g.helper)
  let ok := fun (m : Mask) => decide (1 ≤ cnt m ∧ cnt m ≤ ejt)
  let side := if ok t && (!ok n || decide (cnt t ≤ cnt n)) then some true else if ok n then some false else none
  match g.hnd, g.freeRec, side with
  | none, some r, some tk =>
    let ej := if tk then t else n
    let hs := ej &&& g.helper
    let h := if hs = 0 then none else g.alloc
    if s.freeThreads s.clu < cnt ej || (hs != 0 && h.isNone) then s.diverge t n x taken fall
    else .done (s.eject r h ej (if tk then n else t) tix c x (if tk then taken else fall) (if tk then fall else taken))
  | _, _, _ => s.diverge t n x taken fall

/-- Both sides of a BRD (R33, R53, R56, R158). Where the bytes of its ejection entry cannot be read, which R53 leaves
open, it ends as a scalar load of them would: parked, or by the page fault or the protection trap (log entry 68). -/
def State.brd (s : State) (p : Fin 8) (t : Target) (l : BrdLit) : Eff :=
  let m := s.active
  let pred := s.readP p.val
  let tk := m &&& pred
  let nt := m &&& ~~~ pred
  let taken := Target.pc t s.wordPc
  let x := Target.pc l.recon s.wordPc
  if s.g.isLoupe then (if tk = 0 then .ok s else .jump taken s)
  else if m = 0 then .ok s
  else
    let go := fun (s : State) (c : Option EjEntry) =>
      if tk = 0 then Eff.ok s
      else if nt = 0 then .jump taken s
      else match c with
        | some c => s.tryEject tk nt l.tix c x taken s.next
        | none => s.diverge tk nt x taken s.next
    if !l.ep then go s none
    else if s.blk.kern.ejtn.toNat ≤ l.tix.toNat then .trap tEncoding s
    else
      let va := s.blk.kern.ejta + BitVec.ofNat 64 (32 * l.tix.toNat)
      match State.fetchBytes .load 32 va s with
      | (_, .error r) => scalarStop va s r
      | (s1, .ok bs) =>
        match ejParse s.blk.kern.regs (ofBytes bs) with
        | none => .trap tEncoding s
        | some c => go s1 (some c)

def execBrd (p : Fin 8) (t : Target) (l : BrdLit) (s : State) : Host.Outcome State Fault Refusal :=
  commit (s.brd p t l)

/-! ### EXIT (R36, R46, R59, R160, R205) -/

/-- Remove lanes of an entry of a group: those active where EXIT stands (R36, R160). -/
def Group.exitLanes (g : Group) (e : Nat) (m : Mask) (next : PC) (now : Nat) : Group :=
  let c := g.ent e
  let dom := c.dom &&& ~~~ m
  let g := { g with exited := g.exited ||| m }
  let held := g.deferred e
  let g := g.setEnt e { c.moved next now with dom := dom, mask := c.mask &&& ~~~ m }
  if dom = 0 then g.freeEnt e
  else if dom &&& ~~~ held = 0 then g.advanceDefer e 0 now
  else g

/-- A waiting set of SYNCM that lost a lane to EXIT: its lowest-numbered waiting fragment traps (R205). -/
def State.syncmLost (s : State) (gid : Nat) (gone : Mask) : State :=
  let g := s.group gid
  match g.syncm.find? fun w => w.m &&& gone != 0 with
  | none => s
  | some w =>
    let i := (minOf w.ents).getD 0
    let e := g.ent i
    s.takeTrap ⟨gid, i, e.pc, pcSlot e.pc⟩ tMask

def State.exit (s : State) : Eff :=
  let m := s.active
  if m = 0 then .ok s
  else if s.g.isLoupe then .done (((s.exitThread s.cur.gid).syncmLost s.homeGid m).groupOver s.homeGid)
  else match s.g.hnd with
  | some h => .done (s.endContext s.blk.vi s.blk.ctx s.core h.code)
  | none =>
    let s := s.setG (s.g.exitLanes s.cur.ent m s.next s.clock)
    .done ((s.syncmLost s.cur.gid m).groupOver s.cur.gid)

def execExit (s : State) : Host.Outcome State Fault Refusal := commit s.exit

/-! ### Handlers (R45, R46, R161 to R163) -/

/-- The software trap (R162): in a handler it ends the context; an agent is reset. -/
def execTrap (code : BitVec 8) (s : State) : Host.Outcome State Fault Refusal :=
  commit (s.groupOnly fun s =>
    if s.g.isAgent then .done (s.resetAgent s.core 0x20)
    else if s.g.hnd.isSome then .done (s.endContext s.blk.vi s.blk.ctx s.core 0x20)
    else match (s.advance s.next).tryHandler s.cur.gid 0x20 (code.zeroExtend 16) s.slot with
      | .wait w => .wait w s
      | h => .done (h.orFail s s.g.bid s))

/-- TRET and HDONE are the handler fragment's own, with none of its splits live (R46). -/
def State.atHandler (s : State) : Bool := s.g.hnd.isSome && s.cur.ent == 8 && !s.g.ownSplits

def execTret (s : State) : Host.Outcome State Fault Refusal :=
  commit (s.groupOnly fun s =>
    if s.atHandler && !s.g.inSave then .done (s.returnFrom s.cur.gid s.rg.sr) else .trap tInstruction s)

/-- What HDONE writes besides the fields fixed at entry (R370, R371). -/
def lateFlds : List SaveFld :=
  hdrFlds ++ [statusFld, cowFld] ++ keepFlds ++ (List.range 8).flatMap entryFlds ++ (List.range 8).map deferFld
    ++ (List.range 4).flatMap recFlds ++ handlerFlds

def State.hdone (s : State) : Eff :=
  if !(s.atHandler && s.g.inSave) then .trap tInstruction s
  else if !s.blk.idle then .wait .engines s
  else if !(s.vaultWaits s.cur.gid).isEmpty then .wait (Wait.join (s.vaultWaits s.cur.gid)) s
  else
    let t := s.relScope .pkg
    let g := { t.g with hdone := true, hnd := none, tab := t.g.tab.erase 8 }
    let b := s.blk
    match (t.setG g).saveFlds b.pcore b.vi b.ctx g lateFlds with
    | .ok t => .done ((t.parkGroup s.cur.gid).trySave s.g.bid)
    | .wait w => .wait w s
    | h => .done (h.orFail s s.g.bid s)

def execHdone (s : State) : Host.Outcome State Fault Refusal := commit (s.groupOnly State.hdone)

/-- BKPT: the breakpoint trap at the next word when the context's debug flag is set (R163). -/
def execBkpt (s : State) : Host.Outcome State Fault Refusal :=
  commit (s.groupOnly fun s =>
    if !s.g.isAgent && s.myCtx.debug then .done ((s.advance s.next).takeTrap ⟨s.cur.gid, s.cur.ent, s.next, s.slot⟩ tBreak)
    else .ok s)

end Sys2Proof.Machine
end

