-- ==== Sys2Proof/Machine/Sync.lean ====
section
/-! DEFINITION. Fences, barriers and parking waits (R37 to R39, R79, R92, R107, R232 to R238). -/

namespace Sys2Proof.Machine

/-! ### Fences (R232, R233) -/

def execFence (x : Scope) (k : FenceKind) (s : State) : Host.Outcome State Fault Refusal :=
  commit (.ok (match k with
    | .acq => (s.ackVaults s.cur.gid).acqScope x
    | .rel => s.relScope x
    | .ar => (s.relScope x).acqScope x))

/-- FENCE.V: the vault step of R79 for the party's own accesses, which every kind of fence includes (R232). -/
def execFenceV (s : State) : Host.Outcome State Fault Refusal := commit (.ok (s.ackVaults s.cur.gid))

/-! ### Barriers (R38, R39, R45, R234, R235) -/

/-- The barrier that BAR n uses: every handler's is one of its own (R45, R234). That of a software-trap handler is the
same one, which the spec leaves open (log entry 16): R234 names the handlers of pre-emption and of events. -/
def State.barNo (s : State) (n : Fin 16) : Nat := if s.g.hnd.isSome then 16 else n.val

/-- BAR: the group arrives, the fragment parks, and the generation completes once every group has arrived. An agent is
the only group of its slot (log entry 16). -/
def State.bar (s : State) (n : Fin 16) : Eff :=
  let s := s.relScope .core
  if s.g.isAgent then .ok s
  else
    let k := s.barNo n
    let b := s.blk
    let a := (b.bars.get Bar.zero k).arrive s.g.gix
    let s := (s.setBlk { b with bars := b.bars.set Bar.zero k a.1 }).waitHere (.bar k a.2)
    .done (State.settleBar s.g.bid k 16 s)

def execBar (n : Fin 16) (s : State) : Host.Outcome State Fault Refusal := commit (s.groupOnly fun s => s.bar n)

/-- CBAR: the same over the groups of the cohort, at the cohort's scope (R235). -/
def State.cbar (s : State) : Eff :=
  if s.g.isAgent then .ok (s.relScope .core)
  else
    let j := s.blk.coh
    let c := s.cohorts.get Cohort.empty j
    let s := s.relScope (Level.scope c.level)
    let a := c.cbar.arrive (16 * s.g.bid + s.g.gix)
    let s : State := { s with cohorts := s.cohorts.set Cohort.empty j { c with cbar := a.1 } }
    .done (State.settleCbar j 16 (s.waitHere (.cbar a.2)))

def execCbar (s : State) : Host.Outcome State Fault Refusal := commit (s.groupOnly State.cbar)

/-! ### WAITC (R107, R236) -/

/-- A counter handle of the executing party's block. -/
def State.tc (s : State) (k : Nat) : Tc := s.blk.tc.get Tc.unbound k

/-- The drain of an engine's writes to a scope (R96, R107): those of Prism and Zoom operations; a software counter's
adds have drained already (R264). -/
def State.drainTc (s : State) (t : Tc) (x : Scope) : State := match t.bind with
  | .prism _ | .zoom => s.drain s.clu x
  | .soft | .unbound => s

/-- The count that WAITC awaits: that of its wait, where it has parked. -/
def State.waitCount (s : State) (a : Fin 64) : Word64 := match s.e.wait with
  | .counter _ n => n
  | _ => s.readS a.val

def State.waitc (s : State) (k : Fin 32) (a : Fin 64) (x : Scope) (t : Target) : Eff :=
  let c := s.tc k.val
  let n := s.waitCount a
  if c.bind = .unbound then .trap (tProt 5 none none) s
  else if c.value < n then .wait (.counter k.val n) s
  else .jump (Target.pc t s.wordPc) ((s.drainTc c x).acqScope x)

def execWaitc (k : Fin 32) (a : Fin 64) (x : Scope) (t : Target) (s : State) : Host.Outcome State Fault Refusal :=
  commit (s.waitc k a x t)

/-! ### Rings as seen by a waiting party (R237, R277, R281) -/

/-- Ring number bound to handle q of the executing party's block (R262). -/
def State.ringOf (s : State) (q : Fin 16) : Option Nat := s.blk.q[q.val]?

/-- Slots of a ring. -/
def Ring.count (c : Ring) : Nat := 2 ^ c.lcount

/-- Address of slot i (R277). -/
def Ring.slotVa (c : Ring) (i : BitVec 32) : Word64 :=
  c.base + BitVec.ofNat 64 (i.toNat % c.count * 2 ^ c.lsize)

/-- Slot i is published (R237). -/
def Ring.published (c : Ring) (i : BitVec 32) : Bool := c.pub - i != 0 && !(c.pub - i).getLsbD 31

/-- INFO of a ring-error event (R366): the error code, and the handle. -/
def ringInfo (code : BitVec 8) (q : Nat) : BitVec 16 := BitVec.ofNat 16 (code.toNat * 256 + q % 16)

/-- Hold an event for group gi of a block (R44): at the group, or, where it has been moved off its core, at its saved
state and in the pending bits of its header (R371). -/
def State.holdEvent (s : State) (bid gi : Nat) (p : Pend) : State :=
  let b := s.block bid
  let gid := b.gids.getD gi 0
  let g := s.group gid
  let sv := s.savedG.get Group.empty (16 * bid + gi)
  if g.live then s.setGroup gid (g.hold p)
  else if sv.live then
    let t : State := { s with savedG := s.savedG.set Group.empty (16 * bid + gi) (sv.hold p) }
    (t.saveFlds b.pcore b.vi b.ctx (sv.hold p) [statusFld]).orFail t bid t
  else s

/-- Hold a ring-error event for a group (R281). -/
def State.sendRingErr (s : State) (bid gi : Nat) (code : BitVec 8) (q : Nat) : State :=
  s.holdEvent bid gi ⟨0x32, ringInfo code q⟩

/-- Keep a block among a ring's producers or consumers: up to eight, and a ninth opens the set for good (R357). -/
def noteIn (xs : List Nat) (isOpen : Bool) (bid : Nat) : List Nat × Bool :=
  if xs.contains bid then (xs, isOpen) else if xs.length < 8 then (xs ++ [bid], isOpen) else (xs, true)

/-- The block claims, publishes or emits on the ring. -/
def Ring.produces (c : Ring) (bid gix : Nat) : Ring :=
  let p := noteIn c.prods c.pOpen bid
  { c with prods := p.1, pOpen := p.2, pgrp := if c.pgrp.contains (16 * bid + gix) then c.pgrp else c.pgrp ++ [16 * bid + gix] }

/-- The block executes WAITQ or QREL on the ring. -/
def Ring.consumes (c : Ring) (bid gix : Nat) : Ring :=
  let p := noteIn c.conss c.cOpen bid
  { c with conss := p.1, cOpen := p.2, cgrp := if c.cgrp.contains (16 * bid + gix) then c.cgrp else c.cgrp ++ [16 * bid + gix] }

/-- The slot that WAITQ awaits: that of its wait, where it has parked. -/
def State.waitSlot (s : State) (a : Fin 64) : BitVec 32 := match s.e.wait with
  | .ring _ i => i
  | _ => (s.readS a.val).truncate 32

/-- WAITQ: published, the acquire and the slot's address; in error, the ring-error event; else the fragment parks. -/
def State.waitq (s : State) (d a : Fin 64) (x : Scope) (q : Fin 16) : Eff :=
  match s.ringOf q with
  | none => .trap (tProt 5 none none) s
  | some r =>
    let c := (s.ring r).consumes s.g.bid s.g.gix
    let s := s.setRing r c
    let i := s.waitSlot a
    match c.st with
    | .error => .wait (.ring r i) (s.sendRingErr s.g.bid s.g.gix c.ecode q.val)
    | .halted => .wait (.ring r i) s
    | .active =>
      if c.published i then .ok ((s.acqScope x).writeS d.val (c.slotVa i)) else .wait (.ring r i) s

def execWaitq (d a : Fin 64) (x : Scope) (q : Fin 16) (s : State) : Host.Outcome State Fault Refusal :=
  commit (s.groupOnly fun s => s.waitq d a x q)

end Sys2Proof.Machine
end

