-- ==== Sys2Proof/Machine/Rings.lean ====
section
/-! DEFINITION. Rings: claim, publish, release, error, status and restart (R263, R277 to R283, R295, R357). -/

namespace Sys2Proof.Machine

/-- The partial-mask condition of R247, step 1: a non-helper lane that has not executed EXIT is missing. -/
def State.partialMask (s : State) : Bool := Mask.all &&& ~~~ s.rg.helper &&& ~~~ s.rg.exited &&& ~~~ s.re.mask != 0

/-- The checks that the ring instructions share: the Loupe, the mask, the binding (R263). -/
def State.onRing (s : State) (q : Fin 16) (f : Nat → State → Eff) : Eff :=
  s.groupOnly fun s =>
    if s.partialMask then .trap tPartial s
    else match s.ringOf q with
      | none => .trap (tProt 5 none none) s
      | some r => f r s

/-! ### Ring steps (R278 to R281) -/

/-- Room left for claims. -/
def Ring.room (c : Ring) : Nat := c.count - (c.fill - c.read).toNat

/-- A claim of n slots can be met (R279). -/
def Ring.canClaim (c : Ring) (n : Nat) : Bool := c.st == .active && n != 0 && decide (n ≤ c.room)

/-- Indices i to i + n - 1. -/
def slotRun (i : BitVec 32) (n : Nat) : List (BitVec 32) := (List.range n).map fun k => i + BitVec.ofNat 32 k

/-- A run of slots that lies from lo up to hi with no slot marked (R279, R280). -/
def runOk (i : BitVec 32) (n : Nat) (lo hi : BitVec 32) (marks : List (BitVec 32)) : Bool :=
  decide ((i - lo).toNat + n ≤ (hi - lo).toNat) && n != 0 && !((slotRun i n).any marks.contains)

/-- Advance an index over marked slots, clearing each mark. -/
def passMarks : Nat → BitVec 32 → List (BitVec 32) → BitVec 32 × List (BitVec 32)
  | 0, i, ms => (i, ms)
  | f + 1, i, ms => if ms.contains i then passMarks f (i + 1) (ms.filter (· != i)) else (i, ms)

/-- Publish a run of slots (R279); none for a bad publish. -/
def Ring.publish (c : Ring) (i : BitVec 32) (n : Nat) : Option Ring :=
  if runOk i n c.pub c.fill c.pmark then
    let p := passMarks (c.pmark.length + n + 1) c.pub (c.pmark ++ slotRun i n)
    some { c with pub := p.1, pmark := p.2 }
  else none

/-- Release a run of slots (R280); none for a bad release. -/
def Ring.release (c : Ring) (i : BitVec 32) (n : Nat) : Option Ring :=
  if runOk i n c.read c.pub c.rmark then
    let p := passMarks (c.rmark.length + n + 1) c.read (c.rmark ++ slotRun i n)
    some { c with read := p.1, rmark := p.2 }
  else none

/-- Groups with a fragment parked on a ring, or frozen there, as 16 * block + group index; those that have been moved
off their core are among them (R44, R281). -/
def State.parkedOn (s : State) (r : Nat) : List Nat :=
  let on := fun (g : Group) =>
    g.onRings.contains r || g.tab.any fun t => t.2.valid && t.2.st == .parked && t.2.wait.ringNo == some r
  ((s.groups.filter fun c => c.2.live && on c.2).map fun c => 16 * c.2.bid + c.2.gix)
    ++ (s.savedG.filter fun c => on c.2).map Prod.fst

/-- A ring enters the error state, or stays in it with its first code; the event goes to the parties parked on it
(R281). -/
def State.ringError (s : State) (r : Nat) (code : BitVec 8) : State :=
  let c := s.ring r
  if c.st == .error then s
  else
    let s := s.setRing r { c with st := .error, ecode := code }
    (s.parkedOn r).foldl (fun s k => s.sendRingErr (k / 16) (k % 16) code ((s.block (k / 16)).q.idxOf r)) s

/-- QPUB claim (R279). A claim that is refused makes its block a producer too, where R357 says 'have claimed' (log entry
70). -/
def execQpubClaim (d : Fin 64) (q : Fin 16) (a : Fin 64) (s : State) : Host.Outcome State Fault Refusal :=
  commit (s.onRing q fun r s =>
    let c := (s.ring r).produces s.g.bid s.g.gix
    let n := (s.readS a.val).toNat
    if c.canClaim n then
      .ok ((s.setRing r { c with fill := c.fill + BitVec.ofNat 32 n }).writeS d.val (c.fill.zeroExtend 64))
    else .ok ((s.setRing r c).writeS d.val (BitVec.allOnes 64)))

/-- QPUB publish (R279): the release, then the ring step. -/
def execQpubPub (x : Scope) (q : Fin 16) (a : Fin 63) (s : State) : Host.Outcome State Fault Refusal :=
  commit (s.onRing q fun r s =>
    let i : BitVec 32 := (s.readS a.val).truncate 32
    let n := (s.readS (a.val + 1)).toNat
    let s := s.relScope x
    let c := (s.ring r).produces s.g.bid s.g.gix
    let s := s.setRing r c
    if c.st == .error then .ok (s.sendRingErr s.g.bid s.g.gix c.ecode q.val)
    else match c.publish i n with
      | some c => .ok (s.setRing r c)
      | none => .ok (s.ringError r 0x80))

/-- QREL (R280). -/
def execQrel (x : Scope) (q : Fin 16) (a : Fin 63) (s : State) : Host.Outcome State Fault Refusal :=
  commit (s.onRing q fun r s =>
    let i : BitVec 32 := (s.readS a.val).truncate 32
    let n := (s.readS (a.val + 1)).toNat
    let s := s.relScope x
    let c := (s.ring r).consumes s.g.bid s.g.gix
    let s := s.setRing r c
    match c.release i n with
      | some c => .ok (s.setRing r c)
      | none => .ok (s.ringError r 0x81))

/-- QERR (R281, R295): the event goes to the issuing group too. -/
def execQerr (q : Fin 16) (code : BitVec 7) (s : State) : Host.Outcome State Fault Refusal :=
  commit (s.onRing q fun r s =>
    let s := s.ringError r (code.zeroExtend 8)
    .ok (s.sendRingErr s.g.bid s.g.gix (s.ring r).ecode q.val))

def execQstat (d : Fin 64) (q : Fin 16) (w : Fin 8) (s : State) : Host.Outcome State Fault Refusal :=
  commit (s.onRing q fun r s => .ok (s.writeS d.val ((s.ring r).word w.val)))

/-- Restart a ring at a repaired read index (R283); none where it is refused. -/
def Ring.restart (c : Ring) (n : BitVec 32) (h : Bool) : Option Ring :=
  if c.count < (c.pub - n).toNat then none
  else some { c with read := n, fill := c.pub, pmark := [], rmark := [], ecode := 0, st := if h then .halted else .active }

/-- QRESTART, privileged (R148, R283). A number that names no ring raises the protection trap. -/
def execQrestart (d : Fin 64) (a : Fin 63) (h : Bool) (s : State) : Host.Outcome State Fault Refusal :=
  commit (if !s.g.isAgent then (if s.g.isLoupe then .recall s else .trap (tProt 6 none none) s)
    else
      let r := (s.readS a.val).toNat
      if !(s.ring r).live then .trap (tProt 5 none none) s
      else match (s.ring r).restart ((s.readS (a.val + 1)).truncate 32) h with
        | none => .ok (s.writeS d.val 1)
        | some c => .ok ((s.setRing r c).writeS d.val 0))

end Sys2Proof.Machine
end

