-- ==== Sys2Proof/Machine/Parties.lean ====
section
/-! DEFINITION. Events of fragments, groups and Loupe threads: parking and resuming, fusion and deferral, delivery of
asynchronous events, pre-emption, recall and rejoin (R31 to R36, R44, R45, R47, R60 to R68). -/

namespace Sys2Proof.Machine

/-- Bit of a function in the readiness bitmap (R383). -/
def Func.bit : Func → Nat
  | .die d => d.val
  | .vault d => 8 + d.val
  | .base b => 16 + b.val
  | .hbm h => 20 + h.val
  | .cxl p => 28 + p.val
  | .peer l => 32 + l.val
  | .key => 40

/-! ### Parking (R31) -/

/-- A second-tier page can be accessed: its port is ready, and its data is in an expander's DRAM (R82, R400). -/
def State.pageReady (s : State) (page : Nat) : Bool := s.rdymap.getLsbD (28 + (1 + page % 3)) && !s.flash.contains page

/-- The condition of a wait holds. Barriers, SYNCM and MMAC release their fragments themselves; a page fault waits for
command 5, and a record for room in the fault ring. -/
def State.waitOver (s : State) (gid : Nat) : Wait → Bool
  | .none => true
  | .counter k n => n ≤ ((s.block (s.group gid).bid).tc.get Tc.unbound k).value
  | .ring r i => (s.ring r).st == .active && (s.ring r).published i
  | .room r => (s.ring r).canClaim 1
  | .emit r n => (s.ring r).canClaim n
  | .deferred page => s.pageReady page
  | .notReady f => s.rdymap.getLsbD (Func.bit f)
  | .scrub v => !(s.vown.get Vown.reset v).scrub
  | .several fs ps vs => (fs.all fun f => s.rdymap.getLsbD (Func.bit f)) && ps.all s.pageReady
      && vs.all fun v => !(s.vown.get Vown.reset v).scrub
  | .engines => (s.block (s.group gid).bid).idle
  | .sweep _ => true
  | .flags => !s.flagging gid 9
  | .acc f64 t => !(s.block (s.group gid).bid).gids.any fun i => match (s.group i).mmacAt with
      | some a => (accDst a.f.t.val a.f.tacc).any (accDst t f64).contains
      | none => false
  | .stores => !(s.vq.any fun w => w.gid == gid && !w.performed) && !s.wtq.any fun w => w.gid == gid
  | .bar _ _ | .cbar _ | .syncm | .mmac | .fault | .record _ | .entry => false

/-- An entry is parked and its condition holds. -/
def State.canResume (s : State) (gid ent : Nat) : Bool :=
  let g := s.group gid
  let e := g.ent ent
  g.live && e.valid && e.st == .parked && s.waitOver gid e.wait

/-- What a fragment keeps of its wait when it resumes: the count of a WAITC and the slot of a WAITQ stand (R236, R237),
and a sweep still holds its pipe (R208). -/
def Wait.kept (w : Wait) : Wait := match w with
  | .counter _ _ | .ring _ _ | .sweep _ | .stores => w
  | _ => .none

/-- A parked fragment or Loupe thread resumes at its parking instruction. -/
def execParkedResume (gid ent : Nat) (s : State) : Host.Outcome State Fault Refusal :=
  .next (if s.canResume gid ent then
    let g := s.group gid
    let e := g.ent ent
    s.setGroup gid (g.setEnt ent { e with st := .ready, wait := e.wait.kept, since := s.clock })
  else s)

/-! ### Waiting, fusion, deferral (R33 to R36) -/

/-- A ready entry stands at its RPC, and no deferral record of its own comes first (R33, R35). -/
def Group.atRpc (g : Group) (i : Nat) : Bool :=
  g.live && (g.ent i).valid && (g.ent i).st == .ready && (g.ent i).pc == (g.ent i).rpc && (g.ent i).rpc != noPc
    && !g.atDefer i

/-- The entry waits (R33). -/
def State.waitAt (s : State) (gid i : Nat) : State :=
  let g := s.group gid
  s.setGroup gid (g.setEnt i { g.ent i with st := .waiting, wseq := s.clock })

def execFragmentFusion (gid tag : Nat) (s : State) : Host.Outcome State Fault Refusal :=
  let g := s.group gid
  .next (if g.live && g.canFuse tag then s.setGroup gid (g.fuse tag s.clock) else s)

def execDeferralAdvance (gid ent : Nat) (s : State) : Host.Outcome State Fault Refusal :=
  let g := s.group gid
  .next (if g.live && g.atDefer ent then s.setGroup gid (g.advanceDefer ent (g.ent ent).mask s.clock) else s)

/-- Fusion of an ejection record, with its acquire (R63, R64). -/
def execRecordFusion (gid r : Nat) (s : State) : Host.Outcome State Fault Refusal :=
  let g := s.group gid
  .next (if g.live && g.canFuseRec r then
    ((s.setGroup gid (g.fuseRec r s.clock)).flushL1 (coreOf gid)).groupOver gid
  else s)

/-! ### Asynchronous events (R44, R45, R47) -/

/-- The group may take an event now. -/
def Group.takesEvents (g : Group) : Bool :=
  g.live && !g.pend.isEmpty && g.hnd.isNone && !g.forced && !g.frozen && !g.hdone

/-- The handler of the pending event of highest priority, where a handler serves it; else the state in which a
pre-emption has been taken, or a rejoin timeout none of whose bits is set any more has been dropped (R44). -/
def State.eventEntry (s : State) (gid : Nat) : Hw State :=
  let g := s.group gid
  match takePend g.pend with
  | none => .ok s
  | some (p, rest) =>
    let t := s.setGroup gid { g with pend := rest }
    if p.code = 0x30 then t.preemptEntry gid
    else if p.code = 0x33 ∧ g.sr.tout = 0 then .ok t
    else t.tryHandler gid p.code (if p.code = 0x33 then g.sr.tout.zeroExtend 16 else p.info) 0

/-- The pending event of highest priority is taken (R44); not while its save area waits. -/
def State.takeEvent (s : State) (gid : Nat) : State := (s.eventEntry gid).orFail s (s.group gid).bid s

/-- The group takes an event: not while its save area waits, nor a pre-emption while a recall is in progress. -/
def State.canTake (s : State) (gid : Nat) : Bool := (s.group gid).takesEvents && s.takeEvent gid != s

def execAsyncEventTaken (gid : Nat) (s : State) : Host.Outcome State Fault Refusal :=
  .next (if (s.group gid).takesEvents then s.takeEvent gid else s)

/-- The scheduler pre-empts a context (R45). -/
def execPreemption (vi n : Nat) (s : State) : Host.Outcome State Fault Refusal :=
  .next ((s.blocksOf vi n).foldl State.preemptBlock s)

/-- The pre-emption deadline of a block has passed (R47). -/
def execForcedSave (bid : Nat) (s : State) : Host.Outcome State Fault Refusal :=
  let b := s.block bid
  .next (if b.live && b.stopping && !b.saved then ((s.liveGids b).foldl State.forceGroup s).trySave bid else s)

/-! ### Loupe threads (R60 to R68) -/

/-- The thread waits for an entry, and one is allocatable (R60). -/
def State.canRecall (s : State) (tid : Nat) : Bool :=
  let t := s.group tid
  match t.kind with
  | .loupe gid _ _ => t.live && (t.ent 0).wait == .entry && (s.group gid).alloc.isSome
  | _ => false

def execRecall (tid : Nat) (s : State) : Host.Outcome State Fault Refusal :=
  .next (if s.canRecall tid then s.recallAt tid else s)

/-- The thread stands at its record's RPC, and its vault writes can be acknowledged (R62, R64). -/
def State.canRejoin (s : State) (tid : Nat) : Bool :=
  let t := s.group tid
  match t.kind with
  | .loupe gid r _ =>
    t.live && (t.ent 0).valid && (t.ent 0).st == .ready && (t.ent 0).pc == ((s.group gid).recs.get Rec.free r).rpc
      && (s.vaultWaits tid).isEmpty
  | _ => false

def execRejoin (tid : Nat) (s : State) : Host.Outcome State Fault Refusal :=
  .next (if s.canRejoin tid then s.rejoinThread tid else s)

/-- A record whose timer has expired (R66). -/
def Rec.expired (c : Rec) (ejto : BitVec 32) : Bool := c.valid && !c.stopped && c.onl != 0 && ejto != 0 && ejto ≤ c.timer

/-- Records of a group that expire together. -/
def Group.expired (g : Group) : List Nat :=
  if g.live then (List.range 4).filter fun r => (g.recs.get Rec.free r).expired g.sr.ejto else []

/-- The rejoin-timeout event is raised, once for the records that expire together (R66). -/
def execRejoinTimeout (gid : Nat) (s : State) : Host.Outcome State Fault Refusal :=
  let g := s.group gid
  let rs := g.expired
  .next (if rs.isEmpty then s
    else
      let tout := rs.foldl (fun (t : BitVec 4) r => t ||| (1#4 <<< r)) g.sr.tout
      let recs := rs.foldl (fun m r => Store.upd Rec.free m r fun c => { c with stopped := true }) g.recs
      s.setGroup gid ({ g with sr := { g.sr with tout := tout }, recs := recs }.hold ⟨0x33, 0⟩))

/-- A record asks for Loupe contexts for its held lanes (R68). -/
def State.wantsSend (s : State) (gid r : Nat) : Bool :=
  let g := s.group gid
  let c := g.recs.get Rec.free r
  g.live && !g.still && !g.hdone && !(s.block g.bid).stopping && c.valid && c.held != 0

/-- Place of a record's request in the order of R57: arrival, core within the cluster, slot; then the record. -/
def State.sendOrder (s : State) (gid r : Nat) : Nat :=
  ((((s.group gid).recs.get Rec.free r).asked * 8 + cicOf (coreOf gid)) * 32 + slotOf gid) * 4 + r

/-- A held lane of a record can be sent to the Loupe: a context is free, and no request of the cluster comes first
(R57, R68). -/
def State.canSend (s : State) (gid r : Nat) : Bool :=
  let clu := cluOf (coreOf gid)
  s.wantsSend gid r && (s.allocThread clu).isSome &&
    s.groups.all fun c => decide (8704 ≤ c.1) || cluOf (coreOf c.1) != clu ||
      (List.range 4).all fun k => !s.wantsSend c.1 k || decide (s.sendOrder gid r ≤ s.sendOrder c.1 k)

def execHeldLaneSend (gid r : Nat) (s : State) : Host.Outcome State Fault Refusal :=
  .next (if s.canSend gid r then s.sendHeld gid r else s)

end Sys2Proof.Machine
end

