-- ==== Sys2Proof/Machine/Kernels.lean ====
section
/-! DEFINITION. Hardware accesses to an address space, kernel descriptors, and where a cohort fits
(R262, R303, R304, R323, R345 to R347). -/

namespace Sys2Proof.Machine

/-! ### Accesses of the completion engine, the start hardware and admission -/

/-- Physical addresses of consecutive bytes. Unit 576 stands for the walkers; what it translates is not kept. -/
def hwMap (sp : Sp) (need : Need) : Nat → Nat → State → State × Except Xl (List Nat)
  | _, 0, s => (s, .ok [])
  | va, n + 1, s =>
    match s.spTranslate 576 sp va need with
    | (s, .ok pa) => match hwMap sp need (va + 1) n s with
      | (s, .ok pas) => (s, .ok (pa :: pas))
      | r => r
    | (s, x) => (s, .error x)

/-- Read the bytes at physical addresses at the package directory. -/
def readPas (asid : Nat) : List Nat → State → State × List Byte
  | [], s => (s, [])
  | a :: t, s =>
    let (s, b) := s.readPkg asid a 1
    let (s, bs) := readPas asid t s
    (s, b ++ bs)

/-- Replace n bytes at an address of an address space by a function of what they hold; what they held. -/
def State.hwRmw (s : State) (sp : Sp) (va : Word64) (n : Nat) (need : Need) (f : List Byte → List Byte) :
    Hw (State × List Byte) :=
  if !canonical va then .fault
  else match hwMap sp need va.toNat n s with
    | (_, .error x) => x.hw
    | (s', .ok pas) =>
      match pas.find? fun a => s.bad.contains (a / 128) with
      | some a => .bad (a / 128)
      | none =>
        let (s', bs) := readPas sp.asid pas { s' with tlb := s.tlb }
        let new := f bs
        .ok (if new = bs then s' else (pas.zip new).foldl (fun s p => s.writePkg sp.asid p.1 [p.2]) s', bs)

/-- Read n bytes. -/
def State.hwRead (s : State) (sp : Sp) (va : Word64) (n : Nat) : Hw (State × List Byte) := s.hwRmw sp va n .load id

/-- The address lies in a transcode aperture. -/
def State.inAperture (s : State) (sp : Sp) (va : Word64) : Bool :=
  match hwMap sp .nothing va.toNat 1 s with
  | (_, .ok [a]) => paKind s.hbmFine a == .aperture
  | _ => false

/-! ### Kernel descriptors (R303, R304) -/

/-- A descriptor's fields (R303). -/
def Kernel.parse (addr : Word64) (bs : List Byte) : Kernel :=
  { addr := addr, tcb := (bs.drop 96).take 32, ratt := (bs.drop 88).take 8
    tvec := (List.range 8).map fun k => BitVec.ofNat 32 (numAt bs (56 + 4 * k) 4)
    qn := numAt bs 52 1, cmem := numAt bs 51 1, ch := numAt bs 50 1 / 16, cw := numAt bs 50 1 % 16
    clvl := numAt bs 49 1, grp := numAt bs 48 1, accn := numAt bs 47 1, tile4k := numAt bs 46 1
    regs := numAt bs 45 1, klife := numAt bs 44 1, entry := BitVec.ofNat 32 (numAt bs 40 4)
    ejta := BitVec.ofNat 64 (numAt bs 32 8), ejtn := BitVec.ofNat 32 (numAt bs 28 4)
    gota := BitVec.ofNat 64 (numAt bs 20 8), cbase := BitVec.ofNat 64 (numAt bs 12 8) }

/-- Binding of a TCB byte (R303). -/
def Binding.ofTcb (b : Nat) : Binding := match b / 64 with
  | 0 => .unbound
  | 1 => .prism (b % 8)
  | 2 => .zoom
  | _ => .soft

/-- A TCB byte is valid: bits 5:3 zero, and bits 2:0 but for a Prism channel. -/
def tcbOk (b : Nat) : Bool := b / 8 % 8 == 0 && (b / 64 == 1 || b % 8 == 0)

/-- Prism channels that a descriptor binds, and its Zoom contexts (R262). -/
def Kernel.channels (k : Kernel) : List Nat :=
  k.tcb.filterMap fun b => if b.toNat / 64 = 1 then some (b.toNat % 8) else none

def Kernel.zooms (k : Kernel) : Nat := (k.tcb.filter fun b => b.toNat / 64 == 2).length

/-- What R303 and R304 ask of a descriptor. -/
def Kernel.ok (k : Kernel) (bs : List Byte) : Bool :=
  let w := fun (i : Nat) => k.tvec.getD i noPc
  k.tcb.all (fun b => tcbOk b.toNat) && k.channels.eraseDups.length == k.channels.length
    && (List.range 8).all (fun c =>
      let r := (k.ratt.getD c 0).toNat
      r / 16 % 8 == 0 && (r / 128 == 0 || (k.channels.contains c && decide (r % 16 < k.qn))))
    && decide (k.qn ≤ 16 ∧ 1 ≤ k.cmem ∧ k.cmem ≤ 24 ∧ k.clvl ≤ 6 ∧ 1 ≤ k.grp ∧ k.grp ≤ 16 ∧ k.accn ≤ 10
      ∧ k.tile4k ≤ 128 ∧ 16 ≤ k.regs ∧ k.regs ≤ 96 ∧ k.regs % 8 = 0 ∧ k.klife ≤ 2)
    && (if k.clvl = 1 then decide (1 ≤ k.ch ∧ k.ch ≤ 8 ∧ 1 ≤ k.cw ∧ k.cw ≤ 8 ∧ k.cmem = k.ch * k.cw)
        else decide (k.ch = 0 ∧ k.cw = 0))
    && decide (k.entry.toNat < 2 ^ 30) && k.tvec.all (fun p => p == noPc || pcSlot p != 3)
    && (k.clvl != 0 || k.cmem == 1) && w 6 == noPc && w 7 == noPc && ((w 0 == noPc) == (w 1 == noPc))
    && aligned k.cbase 64 && (bs.take 12).all (· == 0) && ((bs.drop 53).take 3).all (· == 0)

/-- Placement level of a CLVL code. -/
def Level.ofNum : Nat → Level
  | 0 => .core
  | 1 => .neigh
  | 2 => .clu
  | 3 => .die
  | 4 => .stk
  | 5 => .ipr
  | _ => .pkg

/-! ### What fits a core (R345, R346) -/

/-- Free slots of an occupancy word, rising. -/
def freeSlots (w : Word64) : List Nat := (List.range 16).filter fun k => w.getLsbD (32 + k)

/-- Mask of n accumulator tiles from tile t. -/
def accRun (t n : Nat) : Nat := (2 ^ n - 1) * 2 ^ t

/-- The lowest run of n free tiles that starts at an even tile. -/
def accStart (w : Word64) (n : Nat) : Option Nat :=
  [0, 2, 4, 6, 8].find? fun t => decide (t + n ≤ 10) && (List.range n).all fun i => w.getLsbD (t + i)

/-- The word has what a block of the kernel takes. -/
def Kernel.fitsWord (k : Kernel) (w : Word64) : Bool :=
  decide (k.grp ≤ (freeSlots w).length) && decide (k.reg8 ≤ bits w 24 8) && decide (k.tile4k ≤ bits w 16 8)
    && (k.accn == 0 || (accStart w k.accn).isSome)

/-- What a block takes: its slots and its accumulator tiles. -/
def Kernel.slotsOf (k : Kernel) (w : Word64) : List Nat := (freeSlots w).take k.grp

def Kernel.accOf (k : Kernel) (w : Word64) : Nat :=
  if k.accn = 0 then 0 else accRun ((accStart w k.accn).getD 0) k.accn

/-- The word after the block has taken its resources. -/
def Kernel.takeWord (k : Kernel) (w : Word64) : Word64 :=
  let slots := (k.slotsOf w).foldl (fun m i => m + 2 ^ (32 + i)) 0
  w - BitVec.ofNat 64 (slots + k.reg8 * 2 ^ 24 + k.tile4k * 2 ^ 16 + k.accOf w)

/-- A core's reservation admits the queue: bounded queues run on the cores they reserve, normal ones on no reserved
core (R336, R346). -/
def rsvOk (w : Word64) (bounded : Bool) (q : Nat) : Bool :=
  if bounded then w.getLsbD 62 && bits w 57 5 == q else !w.getLsbD 62

/-- The core is usable and in the partition (R20, R345). -/
def State.usable (s : State) (vi c : Nat) : Bool :=
  (s.partCores vi).contains c && !(s.occOf c).getLsbD 63 && s.rdymap.getLsbD (dieOf c)

/-- Kernels of the blocks that hold a core: on it, or about to start on it. -/
def State.kernsOn (s : State) (c : Nat) : List Kernel :=
  ((s.blocks.map Prod.snd).filter fun b => b.live && !b.saved && b.pcore == c).map (·.kern)
    ++ (s.mail.get {} c).recs.map fun r => r.2.kern

/-- No Prism channel that the kernel binds is held on the core (R262). -/
def State.channelsFree (s : State) (c : Nat) (k : Kernel) : Bool :=
  (s.kernsOn c).all fun h => h.channels.all fun x => !k.channels.contains x

/-- Zoom contexts held in a cluster (R262). -/
def State.zoomsUsed (s : State) (clu : Nat) : Nat := (((cluCores clu).flatMap s.kernsOn).map Kernel.zooms).sum

/-- A block of the kernel fits the core now. -/
def State.fitsCore (s : State) (bounded : Bool) (q : Nat) (k : Kernel) (c : Nat) : Bool :=
  let w := s.occOf c
  rsvOk w bounded q && k.fitsWord w && s.channelsFree c k

/-- The first n fitting cores of a unit, within each cluster's 16 Zoom contexts. -/
def chooseCores (fit : Nat → Bool) (zooms : Nat → Nat) (z : Nat) : Nat → List Nat → List Nat → Option (List Nat)
  | 0, acc, _ => some acc.reverse
  | _ + 1, _, [] => none
  | n + 1, acc, c :: t =>
    let mine := (acc.filter fun d => cluOf d == cluOf c).length
    if fit c && decide (zooms (cluOf c) + (mine + 1) * z ≤ 16) then chooseCores fit zooms z n (c :: acc) t
    else chooseCores fit zooms z (n + 1) acc t

/-! ### Candidate units (R347) -/

/-- The numbers below n from d on, wrapping round. -/
def rot (n d : Nat) : List Nat := (List.range n).map fun i => (d + i) % n

/-- Cores a to a + n - 1. -/
def coreRun (a n : Nat) : List Nat := (List.range n).map (a + ·)

/-- Units of a level, from a die on. -/
def unitsFrom (die : Nat) (k : Kernel) : Level → List (List Nat)
  | .core => (rot 8 die).flatMap fun d => (coreRun (64 * d) 64).map fun c => [c]
  | .neigh => (rot 8 die).flatMap fun d => (List.range (9 - k.ch)).flatMap fun r => (List.range (9 - k.cw)).map fun c =>
      (List.range (k.ch * k.cw)).map fun m => 64 * d + (r + m / k.cw) * 8 + c + m % k.cw
  | .clu => (rot 8 die).flatMap fun d => (List.range 8).map fun c => cluCores (8 * d + c)
  | .die => (rot 8 die).map fun d => coreRun (64 * d) 64
  | .stk => (rot 4 (die / 2)).map fun d => coreRun (128 * d) 128
  | .ipr => (rot 2 (die / 4)).map fun d => coreRun (256 * d) 256
  | .pkg => [coreRun 0 512]

/-- Cores for n members of a cohort, by first fit over some units. -/
def firstUnit (usable fit : Nat → Bool) (zooms : Nat → Nat) (z n : Nat) (units : List (List Nat)) : Option (List Nat) :=
  (units.filter fun u => u.all usable).findSome? fun u => chooseCores fit zooms z n [] u

/-- A core that the test of ECODE 0x03 counts as usable: OUT set only for a clear ready bit is ignored (R332). -/
def State.everUsable (s : State) (vi c : Nat) : Bool :=
  (s.partCores vi).contains c && (!(s.occOf c).getLsbD 63 || !s.rdymap.getLsbD (dieOf c))

/-- A cohort of the kernel could be placed in the partition, were every core empty (R332, code 0x03). -/
def State.canEver (s : State) (vi : Nat) (bounded : Bool) (q : Nat) (k : Kernel) : Bool :=
  let fit := fun c => rsvOk (s.occOf c) bounded q && k.fitsWord 0x0000FFFF808003FF
  (firstUnit (s.everUsable vi) fit (fun _ => 0) k.zooms k.cmem (unitsFrom 0 k (Level.ofNum k.clvl))).isSome

end Sys2Proof.Machine
end

