-- ==== Sys2Proof/Machine/Kill.lean ====
section
/-! DEFINITION. Ready lists, and kill and relaunch of blocks (R260, R343, R353). -/

namespace Sys2Proof.Machine

def State.push (s : State) (vi l : Nat) (e : REntry) : State := s.setRlist vi l ((s.rlist vi l).push e)

/-! ### Task records in a batch area (R284, R353) -/

/-- ATT and NOREL of a record. -/
def recAtt (bs : List Byte) : Nat := (bs.getD 40 0).toNat
def recNorel (bs : List Byte) : Bool := (bs.getD 46 0).getLsbD 0

/-- A kill increments ATT. -/
def bumpAtt (bs : List Byte) : List Byte := bs.set 40 (bs.getD 40 0 + 1)

/-- Kill blocks of one context for the fetch fault of a group at a word (R260, R353): the record of kind 2, the stop and
scrub, then the relaunch entry, or the context's end. -/
def State.killBlocks (s : State) (bids : List Nat) (gid : Nat) (pc : PC) (slot : Nat) : State :=
  let g := s.group gid
  let b := s.block g.bid
  let s := bids.foldl (fun s i => ({ s with batches := s.batches.upd [] i (List.map bumpAtt) } : State)) s
  let recs := bids.flatMap fun i => s.batches.get [] i
  let att := (recs.map recAtt).foldl Nat.max (b.att.toNat + 1)
  let t : Trap := { code := 0x40 }
  let s := s.record b.pcore b.vi b.ctx (recordBytes (s.times.get 0 (dieOf b.pcore)) (t.synd slot) g.sr.faddr pc b.ctx
    (b.area.getD 0) b.pcore (slotOf gid) att 2)
  if (s.ctx b.vi b.ctx).cstate == .ending then s
  else if recs.isEmpty || decide (3 < att) || recs.any recNorel then s.endContext b.vi b.ctx b.pcore 0x40
  else
    let s := bids.foldl (fun s i =>
      let a := (s.block i).area
      let s := s.stopBlock i false
      { s with starts := s.starts.map fun x => (x.1, if x.1 = i then { x.2 with relaunch := true, area := a } else x.2) }) s
    let p := s.pkts.get {} (s.lrecs.get {} b.lrec).pkt
    let e : REntry := { relaunch := true, rlcoh := bids.length, ctxn := b.ctx, q := p.q, item := b.lrec, blocks := bids }
    (s.push b.vi p.list e).stopDone b.vi b.ctx

/-- The other members of a block's cohort, and itself (R42). -/
def State.cohortOf (s : State) (bid : Nat) : List Nat := (s.cohorts.get Cohort.empty (s.block bid).coh).members

end Sys2Proof.Machine
end

