-- ==== Sys2Proof/Machine/Queues.lean ====
section
/-! DEFINITION. Queues, packets, dependency counters, completion actions, ring objects (R325 to R334, R337, R350, R355). -/

namespace Sys2Proof.Machine

/-! ### Registers -/

def qKey (vi q : Nat) : Nat := vi * 32 + q

def State.queue (s : State) (vi q : Nat) : Queue := s.queues.get {} (qKey vi q)

def State.setQueue (s : State) (vi q : Nat) (x : Queue) : State := { s with queues := s.queues.set {} (qKey vi q) x }

/-- Slots of a queue (R326). -/
def Queue.slots (x : Queue) : Nat := 2 ^ (x.lsize + 4)

/-- The context exists (R361). -/
def Ctx.exists' (c : Ctx) : Bool := c.cstate == .live || c.cstate == .stopping || c.cstate == .stopped

/-- An error met by hardware for a context ends it: 0x41 for an uncorrectable one (R363, R414). -/
def State.hwBad (s : State) (vi n asid line : Nat) : State :=
  (s.logBad line asid).endContext vi n 0 0x41

/-! ### Packets (R332, R334) -/

def Pkt.num (p : Pkt) (a n : Nat) : Nat := numAt p.bytes a n

def Pkt.typ (p : Pkt) : Nat := p.num 0 1
def Pkt.prio (p : Pkt) : Nat := p.num 1 1 % 4
def Pkt.intr (p : Pkt) : Bool := p.num 3 1 % 2 == 1
def Pkt.depc (p : Pkt) : Word64 := BitVec.ofNat 64 (p.num 8 8)
def Pkt.compl (p : Pkt) : Word64 := BitVec.ofNat 64 (p.num 16 8)
def Pkt.succ (p : Pkt) : Word64 := BitVec.ofNat 64 (p.num 24 8)
def Pkt.kd (p : Pkt) : Word64 := BitVec.ofNat 64 (p.num 32 8)
def Pkt.argp (p : Pkt) : Word64 := BitVec.ofNat 64 (p.num 40 8)
def Pkt.ncoh (p : Pkt) : Nat := p.num 48 4
def Pkt.extent (p : Pkt) : Nat := p.num 52 4
/-- RBIND of a LAUNCH or a NODE. -/
def Pkt.rbind (p : Pkt) : Word64 := BitVec.ofNat 64 (if p.typ = 1 then p.num 56 8 else p.num 48 8)
def Pkt.nodeRing (p : Pkt) : Nat := p.num 40 2
def Pkt.batch (p : Pkt) : Nat := p.num 42 1
def Pkt.flush (p : Pkt) : Nat := if p.num 43 1 = 0 then 20 else p.num 43 1
def Pkt.stop (p : Pkt) : Nat := p.num 44 4
def Pkt.taddr (p : Pkt) : Word64 := BitVec.ofNat 64 (p.num 32 8)
def Pkt.value (p : Pkt) : Nat := p.num 40 8
def Pkt.op (p : Pkt) : Nat := p.num 48 1

/-- A packet that binds a kernel descriptor. -/
def Pkt.isKernel (p : Pkt) : Bool := p.typ == 1 || p.typ == 2

/-- Fields and reserved bits (R332, code 0x01; R334). -/
def Pkt.fieldsOk (p : Pkt) : Bool :=
  decide (1 ≤ p.typ ∧ p.typ ≤ 4) && p.num 1 1 / 4 == 0 && decide (p.num 2 1 ≤ 6) && p.num 3 1 / 2 == 0 && p.num 4 4 == 0
    && (match p.typ with
      | 1 => true
      | 2 => decide (1 ≤ p.batch ∧ p.batch ≤ 96) && p.num 56 8 == 0
      | 3 => decide (p.op ≤ 2) && p.num 49 15 == 0
      | _ => p.num 32 32 == 0)

/-- A counter or target address that R332 refuses with code 0x07. -/
def addrBad (a : Word64) : Bool := a != 0 && (!canonical a || !aligned a 8)

/-- Ready list of a packet (R331). -/
def Pkt.listNo (p : Pkt) (bounded : Bool) : Nat := if bounded then 0 else Nat.max 1 p.prio

/-! ### Pushing (R330, R331, R343) -/

/-- Push an admitted packet to its ready list. -/
def State.pushPkt (s : State) (id : Nat) : State :=
  let p := s.pkts.get {} id
  let s := { s with pkts := s.pkts.set {} id { p with st := .pushed } }
  s.push p.vi p.list { relaunch := false, rlcoh := 0, ctxn := p.ctxn, q := p.q, item := id, blocks := [] }

/-- Packets armed on a counter, in the order armed. -/
def State.armedOn (s : State) (asid : Nat) (a : Word64) : List Nat :=
  (s.pkts.filter fun c => c.2.st == .armed && c.2.asid == asid && c.2.depc == a).map Prod.fst

/-! ### Decrements (R21, R329) -/

/-- The address space of a queue: its ASID, under the page table of its context (log entry 67). -/
def State.space' (s : State) (vi n asid : Nat) : Sp := (s.ctx vi n).sp asid

/-- Decrement a counter at its home: 0 stays 0 and sets UFL; from 1 to 0, every packet armed on it is pushed. With the
next state, the counter's old value. -/
def State.decrement (s : State) (vi n asid : Nat) (a : Word64) : Hw (State × Nat) :=
  let sp := s.space' vi n asid
  if !canonical a || !aligned a 8 || s.inAperture sp a then .fault
  else (s.hwRmw sp a 8 .both fun bs => toBytes 8 (ofBytes bs - 1)).bind fun r =>
    let old := ofBytes r.2
    .ok (if old = 0 then (r.1.setIface vi { r.1.iface vi with ufl := true }, 0)
      else if old = 1 then ((r.1.armedOn asid a).foldl State.pushPkt r.1, 1)
      else (r.1, old))

/-- A write of qdec that is dropped (R329). -/
def State.dropDec (s : State) (vi : Nat) : State := s.setIface vi { s.iface vi with dfl := true }

/-- A decrement of SUCC, TDONE or qdec: one that fails ends the context with 0x43, but one of qdec is dropped (R329,
R333); none while it must wait. -/
def State.applyDec (s : State) (d : Dec) : Option State :=
  match if d.qdec && !(s.ctx d.vi d.ctxn).exists' then .fault else s.decrement d.vi d.ctxn d.asid d.addr with
  | .ok r => some r.1
  | .fault => some (if d.qdec then s.dropDec d.vi else s.endContext d.vi d.ctxn 0 0x43)
  | .bad line => some (s.hwBad d.vi d.ctxn d.asid line)
  | .wait _ => none

/-- The completion engine applies the oldest decrement of a context to a counter. -/
def execDependencyDecrement (vi n : Nat) (addr : BitVec 64) (s : State) : Host.Outcome State Fault Refusal :=
  .next (match findIx (fun (d : Dec) => d.vi == vi && d.ctxn == n && d.addr == addr) s.decs 0 with
    | none => s
    | some (i, d) => (({ s with decs := s.decs.eraseIdx i } : State).applyDec d).getD s)

/-- A write of qdec: a decrement in the queue's ASID, or dropped with DFL (R329); one that must wait is applied later. -/
def State.qdec (s : State) (vi q : Nat) (a : Word64) : State :=
  let x := s.queue vi q
  let d : Dec := { vi := vi, q := q, asid := x.asid, ctxn := x.ctxn, addr := a, qdec := true }
  (s.applyDec d).getD { s with decs := s.decs ++ [d] }

def execQdecWrite (vi q : Nat) (addr : BitVec 64) (s : State) : Host.Outcome State Fault Refusal :=
  .next (if q < 32 then s.qdec vi q addr else s)

/-! ### Completion actions (R333) -/

/-- Scope codes 0 to 6 (R87). -/
def Scope.ofNum : Nat → Scope
  | 0 => .core
  | 1 => .clu
  | 2 => .die
  | 3 => .stk
  | 4 => .ipr
  | 5 => .pkg
  | _ => .sys

/-- What follows a hardware access for a completion: the rest, the context's end with 0x43, or a wait. -/
def Hw.then {α : Type} (r : Hw α) (s : State) (p : Pkt) (k : α → Option State) : Option State := match r with
  | .ok x => k x
  | .fault => some (s.endContext p.vi p.ctxn 0 0x43)
  | .bad line => some (s.hwBad p.vi p.ctxn p.asid line)
  | .wait _ => none

/-- The address space of a packet. -/
def State.pktSp (s : State) (p : Pkt) : Sp := s.space' p.vi p.ctxn p.asid

/-- A read-modify-write of a 64-bit word for a packet; an aperture refuses it (R85). -/
def State.pktRmw (s : State) (p : Pkt) (a : Word64) (f : Nat → Nat) : Hw (State × List Byte) :=
  if s.inAperture (s.pktSp p) a then .fault
  else s.hwRmw (s.pktSp p) a 8 .both fun bs => toBytes 8 (f (ofBytes bs) % 2 ^ 64)

/-- Step 4 of the completion actions; the packet is complete (R333, R334). -/
def State.finishPkt (s : State) (id : Nat) : State :=
  let p := s.pkts.get {} id
  let x := s.queue p.vi p.q
  let s : State := { s with
    msix := if p.intr then s.msix ++ [(p.vi, x.vec.toNat)] else s.msix
    pkts := s.pkts.erase id }
  if x.fence == some id then s.setQueue p.vi p.q { x with fence := none } else s

/-- Steps 2 to 4 of the completion actions, in order; none while a target is not ready. -/
def State.complete (s : State) (id : Nat) : Option State :=
  let p := s.pkts.get {} id
  let succ := fun (s : State) =>
    if p.succ = 0 then some (s.finishPkt id)
    else (s.decrement p.vi p.ctxn p.asid p.succ).then s p fun r => some (r.1.finishPkt id)
  if p.compl = 0 then succ s else (s.pktRmw p p.compl (· + 1)).then s p fun r => succ r.1

/-- The release at a scope of what the clusters of a partition hold (R334). -/
def State.drainPart (s : State) (vi : Nat) (x : Scope) : State :=
  (s.iface vi).clus.foldl (fun s k => s.drain k x) s

/-- A pushed SIGNAL performs its store or add, and its completion actions (R334). -/
def State.signal (s : State) (id : Nat) : Option State :=
  let p := s.pkts.get {} id
  if p.op = 0 ∨ p.taddr = 0 then s.complete id
  else (if p.op = 1 then s.hwRmw (s.pktSp p) p.taddr 8 .store fun _ => toBytes 8 p.value
    else s.pktRmw p p.taddr (· + p.value)).then s p fun r => r.1.complete id

/-- A packet of a type that has been admitted and is not armed. -/
def State.pktIs (s : State) (id typ : Nat) : Bool :=
  let p := s.pkts.get {} id
  (s.pkts.any fun c => c.1 == id) && p.typ == typ && p.st != .armed

def execSignalExecute (pkt : Nat) (s : State) : Host.Outcome State Fault Refusal :=
  .next (if s.pktIs pkt 3 then (s.signal pkt).getD s else s)

/-- A FENCEQ completes once every packet admitted before it on its queue has completed (R334). -/
def State.fenceDone (s : State) (id : Nat) : Bool :=
  let p := s.pkts.get {} id
  s.pktIs id 4 && !s.pkts.any fun c => decide (c.1 < id) && c.2.vi == p.vi && c.2.q == p.q

def State.fenceq (s : State) (id : Nat) : Option State :=
  let p := s.pkts.get {} id
  (s.drainPart p.vi (Scope.ofNum (p.num 2 1))).complete id

def execFenceqComplete (pkt : Nat) (s : State) : Host.Outcome State Fault Refusal :=
  .next (if s.fenceDone pkt then (s.fenceq pkt).getD s else s)

/-- A block end decrements REMAIN, or RUN of a node; at 0 a launch runs its completion actions and frees the record
(R350, R351). -/
def State.remain (s : State) (r : Nat) : Option State :=
  let l := s.lrecs.get {} r
  if !l.live then some s
  else if l.node then some { s with lrecs := s.lrecs.set {} r { l with run := l.run - 1 } }
  else if l.remain = 1 then (s.complete l.pkt).map fun s => { s with lrecs := s.lrecs.erase r }
  else some { s with lrecs := s.lrecs.set {} r { l with remain := l.remain - 1 } }

def execRemainDecrement (lrec : Nat) (s : State) : Host.Outcome State Fault Refusal :=
  .next (if s.ends.contains lrec then
    (({ s with ends := s.ends.erase lrec } : State).remain lrec).getD s
  else s)

/-- Pushes that waited enter a ready list (R343). -/
def execReadyListPush (vi l : Nat) (s : State) : Host.Outcome State Fault Refusal :=
  .next (let r := s.rlist vi l
    if r.waiting.isEmpty then s else s.setRlist vi l (RList.flush r.waiting.length r))

/-! ### Queue commands and the doorbell (R327, R328, R337) -/

/-- Reserved cores of the bounded queues that are not disabled, with this one (R327, R336). -/
def State.reserved (s : State) (vi q : Nat) : Nat :=
  ((List.range 32).map fun k =>
    let x := s.queue vi k
    if x.cls && (k = q || x.st != .disabled) then x.res else 0).sum

/-- CMD 1. -/
def State.enableQueue (s : State) (vi q : Nat) : State :=
  let x := s.queue vi q
  if x.st != .disabled then s
  else
    let x := { x with wr := 0, rd := 0 }
    let bad : BitVec 8 :=
      if !(s.iface vi).owns x.asid || !(decide (x.ctxn < 256) && (s.ctx vi x.ctxn).exists') then 2
      else if x.cls && decide ((s.partCores vi).length < s.reserved vi q) then 9
      else 0
    s.setQueue vi q (if bad = 0 then { x with st := .active } else { x with st := .error, ecode := bad })

def execQueueEnable (vi q : Nat) (s : State) : Host.Outcome State Fault Refusal := .next (if q < 32 then s.enableQueue vi q else s)

/-- Blocks that serve the packets of a queue. -/
def State.queueBlocks (s : State) (vi q : Nat) : List Nat :=
  (s.blocks.filter fun c => c.2.live && !c.2.killed && c.2.vi == vi && s.queueNo c.2 == q
    && (s.lrecs.get {} c.2.lrec).live).map Prod.fst

/-- CMD 2 (R337, steps 1 to 3); a decrement of the queue's work that waits is still applied (R21). -/
def State.resetQueue (s : State) (vi q : Nat) : State :=
  let x := s.queue vi q
  if x.st != .active && x.st != .error then s
  else
    let s := s.setQueue vi q { x with st := .resetting, ecode := 0, fence := none, tokens := allDirs }
    let mine := fun (p : Pkt) => p.vi == vi && p.q == q
    let s := (s.areasOf mine).foldl (fun s a => s.returnArea 576 a.1 a.2.1 a.2.2) s
    let s := (s.queueBlocks vi q).foldl (fun s bid =>
      let b := s.block bid
      let s := match b.area with
        | some i => s.returnArea b.pcore b.vi b.ctx i
        | none => s
      s.stopBlock bid false) s
    (s.dropWork mine).stopDone vi x.ctxn

def execQueueReset (vi q : Nat) (s : State) : Host.Outcome State Fault Refusal := .next (if q < 32 then s.resetQueue vi q else s)

/-- Work of a queue, or of a context, that is neither performed nor dropped: its engine operations, its decrements, the
bits of its save areas (R337, R363). -/
def State.owes (s : State) (isCtx : Bool) (vi n : Nat) : Bool :=
  let c := if isCtx then n else (s.queue vi n).ctxn
  (s.blocks.any fun b => b.2.killed && b.2.vi == vi && b.2.ctx == c)
    || (s.decs.any fun d => !d.qdec && d.vi == vi && (if isCtx then d.ctxn == n else d.q == n))
    || s.frees.any fun f => f.1 == ctxKey vi c

/-- Directories that have still to return a quiesce token. -/
def State.tokens (s : State) (isCtx : Bool) (vi n : Nat) : List Nat :=
  if isCtx then (if (s.ctx vi n).cstate == .ending then (s.ctx vi n).tokens else [])
  else if (s.queue vi n).st == .resetting then (s.queue vi n).tokens else []

/-- A directory returns its quiesce token; with the last, a resetting queue becomes disabled and an ending context free
(R337, R363). -/
def State.tokenOf (s : State) (isCtx : Bool) (vi n u : Nat) : State :=
  let ts := s.tokens isCtx vi n
  if !ts.contains u then s
  else
    let rest := ts.erase u
    if isCtx then
      let c := s.ctx vi n
      s.setCtx vi n (if rest.isEmpty then { c with tokens := [], cstate := .free, busy := false } else { c with tokens := rest })
    else
      let x := s.queue vi n
      s.setQueue vi n (if rest.isEmpty then { x with tokens := [], st := .disabled, ecode := 0 } else { x with tokens := rest })

/-- The next directory returns its token, once nothing of the work is left. -/
def State.token (s : State) (isCtx : Bool) (vi n : Nat) : State :=
  if s.owes isCtx vi n then s
  else match s.tokens isCtx vi n with
    | [] => s
    | u :: _ => s.tokenOf isCtx vi n u

def execQuiesceToken (isCtx : Bool) (vi n : Nat) (s : State) : Host.Outcome State Fault Refusal :=
  .next (if n < (if isCtx then 256 else 32) then s.token isCtx vi n else s)

/-- A write of qwr (R328). -/
def State.doorbell (s : State) (vi q : Nat) (v : BitVec 32) : State :=
  let x := s.queue vi q
  if x.st == .active && decide (x.slots < (v - x.rd).toNat) then
    s.setQueue vi q { x with wr := v, st := .error, ecode := 8 }
  else s.setQueue vi q { x with wr := v }

def execQueueDoorbell (vi q : Nat) (v : BitVec 32) (s : State) : Host.Outcome State Fault Refusal :=
  .next (if q < 32 then s.doorbell vi q v else s)

/-! ### Admission (R328 to R332) -/

/-- Features that a descriptor needs and the context lacks (R169, R306). -/
def Kernel.lacks (k : Kernel) (c : Ctx) : Bool :=
  (k.zooms != 0 && !c.feat0.getLsbD 20) || (k.klife == 1 && !c.feat0.getLsbD 25) || (k.klife == 2 && !c.feat0.getLsbD 24)

/-- Result of a check: the first failing code, a wait, or an uncorrectable error. -/
inductive Adm
  | ok (p : Pkt)
  | code (c : BitVec 8)
  | wait (w : Wait)
  | bad (line : Nat)

/-- Code 0x05 of the bound rings. -/
def State.ringsBad (s : State) (vi : Nat) (p : Pkt) (rs : List Nat) : Bool :=
  (rs.any fun r => !(s.ring r).live || (s.ring r).vi != vi)
    || (p.typ == 2 &&
      let c := s.ring p.nodeRing
      !c.live || !(s.iface vi).owns c.asid || c.lsize != 6)

/-- Codes 0x02 to 0x05 and 0x07 of a packet that binds a descriptor. -/
def State.admitKernel (s : State) (vi q : Nat) (p : Pkt) : Adm :=
  let c := s.ctx vi p.ctxn
  match s.hwRead (s.pktSp p) p.kd 128 with
  | .wait w => .wait w
  | .bad line => .bad line
  | .fault => .code 2
  | .ok (_, bs) =>
    let k := Kernel.parse p.kd bs
    if p.typ = 1 ∧ p.ncoh * k.cmem * k.grp * 96 < p.extent then .code 1
    else if !aligned p.kd 128 || !k.ok bs then .code 2
    else if (p.typ == 2 && (k.grp != 1 || k.clvl != 0)) || !s.canEver vi (s.queue vi q).cls q k then .code 3
    else if k.lacks c then .code 4
    else if k.qn ≠ 0 ∧ p.rbind = 0 then .code 5
    else match s.hwRead (s.pktSp p) p.rbind (4 * k.qn) with
      | .wait w => .wait w
      | .bad line => .bad line
      | .fault => if s.ringsBad vi p [] then .code 5 else .code 7
      | .ok (_, rb) =>
        let rs := (List.range k.qn).map fun i => numAt rb (4 * i) 4
        if s.ringsBad vi p rs then .code 5
        else
          let k := { k with lpool := s.pools.contains (p.asid, k.cbase) }
          .ok { p with kern := k, rings := if p.typ = 2 then rs ++ [p.nodeRing] else rs }

/-- Every check of R332 but for the arming decrement. -/
def State.admitCheck (s : State) (vi q : Nat) (p : Pkt) : Adm :=
  let c := s.ctx vi p.ctxn
  let addrs := [p.depc, p.compl, p.succ] ++ (if p.typ = 3 then [p.taddr] else [])
  let late := fun (r : Adm) => match r with
    | .ok p =>
      if addrs.any addrBad || (p.depc != 0 && s.inAperture (s.pktSp p) p.depc) then .code 7 else .ok p
    | r => r
  if !p.fieldsOk then .code 1
  else if !(decide (p.ctxn < 256) && c.exists') then .code 2
  else late (if p.isKernel then s.admitKernel vi q p else .ok p)

/-- Admit a checked packet: the arming decrement or the push, and qrd passes it. -/
def State.admitPkt (s : State) (vi q : Nat) (p : Pkt) : State :=
  let x := s.queue vi q
  let id := s.pktNext
  let p := { p with list := p.listNo x.cls }
  let pass := fun (s : State) =>
    let x := s.queue vi q
    s.setQueue vi q { x with rd := x.rd + 1, fence := if p.typ = 4 then some id else x.fence }
  if p.depc = 0 then (pass { s with pkts := s.pkts.set {} id p, pktNext := id + 1 }).pushPkt id
  else if 65536 ≤ (s.pkts.filter fun c => c.2.st == .armed).length then s
  else match s.decrement vi x.ctxn x.asid p.depc with
    | .wait _ => s
    | .bad line => s.hwBad vi x.ctxn x.asid line
    | .fault => s.setQueue vi q { x with st := .error, ecode := 7 }
    | .ok (s, old) =>
      if old = 0 then s.setQueue vi q { x with st := .error, ecode := 6 }
      else
        let s := pass { s with pkts := s.pkts.set {} id { p with st := .armed }, pktNext := id + 1 }
        if old = 1 then s.pushPkt id else s

/-- The next packet of a queue, read and checked (R328, R332). -/
def State.nextPkt (s : State) (vi q : Nat) : State × Adm :=
  let x := s.queue vi q
  if !(s.ctx vi x.ctxn).exists' then (s, .code 2)
  else match s.hwRead (s.space' vi x.ctxn x.asid) (x.base + BitVec.ofNat 64 (64 * (x.rd.toNat % x.slots))) 64 with
    | .wait w => (s, .wait w)
    | .bad line => (s, .bad line)
    | .fault => (s, .code 7)
    | .ok (s, bs) => (s, s.admitCheck vi q { vi := vi, q := q, ctxn := x.ctxn, asid := x.asid, bytes := bs })

/-- The queue has a packet that may be admitted (R328). -/
def Queue.pending (x : Queue) : Bool := x.st == .active && x.rd != x.wr && x.fence.isNone

/-- The device admits the next packet of a queue. -/
def State.admitNext (s : State) (vi q : Nat) : State :=
  let x := s.queue vi q
  if !x.pending then s
  else match s.nextPkt vi q with
    | (_, .wait _) => s
    | (_, .bad line) => s.hwBad vi x.ctxn x.asid line
    | (_, .code k) => s.setQueue vi q { x with st := .error, ecode := k }
    | (s, .ok p) => s.admitPkt vi q p

def execPacketAdmission (vi q : Nat) (s : State) : Host.Outcome State Fault Refusal := .next (if q < 32 then s.admitNext vi q else s)

/-! ### Ring objects (R325, R355) -/

/-- Fields of rcfg. -/
def Iface.ringFields (x : Iface) : Nat × Nat × Nat × Nat × Nat :=
  (bits x.rcfg 0 4 + 6, bits x.rcfg 4 5, bits x.rcfg 9 3, bits x.rcfg 12 2, bits x.rcfg 16 9)

/-- A refused command: ERR, and RFL at a creation. -/
def State.ringRefuse (s : State) (vi : Nat) (create : Bool) : State :=
  let x := s.iface vi
  s.setIface vi { x with rerr := true, rfl := x.rfl || create }

/-- rcmd 1: the ring takes the lowest free number of its home stack (log entry 67). -/
def State.createRing (s : State) (vi : Nat) : State :=
  let x := s.iface vi
  let (ls, lc, sc, home, asid) := x.ringFields
  if x.rbusy then s.ringRefuse vi false
  else match (coreRun (1024 * home) 1024).find? fun n => !(s.ring n).live with
    | none => s.ringRefuse vi true
    | some n =>
      if !x.owns asid || 12 < ls || 16 < lc || sc = 7 || !canonical x.rbase || !aligned x.rbase (2 ^ ls) then
        s.ringRefuse vi true
      else
        let r : Ring := { live := true, scope := Scope.ofNum sc, lsize := ls, lcount := lc, base := x.rbase, vi := vi,
                          asid := asid, home := home }
        (s.setRing n r).setIface vi { x with rerr := false, rlast := BitVec.ofNat 12 n }

def execRingCreate (vi : Nat) (s : State) : Host.Outcome State Fault Refusal := .next (s.createRing vi)

/-- A launch binds the ring (R325). -/
def State.ringBound (s : State) (n : Nat) : Bool :=
  (s.pkts.any fun c => c.2.rings.contains n) || s.blocks.any fun c => c.2.live && c.2.q.contains n

/-- rcmd 2. -/
def State.destroyRing (s : State) (vi n : Nat) : State :=
  let x := s.iface vi
  if x.rbusy || !(s.ring n).live || (s.ring n).vi != vi || s.ringBound n then s.ringRefuse vi false
  else (s.setRing n Ring.empty).setIface vi { x with rerr := false }

def execRingDestroy (vi n : Nat) (s : State) : Host.Outcome State Fault Refusal := .next (s.destroyRing vi n)

/-- rcmd 3: the request goes to the command word. -/
def State.postRestart (s : State) (vi n : Nat) : State :=
  let x := s.iface vi
  if x.rbusy then s.ringRefuse vi false
  else s.setIface vi { x with rbusy := true, rerr := false, restart := some (n, x.rbase.truncate 32, x.rbase.getLsbD 32) }

def execRingRestart (vi n : Nat) (s : State) : Host.Outcome State Fault Refusal := .next (s.postRestart vi n)

end Sys2Proof.Machine
end

