-- ==== Sys2Proof/Machine/Placement.lean ====
section
/-! DEFINITION. Firmware agents: claims, placement, start records, the start of blocks, nodes, kill and relaunch
(R338 to R356, R369). -/

namespace Sys2Proof.Machine

/-! ### Taking resources (R342, R346, R369) -/

/-- Lowest clear bit of a bitmap word below a limit. -/
def clearBit (w lim : Nat) : Option Nat := (List.range 64).find? fun i => decide (i < lim) && w / 2 ^ i % 2 == 0

/-- Take the lowest clear bit of a context's SAVEMAP, from word k on (R369); none where no bit is clear, or where the
agent's access waits. -/
def takeAreaFrom (sp : Sp) (map : Word64) (saven : Nat) : Nat → Nat → State → Option (State × Nat)
  | 0, _, _ => none
  | f + 1, k, s =>
    let a := map + BitVec.ofNat 64 (8 * k)
    match s.hwRead sp a 8 with
    | .ok (s, bs) =>
      match clearBit (ofBytes bs) (saven - 64 * k) with
      | none => takeAreaFrom sp map saven f (k + 1) s
      | some i =>
        match s.hwRmw sp a 8 .both fun bs => toBytes 8 (Nat.lor (ofBytes bs) (2 ^ i)) with
        | .ok (s, _) => some (s, 64 * k + i)
        | _ => none
    | _ => none

def State.takeArea (s : State) (vi n : Nat) : Option (State × Nat) :=
  let c := s.ctx vi n
  takeAreaFrom (c.sp c.asid.toNat) c.savemap c.saven.toNat ((c.saven.toNat + 63) / 64) 0 s

/-- A batch area is in use from a block's placement to its end. -/
def State.areaUsed (s : State) (vi a : Nat) : Bool :=
  let bid := bidOf vi a
  (s.block bid).live || (s.starts.any fun c => c.1 == bid)
    || s.mail.any fun c => c.2.recs.any fun r => bidOf r.2.vi r.2.trec == bid

/-- Batch areas that a cohort takes: the lowest free ones, where R353 names none (log entry 70). -/
def State.freeAreas (s : State) (vi n : Nat) : List Nat :=
  ((List.range 4096).filter fun a => !s.areaUsed vi a).take n

/-- Start record of a block. -/
def State.startOf (s : State) (bid : Nat) : Option StartRec := (s.starts.find? fun c => c.1 == bid).map Prod.snd

/-- Write a start record to a core's mailbox, with the resources it takes (R346, R348); the record stands in its slot
once the core has consumed the one four before it. -/
def State.sendStart (s : State) (c : Nat) (r : StartRec) : State :=
  let w := s.occOf c
  let slotm := (r.kern.slotsOf w).foldl (fun m i => m + 2 ^ i) 0
  let r := { r with slotm := slotm, accm := r.kern.accOf w }
  let m := s.mail.get {} c
  let bid := bidOf r.vi r.trec
  { s with
    occ := s.occ.set occReset c (r.kern.takeWord w)
    mail := s.mail.set {} c { m with ticket := m.ticket + 1, recs := m.recs ++ [(m.ticket, r)] }
    starts := (s.starts.erase bid).insert bid r }

/-- Cores for n blocks, over some units (R347). -/
def State.findCores (s : State) (vi q : Nat) (k : Kernel) (n : Nat) (units : List (List Nat)) : Option (List Nat) :=
  firstUnit (s.usable vi) (s.fitsCore (s.queue vi q).cls q k) s.zoomsUsed k.zooms n units

/-- Window map of a neighbourhood one member of which stands on a core (R43, R348). -/
def neighWin (k : Kernel) (core m : Nat) : List (Option Nat) :=
  if k.clvl = 1 then
    (List.range (k.ch * k.cw)).map fun i => some ((core % 64 / 8 + i / k.cw - m / k.cw) * 8 + (core % 8 + i % k.cw - m % k.cw))
  else []

/-- Member number of a block of a cohort. -/
def State.memberNo (s : State) (bid : Nat) : Nat := ((s.startOf bid).map (·.mbr)).getD (s.block bid).member

/-- Candidate places for some members of a cohort, in the unit where its other members stand (R41, R347). -/
def State.unitsFor (s : State) (vi die : Nat) (k : Kernel) (co : Cohort) (ms : List Nat) : List (List Nat) :=
  let on := co.members.filter fun i => (s.block i).live && !(s.block i).saved && !ms.contains i
  ((unitsFrom die k co.level).filter fun u => u.all (s.usable vi)).filterMap fun u =>
    if co.level = .neigh then
      if on.all fun i => u[s.memberNo i]? == some (s.block i).pcore then some (ms.filterMap fun i => u[s.memberNo i]?)
      else none
    else if on.all fun i => u.contains (s.block i).pcore then
      some (u.filter fun c => !on.any fun i => (s.block i).pcore == c)
    else none

/-! ### Launches (R334, R347, R350) -/

/-- The task record that firmware keeps for a block of a LAUNCH (R334). -/
def launchRecord (k : Kernel) (argp : Word64) (m c : Nat) : List Byte :=
  toBytes 8 (k.cbase.toNat + 12 * k.entry.toNat) ++ toBytes 8 argp.toNat ++ toBytes 2 m ++ toBytes 2 (c % 2 ^ 16)
    ++ toBytes 2 (c / 2 ^ 16) ++ List.replicate 18 0 ++ [1] ++ List.replicate 23 0

/-- Save areas for n blocks. -/
def takeAreas (vi ctxn : Nat) : Nat → State → Option (State × List Nat)
  | 0, s => some (s, [])
  | n + 1, s => match s.takeArea vi ctxn with
    | none => none
    | some (s, a) => match takeAreas vi ctxn n s with
      | none => none
      | some (s, t) => some (s, a :: t)

/-- Place a new cohort on some cores: batch and save areas, the cohort, its start records in increasing core number;
mk gives member m's record but for what the placement supplies. -/
def State.placeOn (s : State) (vi ctxn : Nat) (k : Kernel) (cores : List Nat)
    (mk : Nat → StartRec × List (List Byte)) : Option State :=
  let n := cores.length
  let areas := s.freeAreas vi n
  if areas.length < n then none
  else match takeAreas vi ctxn n s with
    | none => none
    | some (s, saves) =>
      let bids := areas.map (bidOf vi)
      let coh := bids.headD 0
      let co : Cohort := { live := true, level := Level.ofNum k.clvl, h := k.ch, w := k.cw, members := bids }
      let s := { s with cohorts := s.cohorts.set Cohort.empty coh co }
      let win := neighWin k (cores.headD 0) 0
      some (((List.range n).zip cores).foldl (fun s mc =>
        let (r, recs) := mk mc.1
        let a := areas.getD mc.1 0
        let s := { s with batches := s.batches.set [] (bidOf vi a) recs }
        s.sendStart mc.2 { r with trec := a, cohort := coh, win := win, area := saves[mc.1]? }) s)

/-- Start record of member m of cohort c of a LAUNCH. -/
def launchStart (p : Pkt) (lrec c m : Nat) : StartRec :=
  let k := p.kern
  { kd := p.kd, argp := p.argp, trec := 0, lrec := lrec, win := [], lane0 := (c * k.cmem + m) * k.grp * 96
    extent := p.extent, coh := c, cohort := 0, mbr := m, nrec := 0, ridx := 0, rnum := 0, vi := p.vi, ctxn := p.ctxn
    asid := p.asid, accm := 0, slotm := 0, relaunch := false, area := none, kern := k, level := Level.ofNum k.clvl }

/-- The context may have blocks placed (R362). -/
def State.mayPlace (s : State) (vi n : Nat) : Bool := (s.ctx vi n).cstate == .live

/-- Place the next cohorts of a launch, at most f (R350). -/
def launchPass (die r : Nat) : Nat → State → State
  | 0, s => s
  | f + 1, s =>
    let l := s.lrecs.get {} r
    let p := s.pkts.get {} l.pkt
    let k := p.kern
    if l.next = p.ncoh then { s with lrecs := s.lrecs.set {} r { l with owner := none } }
    else if !s.mayPlace p.vi p.ctxn then s
    else match s.findCores p.vi p.q k k.cmem (unitsFrom die k (Level.ofNum k.clvl)) with
      | none => s
      | some cores =>
        match s.placeOn p.vi p.ctxn k cores fun m =>
            (launchStart p r l.next m, [launchRecord k p.argp m l.next]) with
        | none => s
        | some s =>
          let l := { l with next := l.next + 1 }
          let l := if l.next = p.ncoh then { l with owner := none } else l
          launchPass die r f { s with lrecs := s.lrecs.set {} r l }

/-! ### Nodes (R351, R352) -/

/-- Units for a batch by its first record. The reserved values 4 to 255 of PLACE act as 0, which the spec leaves open (log
entry 70). -/
def State.nodeUnits (s : State) (vi die : Nat) (k : Kernel) (first : List Byte) : List (List Nat) :=
  let pcl := (first.getD 44 0).toNat
  let clu := pcl % 64
  let all := unitsFrom die k .core
  let cores := fun (cs : List Nat) => cs.map fun c => [c]
  if pcl < 128 || !(s.iface vi).clus.contains clu then all
  else match (first.getD 43 0).toNat with
    | 1 => cores (cluCores clu)
    | 2 => cores (coreRun (clu / 8 * 64) 64)
    | 3 => cores (coreRun (clu / 16 * 128) 128)
    | _ => cores (cluCores clu) ++ all

/-- Start a batch of n records at the record's next index; none while it cannot be placed. -/
def State.placeBatch (s : State) (die r n : Nat) : Option State :=
  let l := s.lrecs.get {} r
  let p := s.pkts.get {} l.pkt
  let k := p.kern
  let c := s.ring p.nodeRing
  let i : BitVec 32 := BitVec.ofNat 32 l.next
  if !s.mayPlace p.vi p.ctxn then none
  else match s.hwRead (s.space' p.vi p.ctxn c.asid) (c.slotVa i) 64 with
    | .ok (s, first) =>
      match s.findCores p.vi p.q k 1 (s.nodeUnits p.vi die k first) with
      | none => none
      | some cores =>
        s.placeOn p.vi p.ctxn k cores fun _ =>
          ({ launchStart p r 0 0 with lane0 := 0, extent := n, coh := l.nbat, nrec := n, ridx := i, rnum := p.nodeRing }, [])
    | _ => none

/-- One pass over a node by its owner (R351). -/
def State.nodePass (s : State) (die r : Nat) : State :=
  let l := s.lrecs.get {} r
  let p := s.pkts.get {} l.pkt
  let c := s.ring p.nodeRing
  let now := (s.times.get 0 die).toNat / 1000 % 2 ^ 32
  let next : BitVec 32 := BitVec.ofNat 32 l.next
  let stop : BitVec 32 := BitVec.ofNat 32 p.stop
  let avail := Nat.min (c.pub - next).toNat (stop - next).toNat
  let t0 := if avail = 0 then none else some (l.t0.getD now)
  let s := { s with lrecs := s.lrecs.set {} r { l with t0 := t0 } }
  let due := (BitVec.ofNat 32 now - BitVec.ofNat 32 (t0.getD now)).toNat
  let n := Nat.min avail p.batch
  let s :=
    if p.batch ≤ avail || (avail != 0 && p.flush ≤ due) then
      match s.placeBatch die r n with
      | none => s
      | some s =>
        let l := s.lrecs.get {} r
        { s with lrecs := s.lrecs.set {} r { l with
            nbat := l.nbat + 1, next := (l.next + n) % 2 ^ 32, run := l.run + 1
            t0 := if n < avail then some now else none } }
    else s
  let l := s.lrecs.get {} r
  if c.read == stop && l.run = 0 && BitVec.ofNat 32 l.next == stop then
    match s.complete l.pkt with
    | none => s
    | some s => { s with lrecs := s.lrecs.erase r }
  else s

/-! ### Claims (R339, R343, R344, R354, R356) -/

/-- The agent polls list 0: lowest-numbered reserved core of its cluster (R344). -/
def State.polls0 (s : State) (pcore : Nat) : Bool :=
  ((cluCores (cluOf pcore)).find? fun c => (s.occOf c).getLsbD 62) == some pcore

/-- Entry with the lowest index. -/
def lowestEnt : List (Nat × REntry) → Option (Nat × REntry)
  | [] => none
  | e :: t => match lowestEnt t with
    | none => some e
    | some m => some (if m.1 < e.1 then m else e)

/-- Claim the entry at the ticket, past entries that have been removed. -/
def RList.claim (r : RList) : RList × Option REntry :=
  match lowestEnt (r.ents.filter fun x => decide (r.t ≤ x.1)) with
  | none => ({ r with t := r.p }, none)
  | some (i, e) => (RList.flush r.waiting.length { r with t := i + 1, ents := r.ents.filter fun x => x.1 != i }, some e)

/-- One claim pass over some lists. -/
def claimFrom (vi : Nat) : List Nat → State → State × Option REntry
  | [], s => (s, none)
  | l :: t, s => match (s.rlist vi l).claim with
    | (r, some e) => (s.setRlist vi l r, some e)
    | (_, none) => claimFrom vi t s

/-- Items that an agent owns. -/
def State.owned (s : State) (pcore : Nat) : List Nat :=
  (s.lrecs.filter fun c => c.2.live && c.2.owner == some pcore).map Prod.fst

/-- Lowest free launch or node record of an interface. -/
def State.freeRec (s : State) (vi : Nat) : Option Nat :=
  ((List.range 4096).find? fun i => !(s.lrecs.get {} (vi * 4096 + i)).live).map fun i => vi * 4096 + i

/-- Place a claimed relaunch entry anew (R354), a member killed alone in its cohort's unit (R41); none while it does not
fit. -/
def State.relaunch (s : State) (die : Nat) (e : REntry) : Option State :=
  match e.blocks.filterMap s.startOf with
  | [] => some s
  | r :: rs =>
    let recs := r :: rs
    let co := s.cohorts.get Cohort.empty r.cohort
    let k := r.kern
    if !s.mayPlace r.vi r.ctxn || e.blocks.any fun i => (s.block i).live then none
    else match s.findCores r.vi e.q k recs.length (s.unitsFor r.vi die k co e.blocks) with
      | none => none
      | some cores =>
        let s := if recs.length = co.members.length then
            { s with cohorts := s.cohorts.set Cohort.empty r.cohort { co with cbar := {} } }
          else s
        some ((recs.zip cores).foldl (fun s x =>
          s.sendStart x.2 { x.1 with win := neighWin k x.2 x.1.mbr, relaunch := true }) s)

/-- Act on a claimed entry; a packet that finds no free record, and a relaunch, stay in the agent's hand. NEXT of a NODE
starts at the ring's READ (R351; log entry 50). -/
def State.takeEntry (s : State) (pcore : Nat) (vi : Nat) (e : REntry) : State :=
  let held := { s with inHand := s.inHand ++ [(pcore, e)] }
  let p := s.pkts.get {} e.item
  if e.relaunch then held
  else if !s.pkts.any fun c => c.1 == e.item then s
  else
    let s := { s with pkts := s.pkts.set {} e.item { p with st := if p.typ = 4 then .fence else .running } }
    match p.typ, s.freeRec vi with
    | 3, _ => (s.signal e.item).getD s
    | 4, _ => if s.fenceDone e.item then (s.fenceq e.item).getD s else s
    | _, none => held
    | _, some r =>
      let l : LRec :=
        { live := true, vi := vi, pkt := e.item, node := p.typ == 2, remain := p.ncoh * p.kern.cmem
          next := if p.typ = 2 then (s.ring p.nodeRing).read.toNat else 0, owner := some pcore
          ent := s.copyVa vi r }
      { s with lrecs := s.lrecs.set {} r l }

/-- An item that an agent owns is advanced (R350, R351); a launch of no cohort completes at claim. -/
def State.advanceItem (s : State) (pcore r : Nat) : State :=
  let l := s.lrecs.get {} r
  let p := s.pkts.get {} l.pkt
  if l.node then s.nodePass (dieOf pcore) r
  else if p.ncoh = 0 then
    match s.complete l.pkt with
    | none => s
    | some s => { s with lrecs := s.lrecs.erase r }
  else launchPass (dieOf pcore) r 4 s

/-- The command agent executes a pending ring restart (R356). -/
def State.commandAgent (s : State) (pcore vi : Nat) : State :=
  let x := s.iface vi
  if (s.partCores vi).head? != some pcore then s
  else match x.restart with
    | none => s
    | some (n, i, h) =>
      let c := s.ring n
      match (if c.live && c.vi == vi then c.restart i h else none) with
      | none => s.setIface vi { x with restart := none, rbusy := false, rerr := true }
      | some c => (s.setRing n c).setIface vi { x with restart := none, rbusy := false }

/-- An entry in an agent's hand is placed, or gets its record, as soon as it can. -/
def State.placeOne (s : State) (c : Nat × REntry) : State :=
  let rest := { s with inHand := s.inHand.erase c }
  if c.2.relaunch then (rest.relaunch (dieOf c.1) c.2).getD s
  else match s.ownerOf c.1 with
    | some vi => if (s.freeRec vi).isSome then rest.takeEntry c.1 vi c.2 else s
    | none => s

/-- What an agent has in hand. -/
def State.hand (s : State) (pcore : Nat) : List (Nat × REntry) := s.inHand.filter fun c => c.1 == pcore

def State.placeInHand (s : State) (pcore : Nat) : State := (s.hand pcore).foldl State.placeOne s

/-- One pass of an agent (R344): a pending command, at most one claim, then what it owns. -/
def State.agentPass (s : State) (pcore : Nat) : State :=
  match s.ownerOf pcore with
  | none => s
  | some vi =>
    if !(s.group (pcore * 17 + 16)).live || !s.rdymap.getLsbD (dieOf pcore) then s
    else
      let s := s.commandAgent pcore vi
      let s :=
        if 8 ≤ (s.owned pcore).length + ((s.hand pcore).filter fun c => !c.2.relaunch).length then s
        else match claimFrom vi (if s.polls0 pcore then [0, 1, 2, 3] else [1, 2, 3]) s with
          | (s, none) => s
          | (s, some e) => s.takeEntry pcore vi e
      let s := s.placeInHand pcore
      (s.owned pcore).foldl (fun s r => s.advanceItem pcore r) s

def execAgentClaimPass (pcore : Nat) (s : State) : Host.Outcome State Fault Refusal := .next (s.agentPass pcore)

/-- A synchronous trap of a code resets the agent of a core, and its items pass on (R338, R339). -/
def execAgentReset (pcore : Nat) (code : BitVec 8) (s : State) : Host.Outcome State Fault Refusal :=
  .next (if (s.group (pcore * 17 + 16)).live then s.resetAgent pcore code else s)

/-! ### Kill (R260, R353) -/

/-- Blocks that a kill of a block takes: its cohort where a group of it waits at an MMAC rendezvous. -/
def State.killSet (s : State) (bid : Nat) : List Nat :=
  if (s.liveGids (s.block bid)).any fun g => (s.group g).mmacAt.isSome then s.cohortOf bid else [bid]

/-- The word at which a group stands. -/
def Group.standPc (g : Group) : PC :=
  match g.tab.find? fun c => c.2.valid && (c.2.st == .ready || c.2.st == .parked) with
  | some c => c.2.pc
  | none => 0

/-- A fault while global B is fetched kills the block, or the cohort of an MMAC. -/
def execBlockKill (bid : Nat) (s : State) : Host.Outcome State Fault Refusal :=
  let b := s.block bid
  .next (if b.live && !b.saved then
    match s.liveGids b with
    | [] => s
    | g :: _ => s.killBlocks (s.killSet bid) g (s.group g).standPc (pcSlot (s.group g).standPc)
  else s)

/-! ### The start of a block (R348, R349) -/

/-- Lanes of group g past the extent (R25, R349). -/
def helperLanes (extent lane0 g : Nat) : Mask := Mask.ofFn fun l => decide (extent ≤ lane0 + 96 * g + l)

/-- Handles of a TCB (R262, R303). -/
def tcbHandles (tcb : List Byte) : Store Tc :=
  (List.range 32).foldl (fun m k =>
    m.set Tc.unbound k { bind := Binding.ofTcb (tcb.getD k 0).toNat }) []

/-- Position of a core in its partition (R167, R323). -/
def State.vcore (s : State) (vi c : Nat) : Nat := (s.partCores vi).idxOf c

/-- Slots of a start record, rising. -/
def StartRec.slots (r : StartRec) : List Nat := (List.range 16).filter fun k => r.slotm / 2 ^ k % 2 == 1

/-- Group gi of a block as it starts. -/
def State.startGroup (s : State) (r : StartRec) (c gi : Nat) (att : Nat) : Group :=
  let sc : List Word64 :=
    if r.nrec = 0 then [r.argp, BitVec.ofNat 64 r.coh, s.batchVa r.vi r.trec, BitVec.ofNat 64 att]
    else [BitVec.ofNat 64 r.nrec, r.ridx.zeroExtend 64, s.batchVa r.vi r.trec, BitVec.ofNat 64 att]
  let x := s.ctx r.vi r.ctxn
  { live := true, bid := bidOf r.vi r.trec, gix := gi
    s := (List.range 4).foldl (fun m k => m.set 0 k (sc.getD k 0)) []
    helper := helperLanes r.extent r.lane0 gi
    tab := [(0, { valid := true, pc := mkPc r.kern.entry.toNat 0, mask := Mask.all, dom := Mask.all, since := s.clock })]
    sr := { ctxsave := match r.area with | some a => groupBase x a gi | none => 0
            gotb := r.kern.gota, trapvec := r.kd + 56, vcore := BitVec.ofNat 9 (s.vcore r.vi c) } }

/-- The block of a start record on a core. -/
def State.startBlock (s : State) (r : StartRec) (c : Nat) (recs : List (List Byte)) : State :=
  let bid := bidOf r.vi r.trec
  let k := r.kern
  let att := recAtt (recs.headD [])
  let bytes := if r.nrec = 0 then [] else recs.flatten
  let b : Block :=
    { live := true, vi := r.vi, ctx := r.ctxn, asid := r.asid, pcore := c, slots := r.slots, kern := k
      tileSize := 4096 * k.tile4k
      tile := (List.range (Nat.min bytes.length (4096 * k.tile4k))).foldl (fun m a => m.set 0 a (bytes.getD a 0)) []
      accm := r.accm, tc := tcbHandles k.tcb
      q := ((s.pkts.get {} (s.lrecs.get {} r.lrec).pkt).rings).take k.qn
      bix := BitVec.ofNat 32 (if r.nrec = 0 then r.coh * k.cmem + r.mbr else r.coh)
      coh := r.cohort, member := r.mbr, win := r.win, argp := r.argp, extent := r.extent, lane0 := r.lane0
      att := BitVec.ofNat 8 att, norel := recs.any recNorel, area := r.area, lrec := r.lrec }
  let s := s.setBlock bid b
  let s := ((List.range k.grp).zip r.slots).foldl (fun s x =>
    s.setGroup (c * 17 + x.2) (s.startGroup r c x.1 att)) s
  ({ s with consts := s.consts.filter fun x => x.1 / 2 ^ 45 != c } : State).flushL1 c

/-- Records of a node batch, from its ring. -/
def ringRecords (sp : Sp) (c : Ring) (i : BitVec 32) : Nat → State → Hw (State × List (List Byte))
  | 0, s => .ok (s, [])
  | n + 1, s => (s.hwRead sp (c.slotVa i) 64).bind fun r =>
    (ringRecords sp c (i + 1) n r.1).bind fun x => .ok (x.1, r.2 :: x.2)

/-- Records of the block of a start record: of its batch area, or copied from the ring and released there. -/
def State.startRecords (s : State) (r : StartRec) : Hw (State × List (List Byte)) :=
  let bid := bidOf r.vi r.trec
  if r.nrec = 0 || r.relaunch then .ok (s, s.batches.get [] bid)
  else
    let c := s.ring r.rnum
    (ringRecords (s.space' r.vi r.ctxn c.asid) c r.ridx r.nrec s).bind fun x =>
      let s := { x.1 with batches := x.1.batches.set [] bid x.2 }
      .ok (match (s.ring r.rnum).release r.ridx r.nrec with
        | some c => s.setRing r.rnum c
        | none => s.ringError r.rnum 0x81, x.2)

/-- A block that starts while its context stops, or its cohort is being saved, is pre-empted at once (R45, R362). -/
def State.startStopped (s : State) (bid : Nat) : State :=
  let b := s.block bid
  let co := s.cohorts.get Cohort.empty b.coh
  if (s.ctx b.vi b.ctx).cstate == .stopping || co.members.any fun m => (s.block m).stopping || (s.block m).saved then
    s.preemptBlock bid
  else s

/-- Members of a window map (R348). -/
def winOf (ws : List Word64) : List (Option Nat) :=
  ws.flatMap fun w => (List.range 8).map fun i => if w.getLsbD (8 * i + 7) then some (bits w (8 * i) 6) else none

/-- A start record that an agent's instructions have written, as its words give it (R348): its block and its launch
record are those at TREC and LREC. -/
def State.recordOfWords (s : State) (vi : Nat) (word : Nat → Word64) : StartRec :=
  let n := ((List.range 16).map fun w => (word w).toNat * 2 ^ (64 * w)).sum
  let fld := fun lo len => n / 2 ^ lo % 2 ^ len
  let base := (s.iface vi).fwbase.toNat
  { kd := word 15, argp := word 14, trec := ((word 13).toNat - base - 0x900000) / 6144
    lrec := vi * 4096 + ((word 12).toNat - base - 0x44000) / 64 % 4096, win := winOf [word 11, word 10, word 9]
    lane0 := fld 544 32, extent := fld 512 32, coh := fld 480 32, cohort := 0, mbr := fld 472 8, nrec := fld 464 8
    ridx := BitVec.ofNat 32 (fld 432 32), rnum := fld 420 12, vi := vi, ctxn := fld 384 16, asid := fld 375 9
    accm := fld 365 10, slotm := fld 349 16, relaunch := false, area := none, kern := {}, level := .core }

/-- The start hardware meets a record written by instructions: the kernel is that at KD; a block whose batch area has
been started before is relaunched (R354). Its cohort is that of the blocks of its launch record and cohort number. R348
does not give the start hardware the block's save area, so that is free where no pass has assigned one (log entry 20). -/
def State.adopt (s : State) (r : StartRec) : Hw (State × StartRec) :=
  let bid := bidOf r.vi r.trec
  let c := s.ctx r.vi r.ctxn
  (s.hwRead (s.space' r.vi r.ctxn r.asid) r.kd 128).bind fun x =>
    let k := { Kernel.parse r.kd x.2 with lpool := s.pools.contains (r.asid, numAt x.2 12 8) }
    let r := { r with kern := k, level := Level.ofNum k.clvl }
    match s.startOf bid with
    | some o => .ok (x.1, { r with relaunch := true, cohort := o.cohort, area := o.area })
    | none =>
      let mate := (s.starts.find? fun o => o.2.vi == r.vi && o.2.lrec == r.lrec && o.2.coh == r.coh).map (·.2.cohort)
      let r := { r with cohort := mate.getD bid, area := some ((Config.freeWord x.1.free).toNat % Nat.max 1 c.saven.toNat) }
      let co := x.1.cohorts.get Cohort.empty r.cohort
      let co : Cohort :=
        if mate.isSome then { co with members := co.members ++ [bid] }
        else { live := true, level := r.level, h := k.ch, w := k.cw, members := [bid] }
      .ok ({ x.1 with free := x.1.free + 1, cohorts := x.1.cohorts.set Cohort.empty r.cohort co
                      starts := x.1.starts.insert bid r }, r)

/-- The record that the core's start hardware takes next, when consumed equals its index and the ready word of its slot
is one more (R348): that of a placement pass, else one written by instructions. -/
def State.nextStart (s : State) (c : Nat) : Option StartRec :=
  let m := s.mail.get {} c
  match (m.recs.find? fun x => x.1 == m.consumed), s.ownerOf c with
  | some x, _ => some x.2
  | none, some vi =>
    let k := m.consumed % 4
    if m.rdys.get 0 k = m.consumed + 1 then some (s.recordOfWords vi fun w => m.slots.get 0 (16 * k + w)) else none
  | none, none => none

/-- The next record of a core is one that instructions have written. -/
def State.startWritten (s : State) (c : Nat) : Bool :=
  let m := s.mail.get {} c
  !m.recs.any fun x => x.1 == m.consumed

/-- Consumed goes up by one; the words of the record stay in its slot (R348). -/
def State.popStart (s : State) (c : Nat) : State :=
  let m := s.mail.get {} c
  let slots := match m.recs.find? fun x => x.1 == m.consumed with
    | some x => (List.range 16).foldl (fun (t : Store Word64) w =>
        t.set 0 (16 * (m.consumed % 4) + w) (s.startWord x.2 w)) m.slots
    | none => m.slots
  { s with mail := s.mail.set {} c { m with
      consumed := m.consumed + 1, recs := m.recs.filter fun x => x.1 != m.consumed, slots := slots } }

/-- The core takes the next start record of its mailbox (R348). A record of a block that has been stopped gives its
resources back; while a record of its ring cannot be read, the core does not take it. -/
def State.takeStart (s : State) (c : Nat) : State :=
  match s.nextStart c with
  | none => s
  | some r =>
    let bid := bidOf r.vi r.trec
    let run := fun (s : State) (r : StartRec) => match s.startRecords r with
      | .ok (s, recs) => ((s.popStart c).startBlock r c recs).startStopped bid
      | .bad line => s.hwBad r.vi r.ctxn r.asid line
      | _ => s
    if s.startWritten c then
      (match s.adopt r with
       | .ok (t, r) => run t r
       | .bad line => s.hwBad r.vi r.ctxn r.asid line
       | _ => s)
    else if (s.startOf bid).isNone then
      (s.popStart c).release { pcore := c, slots := r.slots, kern := r.kern, accm := r.accm }
    else run s r

/-- The cores whose next start record is of one cohort with core c's take it together (R41; log entry 7). -/
def State.takeStarts (s : State) (c : Nat) : State :=
  let next := fun (c : Nat) => (s.nextStart c).map (·.cohort)
  match next c with
  | none => s
  | some co => (s.mail.filter fun m => next m.1 == some co).foldl (fun s m => s.takeStart m.1) s

def execStartRecordTake (pcore : Nat) (s : State) : Host.Outcome State Fault Refusal := .next (s.takeStart pcore)

/-! ### Resume (R41, R48, R373, R421) -/

/-- A barrier with n arrivals and a generation, as a header gives them: the arrivals in the model's order of them, and
those that the model does not know of as arrivals of a group that is gone. -/
def Bar.counted (r : Bar) (n gen : Nat) : Bar :=
  { r with gen := gen, arrived := r.arrived.take n ++ List.replicate (n - r.arrived.length) noSlot }

/-- A barrier of the block as its word in a header gives it, and the cohort's (R370). -/
def Bar.reload (r : Bar) (hdr : List Byte) (o : Nat) : Bar := r.counted (numAt hdr (o + 1) 1) (numAt hdr (o + 2) 4)

def Bar.reloadCbar (r : Bar) (hdr : List Byte) : Bar := r.counted (numAt hdr 0x8A 2) (numAt hdr 0x8C 4)

/-- Of the states of a cohort's barrier in its members' headers, the later one. -/
def Bar.later (a b : Bar) : Bar :=
  if a.gen < b.gen ∨ (a.gen = b.gen ∧ a.arrived.length < b.arrived.length) then b else a

/-- A block's header fields come back: barriers, counter values and bindings, ring numbers (R370, R373). -/
def Block.reload (b : Block) (hdr : List Byte) : Block :=
  { b with
    bars := (List.range 17).foldl (fun m k => m.set Bar.zero k ((b.bars.get Bar.zero k).reload hdr (8 * k))) []
    tc := (List.range 32).foldl (fun m k =>
      let t := b.tc.get Tc.unbound k
      let v := numAt hdr (0x200 + 16 * k) 8
      m.set Tc.unbound k { t with value := BitVec.ofNat 64 v, issued := v, pend := [], done := [], stall := none
                                  bind := Binding.ofTcb (numAt hdr (0x208 + 16 * k) 1) }) []
    q := (List.range b.q.length).map fun k => numAt hdr (0x400 + 4 * k) 4 }

/-- Zoom table slots are reloaded (R373). -/
def State.reloadZoom (s : State) (base : Word64) (b : Block) : Hw (State × Block) :=
  b.zoomParts.foldl (fun (o : Hw (State × Block)) p => o.bind fun r =>
    (r.1.ctxRead b.pcore b.vi b.ctx (base + BitVec.ofNat 64 p.1) p.2.length).bind fun x =>
      let i := (p.1 - 0x1000) / 0x410
      .ok (x.1, { r.2 with tc := r.2.tc.upd Tc.unbound (i / 4) fun c => { c with tables := c.tables.set [] (i % 4) x.2 } }))
    (.ok (s, b))

/-- Tile and accumulator images of a forced save (R370, R373). -/
def State.reloadImages (s : State) (base : Word64) (b : Block) : Hw (State × Block) :=
  (s.ctxRead b.pcore b.vi b.ctx (base + 0x22000) b.tileSize).bind fun x =>
  (x.1.ctxRead b.pcore b.vi b.ctx (base + 0xA2000) (4 * 61440)).bind fun y =>
    let tile := (List.range x.2.length).foldl (fun (m : Store Byte) a => m.set 0 a (x.2.getD a 0)) []
    let acc := (List.range 61440).foldl (fun (m : Store Word32) w => m.set 0 w (BitVec.ofNat 32 (numAt y.2 (4 * w) 4))) []
    .ok (y.1, { b with tile := tile, acc := acc })

/-- An entry as a resumed group keeps it: held, with the state that the header gives (R371, R373). -/
def Entry.hold (e : Entry) : Entry := if e.valid && e.st != .held then { e with st := .held, saved := e.st } else e

/-- An entry of a handler's own, or the handler, goes on: one that was parked but at a barrier executes its word again
(R44, R421). -/
def Entry.goOn (now : Nat) (e : Entry) : Entry :=
  let atBar := match e.wait with
    | .bar _ _ | .cbar _ => true
    | _ => false
  if e.valid && e.st == .parked && !atBar then { e with st := .ready, wait := .none, since := now } else e

/-- A resumed rejoin timer starts at 0 again (R66). -/
def Rec.restart (c : Rec) : Rec := { c with timer := 0, stopped := false }

/-- A group goes on after its state has been reloaded (R48, R66, R68, R373, R421). -/
def State.wake (s : State) (b : Block) (g : Group) : Group :=
  let g : Group := { g with recs := g.recs.map fun c => (c.1, c.2.restart) }
  let clean := fun (g : Group) => ({ g with forced := false, hdone := false, frozen := false, syncm := [], mmacAt := none } : Group)
  if g.forced then
    (match g.hnd with
     | some _ => clean { g with tab := g.tab.map fun (c : Nat × Entry) => (c.1, c.2.goOn s.clock) }
     | none =>
       let g : Group := { g with tab := g.tab.map fun c => (c.1, c.2.hold) }
       (clean (g.unfreeze s.clock)).askHeld s.clock)
  else
    let g : Group := { g with
      tab := (g.tab.filter fun c => c.1 < 8).map fun c => (c.1, c.2.hold), v := [], p := []
      s := (List.range 4).foldl (fun m k => m.set 0 k (g.hdr.get 0 k)) [] }
    let pc := (b.kern.tvec)[1]?.getD noPc
    let h : Entry := { valid := true, pc := pc, mask := g.allDom, dom := g.allDom, since := s.clock }
    clean (({ g with cow := 0, hnd := some { code := 0x30, save := false, restore := true } } : Group).setEnt 8 h)

/-- Reload group gi of a block on a slot of its new core, with the barriers as they have been reloaded. -/
def State.resumeGroup (s : State) (bid slot gi : Nat) (hdr : List Byte) (cgen : Nat) : Hw State :=
  let b := s.block bid
  let g := s.savedG.get Group.empty (16 * bid + gi)
  if !g.live then .ok s
  else (s.loadFlds b.pcore b.vi b.ctx g.sr.ctxsave g [statusFld]).bind fun r =>
    let f := r.2
    let sr := { g.sr with vcore := BitVec.ofNat 9 (s.vcore b.vi b.pcore) }
    let g := { f with defer := [], keep := none, sr := sr }
    (r.1.loadFlds b.pcore b.vi b.ctx g.sr.ctxsave g
        (frozenFlds.filter (fun x => x.off != 0x020) ++ (if f.forced then imageFlds.map Prod.snd else []))).bind fun x =>
      let g := { x.2 with mmacN := numAt hdr (0x90 + 8 * gi) 8 }
      let g := g.passGone (fun n => (b.bars.get Bar.zero n).gen) cgen s.clock
      .ok (x.1.setGroup (b.pcore * 17 + slot) (x.1.wake b g))

/-- Restore a saved block on a core (R373): its resources, its header, Zoom tables and images, then its groups. -/
def State.resumeBlock (s : State) (bid c : Nat) : Hw State :=
  let b := s.block bid
  let w := s.occOf c
  let slots := b.kern.slotsOf w
  let base := areaBase (s.ctx b.vi b.ctx) (b.area.getD 0)
  let forced := (List.range 16).any fun gi => (s.savedG.get Group.empty (16 * bid + gi)).forced
  let b' := { b with saved := false, pcore := c, slots := slots, accm := b.kern.accOf w, tile := [], acc := []
                     win := neighWin b.kern c b.member }
  (s.ctxRead c b.vi b.ctx base 0x440).bind fun h =>
  (h.1.reloadZoom base (b'.reload h.2)).bind fun z =>
  (if forced then z.1.reloadImages base z.2 else .ok z).bind fun i =>
    let s := ({ i.1 with occ := i.1.occ.set occReset c (b.kern.takeWord w) } : State).setBlock bid i.2
    let co := s.cohorts.get Cohort.empty b.coh
    (((List.range b.kern.grp).zip slots).foldl (fun (o : Hw State) x => o.bind fun s =>
      s.resumeGroup bid x.2 x.1 h.2 co.cbar.gen) (.ok s)).bind fun s =>
    .ok (({ s with savedG := s.savedG.filter fun x => x.1 / 16 != bid } : State).flushL1 c)

/-- The state of a cohort's barrier as the headers of some saved members give it (R235, R370). -/
def State.reloadCbar (s : State) (coh : Nat) (ms : List Nat) : Hw State :=
  let co := s.cohorts.get Cohort.empty coh
  (ms.foldl (fun (o : Hw (State × Bar)) m => o.bind fun r =>
    let b := s.block m
    (r.1.ctxRead b.pcore b.vi b.ctx (areaBase (s.ctx b.vi b.ctx) (b.area.getD 0)) 0x440).bind fun h =>
      .ok (h.1, r.2.later (co.cbar.reloadCbar h.2))) (.ok (s, {}))).bind fun r =>
  .ok { r.1 with cohorts := r.1.cohorts.set Cohort.empty coh { co with cbar := { r.2 with early := co.cbar.early } } }

/-- A stopped context whose command 3 is in progress (R362). -/
def Ctx.resuming (c : Ctx) : Bool := c.cstate == .stopped && c.busy && c.cmd == 3

/-- Once every saved block of a resuming context is placed, it is live. -/
def State.resumeDone (s : State) (vi n : Nat) : State :=
  let c := s.ctx vi n
  if c.resuming && !((s.blocksOf vi n).any fun b => (s.block b).saved) then
    s.setCtx vi n { c with cstate := .live, busy := false, cmd := 0 }
  else s

/-- What placing the saved members of a cohort, whole, by the agent of a core comes to, with one of its members (R41, R48);
none while a member is still to be saved, or no unit is free for them. A member that waits for its relaunch is placed by
that. -/
def State.resumeStep (s : State) (coh pcore : Nat) : Option (Nat × Hw State) :=
  let co := s.cohorts.get Cohort.empty coh
  let ms := co.members.filter fun i => (s.block i).live
  match ms with
  | [] => none
  | m :: _ =>
    let b := s.block m
    let c := s.ctx b.vi b.ctx
    if !(ms.all fun i => (s.block i).saved) || !(c.cstate == .live || c.resuming) then none
    else
    (s.findCores b.vi (s.queueNo b) b.kern ms.length (s.unitsFor b.vi (dieOf pcore) b.kern co ms)).map fun cores =>
      let t := (s.reloadCbar coh ms).bind fun s =>
        (ms.zip cores).foldl (fun (o : Hw State) x => o.bind fun s => s.resumeBlock x.1 x.2) (.ok s)
      (m, t.bind fun t => .ok ((State.settleCbar coh 16 t).resumeDone b.vi b.ctx))

/-- Place the saved members of a cohort. While an access waits, nothing happens; a save area that faults ends the context
(R372). -/
def State.resumeCohort (s : State) (coh pcore : Nat) : State := match s.resumeStep coh pcore with
  | none => s
  | some (m, h) => h.orFail s m s

def execResume (coh pcore : Nat) (s : State) : Host.Outcome State Fault Refusal := .next (s.resumeCohort coh pcore)

end Sys2Proof.Machine
end

