-- ==== Sys2Proof/Machine/Contexts.lean ====
section
/-! DEFINITION. Context commands, replay, invalidation, fault-record room, and functions that become ready or fail
(R20, R82, R361 to R363, R367, R368, R378). -/

namespace Sys2Proof.Machine

/-! ### Commands (R362, R363) -/

/-- Feature words of a new context against the device and the partition (R168, R362). -/
def featuresOk (f0 f1 : Word64) (cores : Nat) : Bool :=
  bits f0 26 38 == 0 && decide (bits f0 8 8 ≤ Config.generation) && bits f0 0 8 == Config.contract
    && bits f1 48 16 == 0 && bits f1 10 6 == 0 && decide (1 ≤ bits f1 0 10 ∧ bits f1 0 10 ≤ cores)
    && decide (bits f1 32 16 ≤ 512) && decide (bits f1 16 16 ≤ 8192)

/-- The checks of command 1. -/
def State.createOk (s : State) (vi : Nat) (c : Ctx) : Bool :=
  (s.iface vi).owns c.asid.toNat && featuresOk c.feat0 c.feat1 (s.partCores vi).length
    && decide (1 ≤ c.saven.toNat ∧ c.saven.toNat ≤ 65536) && c.usrsz.toNat % 4096 == 0
    && decide (c.usrsz.toNat ≤ 0x100000) && decide (4 ≤ c.fltlog.toNat ∧ c.fltlog.toNat ≤ 16)
    && canonical c.fltring && aligned c.fltring 64 && canonical c.saveb && aligned c.saveb 4096
    && canonical c.savemap && aligned c.savemap 8

/-- A command is refused: ERR, and nothing else. -/
def State.ctxRefuse (s : State) (vi n : Nat) : State := s.setCtx vi n { s.ctx vi n with err := true }

/-- Run a command that needs a state and no command in progress. -/
def State.ctxCmd (s : State) (vi n : Nat) (ok : Ctx → Bool) (f : Ctx → State → State) : State :=
  let c := s.ctx vi n
  if c.busy || !ok c then s.ctxRefuse vi n else f { c with err := false } s

/-- Command 1. -/
def State.ctxCreate (s : State) (vi n : Nat) : State :=
  s.ctxCmd vi n (fun c => c.cstate == .free && s.createOk vi c) fun c s =>
    s.setCtx vi n { c with cstate := .live, cmd := 0 }

def execCtxCreate (vi n : Nat) (s : State) : Host.Outcome State Fault Refusal := .next (if n < 256 then s.ctxCreate vi n else s)

/-- Command 2. -/
def State.ctxStop (s : State) (vi n : Nat) : State :=
  s.ctxCmd vi n (fun c => c.cstate == .live) fun c s => (s.setCtx vi n { c with cmd := 2 }).stopContext vi n

def execCtxStop (vi n : Nat) (s : State) : Host.Outcome State Fault Refusal := .next (if n < 256 then s.ctxStop vi n else s)

/-- Command 3: the saved blocks are placed again, and then the context is live. -/
def State.ctxResume (s : State) (vi n : Nat) : State :=
  s.ctxCmd vi n (fun c => c.cstate == .stopped) fun c s =>
    (s.setCtx vi n { c with busy := true, cmd := 3 }).resumeDone vi n

def execCtxResume (vi n : Nat) (s : State) : Host.Outcome State Fault Refusal := .next (if n < 256 then s.ctxResume vi n else s)

/-- Command 4, accepted at any time. -/
def State.ctxEnd (s : State) (vi n : Nat) : State :=
  let c := s.ctx vi n
  if c.cstate == .free then s.ctxRefuse vi n
  else (s.setCtx vi n { c with err := false, cmd := 4 }).endContext vi n 0 0

def execCtxEnd (vi n : Nat) (s : State) : Host.Outcome State Fault Refusal := .next (if n < 256 then s.ctxEnd vi n else s)

/-- A wait on a page fault whose record the driver has (R367, R368). -/
def Ctx.answered (c : Ctx) : Wait → Bool
  | .fault => true
  | .record k => c.written k
  | _ => false

/-- A party parked on a page fault executes its instruction again (R368). -/
def Entry.replay (c : Ctx) (now : Nat) (e : Entry) : Entry :=
  if e.valid && e.st == .parked && c.answered e.wait then { e with st := .ready, wait := .none, since := now } else e

/-- A stalled engine context whose record the driver has goes on. -/
def Tc.replay (c : Ctx) (t : Tc) : Tc :=
  if t.held.all c.written then { t with stall := none, held := none } else t

/-- Groups and Loupe threads of a context. -/
def State.ctxParties (s : State) (vi n : Nat) : List Nat :=
  (s.groups.filter fun c => c.2.live && c.2.kind != .agent && (s.blocksOf vi n).contains c.2.bid).map Prod.fst

/-- Command 5: every party that is parked on a page fault, and every stalled engine context, goes on, but for those whose
record is held (R367). -/
def State.replayAll (s : State) (vi n : Nat) : State :=
  let s := (s.ctxParties vi n).foldl (fun s g =>
    let x := s.group g
    s.setGroup g { x with tab := x.tab.map fun c => (c.1, c.2.replay (s.ctx vi n) s.clock) }) s
  (s.blocksOf vi n).foldl (fun s i =>
    let b := s.block i
    s.setBlock i { b with tc := b.tc.map fun c => (c.1, c.2.replay (s.ctx vi n)) }) s

/-- Command 5 is accepted while the context stops, although the stop is in progress (R368). -/
def State.ctxReplay (s : State) (vi n : Nat) : State :=
  let c := s.ctx vi n
  if c.cstate == .stopping || (c.cstate == .live && !c.busy) then
    (s.setCtx vi n { c with err := false }).replayAll vi n
  else s.ctxRefuse vi n

def execCtxReplay (vi n : Nat) (s : State) : Host.Outcome State Fault Refusal := .next (if n < 256 then s.ctxReplay vi n else s)

/-! ### Invalidation (R378) -/

/-- Two ranges meet. -/
def meets (a n b m : Nat) : Bool := decide (a < b + m) && decide (b < a + n)

/-- Drop the cached translations of an ASID in a range. -/
def State.invalidate (s : State) (asid a n : Nat) : State :=
  { s with tlb := s.tlb.filter fun t => !(t.asid == asid && meets t.va (2 ^ t.lg) a n) }

/-- The range of INVVA and INVLOG: aligned down to its size; 0xFF is the whole ASID. -/
def Ctx.range (c : Ctx) : Nat × Nat :=
  if c.invlog = 0xFF then (0, 2 ^ 64)
  else
    let n := 2 ^ (12 + c.invlog.toNat)
    (c.invva.toNat / n * n, n)

/-- Command 6. -/
def State.ctxInvalidate (s : State) (vi n : Nat) : State :=
  s.ctxCmd vi n (fun c => c.cstate != .free) fun c s =>
    let s := s.invalidate c.asid.toNat c.range.1 c.range.2
    { s.setCtx vi n { c with busy := true, invalidating := true } with invs := s.invs ++ [(vi, n)] }

def execCtxInvalidate (vi n : Nat) (s : State) : Host.Outcome State Fault Refusal := .next (if n < 256 then s.ctxInvalidate vi n else s)

/-- An ATS Invalidate Request: command 6 over its range for every entry with its PASID. Its completion is 256 in the
list of those to come. -/
def State.atsInvalidate (s : State) (vi : Nat) (pasid : BitVec 20) (va : Word64) (lg : Nat) : State :=
  let n := 2 ^ lg
  let mine := (s.ctxs.filter fun c => c.1 / 256 == vi && c.2.cstate != .free && c.2.pasid == pasid).map Prod.snd
  let s := mine.foldl (fun s c => s.invalidate c.asid.toNat (va.toNat / n * n) n) s
  { s with invs := s.invs ++ [(vi, 256)] }

def execAtsInvalidateRequest (vi : Nat) (pasid : BitVec 20) (va : BitVec 64) (lg : Nat) (s : State) :
    Host.Outcome State Fault Refusal := .next (s.atsInvalidate vi pasid va lg)

/-- An invalidation is complete (R378): the stores that used a removed translation have been accepted, and BUSY clears,
or the ATS completion is sent. -/
def State.invDone (s : State) (vi n : Nat) : State :=
  if s.invs.contains (vi, n) then
    let s := ({ s with invs := s.invs.erase (vi, n), wtq := [] } : State).acceptAll s.wtq
    let c := s.ctx vi n
    if n < 256 && c.invalidating then
      s.setCtx vi n { c with invalidating := false, busy := c.cstate == .stopping || c.cstate == .ending }
    else s
  else s

def execInvalidationComplete (vi n : Nat) (s : State) : Host.Outcome State Fault Refusal := .next (s.invDone vi n)

/-! ### Room in a fault ring (R367) -/

/-- Write the records that were held, while there is room; a write that faults ends the context with 0x42. -/
def State.flushRecords (s : State) (vi n : Nat) : State :=
  let rs := (s.ctx vi n).recs
  rs.foldl (fun s r => s.record 0 vi n r) (s.setCtx vi n { s.ctx vi n with recs := [] })

/-- A write of FLTRD. -/
def execFltrdWrite (vi n : Nat) (v : BitVec 32) (s : State) : Host.Outcome State Fault Refusal :=
  .next (if n < 256 then (s.setCtx vi n { s.ctx vi n with fltrd := v }).flushRecords vi n else s)

/-! ### Functions (R20, R82, R394) -/

/-- Contexts that exist and meet a condition. -/
def State.ctxsWhere (s : State) (f : Nat → Nat → Ctx → Bool) : List (Nat × Nat) :=
  (s.ctxs.filter fun c => c.2.exists' && f (c.1 / 256) (c.1 % 256) c.2).map fun c => (c.1 / 256, c.1 % 256)

/-- End contexts with a code. -/
def State.endAll (s : State) (xs : List (Nat × Nat)) (code : BitVec 8) : State :=
  xs.foldl (fun s x => s.endContext x.1 x.2 0 code) s

/-- A party of the context waits in a way. -/
def State.ctxWaits (s : State) (vi n : Nat) (f : Wait → Bool) : Bool :=
  (s.ctxParties vi n).any fun g => (s.group g).tab.any fun c => c.2.valid && c.2.st == .parked && c.2.wait.parts.any f

/-- An engine operation of the context is held by an address that meets a condition on the function not ready. -/
def State.ctxEngine (s : State) (vi n : Nat) (f : Wait → Bool) : Bool :=
  (s.blocksOf vi n).any fun i =>
    let b := s.block i
    b.tc.any fun c => c.2.pend.any fun p => (p.op.touches c.2).any fun t => match t.sp with
      | .glob => match s.spTranslate ((⟨i, c.2.bind == .zoom⟩ : Eng).unit b.pcore) ((s.ctx vi n).sp b.asid) t.va.toNat t.need with
        | (_, .wait w) => w.parts.any f
        | _ => false
      | .vault =>
        let v := t.va.toNat / 2 ^ 22
        !s.rdymap.getLsbD (8 + v / 64) && f (.notReady (.vault (Fin.ofNat 8 (v / 64))))
      | .tile => false

/-- The access waits in a way. -/
def Hw.waits {α : Type} (h : Hw α) (f : Wait → Bool) : Bool := match h with
  | .wait w => w.parts.any f
  | _ => false

/-- A vault write of the context that has not been performed waits (R79). -/
def State.ctxVault (s : State) (vi n : Nat) (f : Wait → Bool) : Bool :=
  s.vq.any fun w => !w.performed && (s.ctxParties vi n).contains w.gid && !s.rdymap.getLsbD (8 + w.vault / 64)
    && f (.notReady (.vault (Fin.ofNat 8 (w.vault / 64))))

/-- An access of the completion engine or of admission for the context waits: a decrement, a packet's fetch, a SIGNAL or
its completion actions (R328, R329, R333, R334). -/
def State.ctxQueue (s : State) (vi n : Nat) (f : Wait → Bool) : Bool :=
  let word := fun (asid : Nat) (a : Word64) => a != 0 && (s.hwRead (s.space' vi n asid) a 8).waits f
  (s.decs.any fun d => d.vi == vi && d.ctxn == n && word d.asid d.addr)
    || (s.pkts.any fun p => p.2.vi == vi && p.2.ctxn == n && p.2.st != .armed
      && ([p.2.compl, p.2.succ] ++ if p.2.typ = 3 then [p.2.taddr] else []).any (word p.2.asid)
      && (s.pktIs p.1 3 || s.fenceDone p.1 || s.lrecs.any fun l => l.2.pkt == p.1 && s.ends.contains l.1))
    || s.queues.any fun q => q.1 / 32 == vi && q.2.ctxn == n && q.2.pending && match s.nextPkt vi (q.1 % 32) with
      | (_, .wait w) => w.parts.any f
      | _ => false

/-- An access of the hardware to the fault ring, the bitmap or a save area of the context, or of the start hardware to
its input ring, waits (R348, R367, R369, R372, R373). -/
def State.ctxArea (s : State) (vi n : Nat) (f : Wait → Bool) : Bool :=
  let c := s.ctx vi n
  let sp := c.sp c.asid.toNat
  (!c.recs.isEmpty && !c.ringFull
      && (s.hwRead sp (c.fltring + BitVec.ofNat 64 (64 * (c.fltwr.toNat % 2 ^ c.fltlog.toNat))) 64).waits f)
    || (s.frees.any fun x => x.1 == ctxKey vi n && (s.hwRead sp (c.savemap + BitVec.ofNat 64 (x.2 / 8)) 1).waits f)
    || ((s.blocksOf vi n).any fun i => s.saveDue i && (s.saveNow i).waits f)
    || ((s.ctxParties vi n).any fun g => (s.group g).takesEvents && (s.eventEntry g).waits f)
    || (s.cohorts.any fun c => match s.resumeStep c.1 ((s.partCores (s.block c.1).vi).headD 0) with
      | some (m, h) => (s.block m).vi == vi && (s.block m).ctx == n && h.waits f
      | none => false)
    || s.mail.any fun m => match s.nextStart m.1 with
      | some r => r.vi == vi && r.ctxn == n && (s.startRecords r).waits f
      | none => false

/-- An access of the context to a function is outstanding. -/
def State.outstanding (s : State) (vi n : Nat) (f : Wait → Bool) : Bool :=
  s.ctxWaits vi n f || s.ctxEngine vi n f || s.ctxVault vi n f || s.ctxQueue vi n f || s.ctxArea vi n f

/-- A function sets its ready bit (R19, R383); one that has been marked failed does not. -/
def State.setReady (s : State) (f : Func) : State :=
  if s.rdyfail.getLsbD (Func.bit f) then s else { s with rdymap := s.rdymap ||| (1#64 <<< Func.bit f) }

/-- Stack on whose base die a function stands (R384, step 3). -/
def Func.stack : Func → Option Nat
  | .hbm h => some (h.val / 2)
  | .cxl p => some p.val
  | .peer l => some (l.val / 2)
  | .die _ | .vault _ | .base _ | .key => none

/-- A function may set its bit: a port or stack of a base die that is ready, or a die that the trust die has released
from reset (R379, R384). -/
def State.mayReady (s : State) (f : Func) : Bool := match Func.stack f with
  | some k => s.rdymap.getLsbD (16 + k)
  | none => s.released.getLsbD (Func.bit f)

/-- A compute die's time counter is loaded from the trust die's reference before its bit sets (R386). -/
def State.loadTime (s : State) : Func → State
  | .die d => if s.rdymap.getLsbD d.val then s else { s with times := s.times.set 0 d.val s.trustTime }
  | _ => s

/-- A function that may set its ready bit sets it (R19). -/
def execFunctionReady (f : Func) (s : State) : Host.Outcome State Fault Refusal :=
  .next (if s.mayReady f then (s.loadTime f).setReady f else s)

/-- The page is served by the CXL port (R82). -/
def Wait.onPort (p : Nat) : Wait → Bool
  | .deferred page => 1 + page % 3 == p
  | .notReady (.cxl q) => q.val == p
  | _ => false

/-- Functions of the stack of a base die, and of its compute dies: they are reached through it (R10, R15). -/
def stackFuncs (b : Fin 4) : List Func :=
  [.cxl b] ++ [0, 1].flatMap fun i =>
    let k : Fin 8 := Fin.ofNat 8 (2 * b.val + i)
    [.hbm k, .peer k, .die k, .vault k]

/-- The accesses that a failed function leaves outstanding (R20, R394, R400). A base die that is lost ends every
context; one that is still in reset is lost to none (R380). -/
def State.failedCtxs (s : State) (f : Func) : List (Nat × Nat) := match f with
  | .base _ => s.ctxsWhere fun _ _ _ => s.rdymap.getLsbD (Func.bit f)
  | .cxl p => s.ctxsWhere fun vi n _ => s.outstanding vi n (Wait.onPort p.val)
  | .die d => s.ctxsWhere fun vi n _ => (s.blocksOf vi n).any fun i =>
      dieOf (s.block i).pcore == d.val && !(s.block i).saved
  | f => s.ctxsWhere fun vi n _ => s.outstanding vi n (· == .notReady f)

/-- A function's ready bit clears, and it is marked failed (R383). -/
def State.markFail (s : State) (f : Func) : State :=
  { s with rdymap := s.rdymap &&& ~~~ (1#64 <<< Func.bit f)
           released := s.released &&& ~~~ (1#64 <<< Func.bit f), rdyfail := s.rdyfail ||| (1#64 <<< Func.bit f) }

/-- The functions that fail with a function: with a base die in service its whole stack, which only package reset returns
to service (R394). -/
def State.failsWith (s : State) (f : Func) : List Func := match f with
  | .base b => if s.rdymap.getLsbD (Func.bit f) then f :: stackFuncs b else [f]
  | _ => [f]

/-- Functions are marked failed: contexts with an access outstanding to one end by die loss (R20, R380, R383). -/
def State.setFail (s : State) (fs : List Func) : State :=
  fs.foldl (fun s f => (((s.failsWith f).foldl State.markFail s)).endAll (s.failedCtxs f) 0x34) s

/-- Functions whose accesses wait for their ready bit (R20). -/
def accessFuncs : List Func :=
  ((List.range 8).flatMap fun i => [.hbm (Fin.ofNat 8 i), .vault (Fin.ofNat 8 i), .peer (Fin.ofNat 8 i)])
    ++ (List.range 4).map fun p => .cxl (Fin.ofNat 4 p)

/-- Contexts that have since made an access to a function marked failed end too (R20). -/
def State.endFailed (s : State) : State :=
  (accessFuncs.filter fun f => s.rdyfail.getLsbD (Func.bit f)).foldl (fun s f => s.endAll (s.failedCtxs f) 0x34) s

def execFunctionMarkedFailed (f : Func) (s : State) : Host.Outcome State Fault Refusal := .next (s.setFail [f])

/-- Data of a second-tier page has arrived in its expander's DRAM. -/
def execDeferredDataArrival (page : Nat) (s : State) : Host.Outcome State Fault Refusal :=
  .next { s with flash := s.flash.filter (· != page) }

/-- A second-tier access without data for 100 ms, be its port not ready, is an uncorrectable error (R82, R400): logged at
its port, and its contexts end. -/
def State.tier2Timeout (s : State) (page : Nat) : State :=
  let xs := s.ctxsWhere fun vi n _ => s.outstanding vi n (· == .deferred page)
  xs.foldl (fun s x =>
    let asid := (s.ctx x.1 x.2).asid.toNat
    let s := s.logNow 0x04 (locOf 8 (1 + page % 3)) (BitVec.ofNat 64 (page * 4096 % 2 ^ 48 + asid * 2 ^ 48))
    s.endContext x.1 x.2 0 0x41) s

def execSecondTierTimeout (page : Nat) (s : State) : Host.Outcome State Fault Refusal := .next (s.tier2Timeout page)

end Sys2Proof.Machine
end

