-- ==== Sys2Proof/Machine/Caches.lean ====
section
/-! DEFINITION. Directory messages and evictions as events: a message is applied where it arrives, and a reply in
flight is delivered before any party goes on (R90 to R103). -/

namespace Sys2Proof.Machine

/-- Units from u outward. -/
def unitPath (u : Nat) : List Nat :=
  if u < 64 then cluPath u
  else if u < 72 then [u, 72 + (u - 64) / 2, 76 + (u - 64) / 4, 78]
  else if u < 76 then [u, 76 + (u - 72) / 2, 78]
  else if u < 78 then [u, 78]
  else [78]

/-- ASID under which a request of a cluster fills a line: that of a copy the package holds, else that of the first
block on the cluster, else the firmware's. -/
def State.fillAsid (s : State) (clu line : Nat) : Nat :=
  if s.isCached line then s.tagOf line
  else match (s.blocks.map Prod.snd).find? fun b => b.live && cluOf b.pcore == clu with
    | some b => b.asid
    | none => 512

/-- An InvA arrives: the masked bytes of a P line replace those of the next wider unit, whose copies outside the path are
invalidated (R96). Where no copy is left in that unit, what it had not published goes on to the home with them: no
written byte is lost. -/
def State.applyInva (s : State) (u line : Nat) (d : Line) (m : BitVec 128) : State :=
  match unitPath u with
  | _ :: p :: rest =>
    let tag := s.tagOf line
    let s := if m = 0 then s else (State.fetch line tag (p :: rest) s).receive u p line d m
    if s.anyIn p line || (p :: rest).all fun w => (s.copy w line).dirty = 0 then State.unlist line (unitPath u) s
    else State.unlist line (unitPath u) ((State.carryUp line tag 4 (p :: rest) s).toHome line)
  | _ => s

/-- A message arrives (R93, R108). -/
def State.deliver (s : State) : Msg → State
  | .inva u line d m => s.applyInva u line d m
  | .puba u line => match unitPath u with
    | _ :: p :: _ => s.carryTime (dieKey p line) (dieKey u line)
    | _ => s
  | .dra clu i x => s.carryTime ((slices clu x).getD i (clu / 8)) (clu / 8)
  | .data clu line d die =>
    match cluPath clu with
    | k :: p :: _ =>
      let s := s.carryTime die (k / 8)
      if (s.copy k line).valid then s
      else s.setCopy k line { valid := true, data := d, tag := (s.copy p line).tag }
    | _ => s

/-- Deliver the messages of a list in order. -/
def State.deliverList (s : State) (ms : List Msg) : State := ms.foldl State.deliver s

/-- Every message in flight arrives, in the order sent (R98). -/
def State.deliverAll (s : State) : State := ({ s with net := [] } : State).deliverList s.net

/-- The first message that satisfies f arrives. -/
def State.deliverFirst (s : State) (f : Msg → Bool) : State :=
  match findIx f s.net 0 with
  | none => s
  | some (i, m) => ({ s with net := s.net.eraseIdx i } : State).deliver m

def State.sendMsg (s : State) (m : Msg) : State := { s with net := s.net ++ [m] }

/-! ### Evictions and write-through (R85, R90, R96) -/

def execLlcEviction (line : Nat) (s : State) : Host.Outcome State Fault Refusal := .next (s.deliverAll.evictLlc line)

def execClusterCacheEviction (clu line : Nat) (s : State) : Host.Outcome State Fault Refusal :=
  .next (if clu < 64 then s.deliverAll.evictCluster clu line else s)

def execWt (core : Nat) (s : State) : Host.Outcome State Fault Refusal := .next (s.deliverAll.wtOne core)

/-! ### Requests (R95, R96) -/

/-- RdS: a cluster without a valid copy reads the line from the nearest valid copy; the Data is sent to it. -/
def execRds (clu line : Nat) (s : State) : Host.Outcome State Fault Refusal :=
  .next (if clu < 64 then
    let s := s.deliverAll
    if (s.copy clu line).valid then s
    else match cluPath clu with
      | _ :: p :: rest =>
        let die := s.dataFrom line (cluPath clu)
        let s := State.gather line 4 p (State.fetch line (s.fillAsid clu line) (p :: rest) s)
        s.sendMsg (.data clu line (s.copy p line).data die)
      | _ => s
  else s)

/-- RdX: a cluster obtains a line exclusively within its unit of a scope. -/
def execRdx (clu line : Nat) (x : Scope) (s : State) : Host.Outcome State Fault Refusal :=
  .next (if clu < 64 then
    let s := s.deliverAll
    State.obtain line (s.fillAsid clu line) (Scope.depth x) clu s
  else s)

/-- Upg: RdX for a line already held valid. -/
def execUpg (clu line : Nat) (x : Scope) (s : State) : Host.Outcome State Fault Refusal :=
  .next (if clu < 64 then
    let s := s.deliverAll
    if (s.copy clu line).valid then State.obtain line (s.copy clu line).tag (Scope.depth x) clu s else s
  else s)

/-- Fwd: a directory forwards a request to the holder of the newest copy, whose unpublished bytes come up to it. -/
def execFwd (unit line : Nat) (s : State) : Host.Outcome State Fault Refusal :=
  .next (if unit < 79 then State.gather line 4 unit s.deliverAll else s)

/-- Inv: the copies within a unit are invalidated; its unpublished bytes travel in the InvA. -/
def execInv (unit line : Nat) (s : State) : Host.Outcome State Fault Refusal :=
  .next (if unit < 78 then
    let s := s.deliverAll
    if (s.copy unit line).valid then
      let s := if unit < 64 then s else s.invalidateOthers unit (fun _ => false) line
      let c := s.copy unit line
      (s.setCopy unit line Copy.empty).sendMsg (.inva unit line c.data c.dirty)
    else s.sendMsg (.inva unit line 0 0)
  else s)

def execInva (unit line : Nat) (s : State) : Host.Outcome State Fault Refusal :=
  .next (s.deliverFirst fun m => match m with
    | .inva u l _ _ => u == unit && l == line
    | _ => false)

/-- Pub: a P line is published one level up, and the next wider directory answers. -/
def execPub (unit line : Nat) (s : State) : Host.Outcome State Fault Refusal :=
  .next (if unit < 78 then
    let s := s.deliverAll
    if (s.copy unit line).valid && (s.copy unit line).dirty != 0 then
      match unitPath unit with
      | _ :: p :: rest =>
        ((State.fetch line (s.copy unit line).tag (p :: rest) s).publish unit p line).sendMsg (.puba unit line)
      | _ => s
    else s
  else s)

def execPuba (unit line : Nat) (s : State) : Host.Outcome State Fault Refusal :=
  .next (s.deliverFirst fun m => match m with
    | .puba u l => u == unit && l == line
    | _ => false)

/-- DrQ of a cluster's drain reaches a slice of the directory of the release's scope, which answers once its own
invalidations are acknowledged. -/
def execDrq (q : DrainAsk) (s : State) : Host.Outcome State Fault Refusal :=
  .next (if q.clu < 64 && q.slice < (slices q.clu q.scope).length then
    s.deliverAll.sendMsg (.dra q.clu q.slice q.scope) else s)

def execDra (q : DrainAsk) (s : State) : Host.Outcome State Fault Refusal :=
  .next (s.deliverFirst fun m => match m with
    | .dra k i y => k == q.clu && i == q.slice && y == q.scope
    | _ => false)

/-- AtH: an atomic of a cluster performed at the home slice, after every cached copy has been invalidated (R102); the
predictor follows (R103). -/
def execAth (clu pa : Nat) (op : AtOp) (t : AType) (x : BitVec 64) (s : State) : Host.Outcome State Fault Refusal :=
  let n := AType.bits t / 8
  .next (if clu < 64 && pa % n == 0 && (paKind s.hbmFine pa != .aperture) && (paKind s.hbmFine pa != .reserved) then
    let s := s.deliverAll
    let asid := s.fillAsid clu (pa / 128)
    ((s.predict clu pa true false).rmwHome asid pa n fun bs =>
      toBytes n (atVal op t (ofBytes bs) (x.toNat % 2 ^ AType.bits t))).1
  else s)

def execData (clu line : Nat) (s : State) : Host.Outcome State Fault Refusal :=
  .next (s.deliverFirst fun m => match m with
    | .data k l _ _ => k == clu && l == line
    | _ => false)

end Sys2Proof.Machine
end

