-- ==== Sys2Proof/Machine/Vaults.lean ====
section
/-! DEFINITION. Vault owners, vault accesses in flight, and transcode windows (R77, R79, R83 to R86). -/

namespace Sys2Proof.Machine

/-! ### Owner registers (R77) -/

/-- Zero a vault. -/
def State.zeroVault (s : State) (v : Nat) : State :=
  { s with vault := s.vault.filter fun c => c.1 / 2 ^ 22 != v }

/-- The driver's view of the owner register. -/
def Vown.word (o : Vown) : Word64 :=
  BitVec.ofNat 64 (ofBool o.valid * 2 ^ 15 + ofBool o.scrub * 2 ^ 14 + o.asid.toNat)

/-- A vault may be given to an ASID: one of the interface whose partition holds the core below it, and of no context
without the feature VAULT (R169, R323). -/
def State.mayOwn (s : State) (vault : Nat) (asid : BitVec 9) : Bool :=
  (s.ifaces.all fun c => !c.2.clus.contains (cluOf vault) || c.2.owns asid.toNat)
    && s.ctxs.all fun c => c.2.asid != asid || c.2.cstate == .free || c.2.feat0.getLsbD 21

/-- A write of a vault's owner register: a changed ASID, or a vault newly assigned, is scrubbed first. One that gives
the vault where it may not be given is ignored. -/
def execVownWrite (vault : Nat) (w : BitVec 64) (s : State) : Host.Outcome State Fault Refusal :=
  let o := s.vown.get Vown.reset vault
  let valid := w.getLsbD 15
  let asid := w.truncate 9
  let scrub := asid != o.asid || (valid && !o.valid)
  .next (if vault < 512 && (!valid || s.mayOwn vault asid) then
    let s := if scrub then s.zeroVault vault else s
    { s with vown := s.vown.set Vown.reset vault { valid := valid, scrub := o.scrub || scrub, asid := asid } }
  else s)

/-- A scrub has ended: the accesses it held proceed. -/
def execVaultScrubDone (vault : Nat) (s : State) : Host.Outcome State Fault Refusal :=
  .next { s with vown := s.vown.upd Vown.reset vault fun o => { o with scrub := false } }

/-- A group's oldest vault write to a vault that has not been performed is performed there (R79); a scrub holds it
until its end (R77), and a vault die that is not ready does (R20). -/
def State.vaultOne (s : State) (gid vault : Nat) : State :=
  if (s.vown.get Vown.reset vault).scrub || !s.vaultUp vault then s
  else match findIx (fun w => w.gid == gid && w.vault == vault && !w.performed) s.vq 0 with
  | none => s
  | some (i, w) =>
    let s := s.putVault (vault * 2 ^ 22 + w.off) w.bytes
    { s with vq := s.vq.set i { w with performed := true } }

def execVaultAccess (gid vault : Nat) (s : State) : Host.Outcome State Fault Refusal := .next (s.vaultOne gid vault)

/-- The acknowledgement of a group's oldest performed write to a vault returns. -/
def execVaultWriteAck (gid vault : Nat) (s : State) : Host.Outcome State Fault Refusal :=
  .next (match findIx (fun w => w.gid == gid && w.vault == vault && w.performed) s.vq 0 with
    | none => s
    | some (i, _) => { s with vq := s.vq.eraseIdx i })

/-! ### Transcode windows (R83 to R86) -/

/-- Bytes of stored elements and of stored scales of a window (R84). -/
def Window.elemBytes (w : Window) : Nat :=
  w.blocks * w.size * (if w.fmt then w.blockLen / 2 else w.blockLen)

def Window.scaleBytes (w : Window) : Nat := 2 * w.blocks * w.size

/-- A range of HBM that a stack's window may use (R83). -/
def rangeOfStack (fine : Bool) (stack a n : Nat) : Bool :=
  if fine then decide (a + n ≤ 2 ^ 39)
  else decide (stack * 2 ^ 37 ≤ a) && decide (a + n ≤ (stack + 1) * 2 ^ 37)

/-- The checks of an enable (R83). Window number win stands on stack win / 16. -/
def State.windowOk (s : State) (win : Nat) (w : Window) : Bool :=
  w.size != 0 && decide (2 ^ 39 ≤ w.ap) && decide (w.ap + 128 * w.size ≤ 2 ^ 40)
    && !(s.win.any fun c => c.1 != win && c.2.en
      && decide (c.2.ap < w.ap + 128 * w.size) && decide (w.ap < c.2.ap + 128 * c.2.size))
    && rangeOfStack s.hbmFine (win / 16) w.elem w.elemBytes && rangeOfStack s.hbmFine (win / 16) w.scale w.scaleBytes

/-- Every line of the window is recalled at every level and written back, the stores that cores have issued to it
among them, and BUSY clears. -/
def State.windowFlush (s : State) (win : Nat) : State :=
  let w := s.win.get Window.reset win
  if !w.busy then s
  else
    let inside := fun l => decide (w.ap ≤ 128 * l) && decide (128 * l < w.ap + 128 * w.size)
    let s := (((s.wtq.filter fun e => inside e.line).map WtEntry.core).eraseDups).foldl State.drainCore s.deliverAll
    let s := (s.cachedLines.filter inside).foldl State.recallEvery s
    { s with win := s.win.set Window.reset win { w with busy := false } }

/-- Setting EN checks the window, and enables it or sets ERR; flushes still in progress end first. -/
def execTwctlEnable (win : Nat) (s : State) : Host.Outcome State Fault Refusal :=
  .next (if win < 64 && !(s.win.get Window.reset win).en then
    let s := (s.win.map Prod.fst).foldl State.windowFlush s
    let w := s.win.get Window.reset win
    let ok := s.windowOk win w
    { s with win := s.win.set Window.reset win { w with en := ok, err := !ok } }
  else s)

/-- Clearing EN starts the flush. -/
def execTwctlDisable (win : Nat) (s : State) : Host.Outcome State Fault Refusal :=
  let w := s.win.get Window.reset win
  .next (if w.en then { s with win := s.win.set Window.reset win { w with en := false, busy := true } } else s)

def execTwFlushDone (win : Nat) (s : State) : Host.Outcome State Fault Refusal := .next (s.windowFlush win)

end Sys2Proof.Machine
end

