-- ==== Sys2Proof/Machine/Bringup.lean ====
section
/-! DEFINITION. Images and bring-up, memory-encryption keys, quiesce and reset of dies, directory rebuild
(R337, R379, R380, R384 to R396). -/

namespace Sys2Proof.Machine

/-! ### Images (R379, R380) -/

/-- Bytes from an offset of an image. -/
def Image.slice (i : Image) (o n : Nat) : List Byte := (i.bytes.drop o).take n

/-- An image that comes in two parts, such as its header and its body. -/
def Image.append (i : Image) (bs : List Byte) : Image := ⟨i.bytes ++ bs⟩

/-- The signed message: bytes 0 to 127. -/
def Image.message (i : Image) : List Byte := Image.slice i 0 128

def Image.kind (i : Image) : Nat := ofBytes (Image.slice i 4 1)

def Image.svn (i : Image) : Nat := ofBytes (Image.slice i 6 2)

def Image.length (i : Image) : Nat := ofBytes (Image.slice i 8 4)

def Image.digest (i : Image) : BitVec 384 := BitVec.ofNat 384 (ofBytes (Image.slice i 16 48))

/-- The body, from byte 3,584 on. -/
def Image.body (i : Image) : List Byte := Image.slice i 3584 (Image.length i)

/-- First byte and number of the bytes marked zero. -/
def zeroRanges : List (Nat × Nat) := [(5, 1), (12, 4), (64, 64), (3501, 83)]

/-- The header's format: magic, the kind asked for, a whole body, zeros (R379). -/
def Image.formed (i : Image) (kind : BitVec 8) : Bool :=
  ofBytes (Image.slice i 0 4) == 0x4C474D49 && Image.kind i == kind.toNat
    && decide (3584 + Image.length i ≤ i.bytes.length)
    && zeroRanges.all fun r => (Image.slice i r.1 r.2).all (· == 0)

/-- Format, body digest, version and both signatures (R380). -/
def Image.ok (i : Image) (kind : BitVec 8) : Bool :=
  Image.formed i kind && Config.sha384 (Image.body i) == Image.digest i
    && decide (Config.minSvn kind ≤ Image.svn i)
    && Config.verifyEd (Image.message i) (Image.slice i 128 64)
    && Config.verifyMl (Image.message i) (Image.slice i 192 3309)

/-- A configuration image leaves the memory mode as it is, once that has been loaded (R385). -/
def State.keepsMode (s : State) (i : Image) : Bool := !s.hbmSet || Config.fineOf (Image.body i) == s.hbmFine

/-- Acceptance or rejection is logged for the die of an image; an accepted digest extends its measurement. -/
def State.verify (s : State) (i : Image) (kind : BitVec 8) (loc : BitVec 16) : State × Bool :=
  let ok := Image.ok i kind && (kind != 5 || s.keepsMode i)
  let s := s.logNow 0x40 loc (BitVec.ofNat 64 (Image.kind i + ofBool (!ok) * 2 ^ 8 + Image.svn i * 2 ^ 16))
  let m := s.spdm.measured.get 0 kind.toNat
  let m' := Config.sha384 (toBytes 48 m.toNat ++ toBytes 48 (Image.digest i).toNat)
  (if ok then { s with spdm := { s.spdm with measured := s.spdm.measured.set 0 kind.toNat m' } } else s, ok)

/-- Verify images in order, each for its die; all must be accepted. -/
def verifyAll : List (Image × BitVec 8 × BitVec 16) → State → State × Bool
  | [], s => (s, true)
  | (i, k, l) :: t, s =>
    let (s, a) := s.verify i k l
    let (s, b) := verifyAll t s
    (s, a && b)

/-! ### Bring-up (R384 to R386) -/

/-- The trust die releases a function from reset. -/
def State.releaseFunc (s : State) (f : Func) : State := { s with released := s.released ||| (1#64 <<< Func.bit f) }

/-- The memory mode is loaded from the configuration image before any HBM bit sets, and stands until package reset
(R73, R385). -/
def State.loadMode (s : State) (cfg : Image) : State :=
  if s.hbmSet then s else { s with hbmFine := Config.fineOf (Image.body cfg), hbmSet := true }

/-- Step 2: a base die. The configuration image is `cfg` with `body` after its bytes. -/
def execBaseDieRelease (d : Fin 4) (img cfg : Image) (body : List Byte) (s : State) :
    Host.Outcome State Fault Refusal :=
  let f := Func.base d
  let cfg := Image.append cfg body
  .next (if s.rdymap.getLsbD 40 && !s.rdymap.getLsbD (Func.bit f) && !s.rdyfail.getLsbD (Func.bit f) then
    match verifyAll [(img, 1, locOf 2 d.val), (cfg, 5, locOf 2 d.val)] s with
    | (s, true) => ((s.loadMode cfg).releaseFunc f).setReady f
    | (s, false) => s.setFail [f]
  else s)

/-- Step 3: HBM stacks, CXL ports and peer links train independently. -/
def execLinkTrained (f : Func) (s : State) : Host.Outcome State Fault Refusal :=
  .next (if (Func.stack f).isSome && s.mayReady f then s.setReady f else s)

/-- The agent of a core starts (R338, R340). -/
def State.startAgent (s : State) (c : Nat) : State :=
  let vi := s.ownerOf c
  let sr : SysRegs := match vi with
    | some v => { ifn := BitVec.ofNat 8 v, fwbase := (s.iface v).fwbase, agOut := false }
    | none => { ifn := 0xFF, agOut := true }
  s.putAgent c sr

/-- Physical address of a byte of an HBM4 stack, by its offset within the stack (R73). -/
def hbmAddr (fine : Bool) (h off : Nat) : Nat :=
  if fine then
    let t := off / 2 ^ 33 % 8
    t * 2 ^ 36 + off / 256 % 2 ^ 25 * 2048 + Nat.xor h t * 256 + off % 256
  else h * 2 ^ 36 + off % 2 ^ 36

/-- Write bytes at consecutive offsets of an HBM4 stack under the firmware key. -/
def State.putStack (s : State) (h : Nat) : Nat → List Byte → State
  | _, [] => s
  | off, b :: t => (s.setHbmByte (hbmAddr s.hbmFine h off) 512 b).putStack h (off + 1) t

/-- The agent firmware of a die is placed in the HBM of a stack whose bit is set: the first (R384, R387). -/
def State.placeFirmware (s : State) (d : Nat) (agent : Image) : State :=
  match (List.range 8).find? fun h => s.rdymap.getLsbD (20 + h) with
  | some h => s.putStack h (Config.fwPlace d) (Image.body agent)
  | none => s

/-- Step 4, and a return to service: a compute die with its vault die, its firmware and its agents; its time counter
is loaded from the trust die's reference (R386). -/
def State.releaseDie (s : State) (d : Nat) (agent : Image) : State :=
  let die := Func.die (Fin.ofNat 8 d)
  let vault := Func.vault (Fin.ofNat 8 d)
  let s := { s with times := s.times.set 0 d s.trustTime }
  let s := (coreRun (64 * d) 64).foldl State.startAgent (s.placeFirmware d agent)
  (((s.releaseFunc die).releaseFunc vault).setReady die).setReady vault

/-- Verify the images of a compute die: one that is rejected leaves its die in reset (R380). -/
def State.verifyDie (s : State) (d : Nat) (die vault agent : Image) : State × Bool :=
  let (s, a) := s.verify die 2 (locOf 3 d)
  let (s, b) := s.verify vault 3 (locOf 4 d)
  let (s, c) := s.verify agent 4 (locOf 3 d)
  let fs := (if a && c then [] else [Func.die (Fin.ofNat 8 d)]) ++ (if b then [] else [Func.vault (Fin.ofNat 8 d)])
  (s.setFail fs, a && b && c)

/-- Preconditions of step 4: the base die of the stack, and one HBM stack of the package. -/
def State.dieMayStart (s : State) (d : Nat) : Bool := s.rdymap.getLsbD (16 + d / 2) && bits s.rdymap 20 8 != 0

def execComputeDieRelease (d : Fin 8) (die vault agent : Image) (s : State) : Host.Outcome State Fault Refusal :=
  .next (if s.dieMayStart d.val && !s.rdymap.getLsbD d.val && !s.rdyfail.getLsbD d.val
      && (s.dqs.get {} d.val).st == .service then
    match s.verifyDie d.val die vault agent with
    | (s, true) => s.releaseDie d.val agent
    | (s, false) => s
  else s)

/-! ### Keys (R387 to R390) -/

/-- The ASID holds a key. -/
def State.hasKey (s : State) (asid : Nat) : Bool := (s.keys.get Key.none asid).valid

/-- A context of the ASID exists. -/
def State.asidInUse (s : State) (asid : Nat) : Bool := !(s.ctxsWhere fun _ _ c => c.asid.toNat == asid).isEmpty

/-- A key command is accepted, or refused with ERR. -/
def State.keyCmd (s : State) (ok : Bool) (op : KeyOp) (asid : Nat) : State :=
  if s.keyr.busy.isSome || !ok then { s with keyr := { s.keyr with err := true, asid := BitVec.ofNat 9 asid } }
  else { s with keyr := { s.keyr with err := false, busy := some op, asid := BitVec.ofNat 9 asid } }

def execKeyInstall (asid : Fin 512) (s : State) : Host.Outcome State Fault Refusal :=
  .next (s.keyCmd (!s.asidInUse asid.val) (.install asid.val) asid.val)

def execKeyDestroy (asid : Fin 512) (s : State) : Host.Outcome State Fault Refusal :=
  .next (s.keyCmd (!s.asidInUse asid.val) (.destroy asid.val) asid.val)

/-- The range of a seal: base and pages; none where a register is out of its format or the range leaves HBM (R389). -/
def KeyRegs.range (k : KeyRegs) : Option (Nat × Nat) :=
  let a := k.keybase.toNat
  let n := k.keylen.toNat
  if a % 4096 = 0 ∧ 1 ≤ n ∧ n ≤ 2 ^ 24 ∧ a + 4096 * n ≤ 2 ^ 39 then some (a, n) else none

def execKeySeal (asid : Fin 512) (s : State) : Host.Outcome State Fault Refusal :=
  .next (match s.keyr.range with
    | none => s.keyCmd false (.seal asid.val 0 0) asid.val
    | some (a, n) => s.keyCmd (s.hasKey asid.val) (.seal asid.val a n) asid.val)

/-- Write back and drop every cached line that meets a condition. -/
def State.recallWhere (s : State) (f : Nat → Bool) : State :=
  let s := s.deliverAll
  (s.cachedLines.filter f).foldl State.recallEvery s

/-- A line of the package is tagged with an ASID. -/
def State.taggedWith (s : State) (asid line : Nat) : Bool :=
  s.coh.any fun c => c.1 % 2 ^ 41 == line && c.2.valid && c.2.tag == asid

/-- Encrypt a line of HBM in place: what stands there in plaintext then reads the same under the key, and a line that
stands under a key is encrypted again (R389). -/
def State.sealLine (s : State) (asid line : Nat) : State := s.setHbmLine line asid (s.memLine line)

/-- The work of a key command is done. -/
def State.keyDone (s : State) : State :=
  let fin := fun (s : State) => ({ s with keyr := { s.keyr with busy := none } } : State)
  match s.keyr.busy with
  | none => s
  | some (.install a) =>
    let k := s.keys.get Key.none a
    fin { s with keys := s.keys.set Key.none a { key := Config.freshKey a s.clock, valid := true, gen := k.gen + 1 } }
  | some (.destroy a) =>
    let s := s.recallWhere (s.taggedWith a)
    fin { s with keys := s.keys.upd Key.none a fun k => { k with key := 0, valid := false } }
  | some (.seal a base n) =>
    let s := s.recallWhere fun l => decide (base / 128 ≤ l) && decide (l < base / 128 + 32 * n)
    fin ((coreRun (base / 128) (32 * n)).foldl (State.sealLine · a) s)

def execKeyctlComplete (s : State) : Host.Outcome State Fault Refusal := .next s.keyDone

/-! ### Quiesce and reset of a compute die (R391 to R396) -/

def State.dq (s : State) (d : Nat) : Dq := s.dqs.get {} d

def State.setDq (s : State) (d : Nat) (q : Dq) : State := { s with dqs := s.dqs.set {} d q }

/-- Clear the ready bits of a compute die and its vault die, which set again at the return to service. -/
def State.clearDie (s : State) (d : Nat) : State :=
  let m : Word64 := ~~~ ((1#64 <<< d) ||| (1#64 <<< (8 + d)))
  { s with rdymap := s.rdymap &&& m, released := s.released &&& m }

/-- OUT for every core of a die (R345). -/
def State.outDie (s : State) (d : Nat) : State :=
  (coreRun (64 * d) 64).foldl (fun s c => { s with occ := s.occ.set occReset c (s.occOf c ||| (1#64 <<< 63)) }) s

/-- Blocks of the cohorts that have a block on a die. -/
def State.dieCohorts (s : State) (d : Nat) : List Nat :=
  ((s.cohorts.filter fun c => c.2.members.any fun i =>
    let b := s.block i
    b.live && !b.saved && dieOf b.pcore == d).flatMap fun c => c.2.members).filter fun i => (s.block i).live

/-- Items of a die's agents pass to agents on other dies (R339). -/
def State.passDie (s : State) (d : Nat) : State := (coreRun (64 * d) 64).foldl State.passOn s

/-- CMD 1: the die is quiesced. -/
def State.quiesce (s : State) (d : Nat) : State :=
  let q := s.dq d
  if q.st != .service || q.busy then s
  else
    let s := s.setDq d { q with busy := true, st := .quiescing }
    let s := ((s.clearDie d).outDie d).passDie d
    let s := (coreRun (64 * d) 64).foldl (fun s c => (coreRun 0 4).foldl (fun s _ => s.takeStart c) s) s
    (s.dieCohorts d).foldl State.preemptBlock s

def execDieQuiesce (d : Fin 8) (s : State) : Host.Outcome State Fault Refusal := .next (s.quiesce d.val)

/-- A level that has not returned its quiesce token after 500 µs: its die is quiesced and reset (R337). -/
def execQuiesceTokenTimeout (vi q die : Nat) (s : State) : Host.Outcome State Fault Refusal :=
  .next (if q < 32 && die < 8 && (s.tokens false vi q).contains (64 + die) then s.quiesce die else s)

/-- No block on the die is left. -/
def State.dieEmpty (s : State) (d : Nat) : Bool :=
  (s.blocks.all fun c => !c.2.live || c.2.saved || dieOf c.2.pcore != d)
    && s.mail.all fun c => c.1 / 64 != d || c.2.recs.isEmpty

/-- Evict every line of the cluster caches of a die (R96, R392). -/
def State.drainDie (s : State) (d : Nat) : State :=
  let s := (coreRun (64 * d) 64).foldl State.drainCore s.deliverAll
  (coreRun (8 * d) 8).foldl (fun s k =>
    s.cachedLines.foldl (fun s line => s.evictCluster k line) s) s

/-- Reset a die: its cores, caches and agents hold nothing. -/
def State.resetDie (s : State) (d : Nat) : State :=
  let s := (coreRun (64 * d) 64).foldl (fun s c => (s.flushL1 c).setGroup (c * 17 + 16) Group.empty) s
  { s with
    wtq := s.wtq.filter fun e => dieOf e.core != d
    tlb := s.tlb.filter fun t => !(t.unit < 512 && t.unit / 64 == d) && !(512 ≤ t.unit && (t.unit - 512) / 8 == d)
    mail := s.mail.filter fun c => c.1 / 64 != d }

/-- A fenced die returns at once the quiesce tokens that it owes (R337, R392). -/
def State.fenceTokens (s : State) (d : Nat) : State :=
  let s := s.queues.foldl (fun s c => s.tokenOf false (c.1 / 32) (c.1 % 32) (64 + d)) s
  s.ctxs.foldl (fun s c => s.tokenOf true (c.1 / 256) (c.1 % 256) (64 + d)) s

/-- The die has drained within its deadline: fenced, vaults retained, reset. -/
def State.drained (s : State) (d : Nat) : State :=
  let q := s.dq d
  if q.st != .quiescing || !s.dieEmpty d then s
  else
    let s := (s.drainDie d).resetDie d
    let s := (s.fenceTokens d).setDq d { q with busy := false, forced := false, st := .fenced, dirty := [] }
    s.logNow 0x30 (locOf 3 d) 0

def execDieDrainComplete (d : Fin 8) (s : State) : Host.Outcome State Fault Refusal := .next (s.drained d.val)

/-- The wider directories that a die's lines are tracked in, widest first (R395). -/
def widerUnits (d : Nat) : List Nat := [78, 76 + d / 4, 72 + d / 2]

/-- A unit lists a line as owned through a die (R94, R395). -/
def State.ownedIn (s : State) (line d : Nat) : Nat → Nat → Bool
  | 0, _ => false
  | f + 1, u =>
    let c := s.copy u line
    c.valid && match c.owner with
      | some o => inUnit o (64 + d) || s.ownedIn line d f o
      | none => false

/-- Lines of which a die holds the only modified copy: bytes written within it and not published further, or a wider
directory's ownership through it (R395). -/
def State.dieLines (s : State) (d : Nat) : List Nat :=
  ((s.coh.filter fun c => inUnit (c.1 / 2 ^ 41) (64 + d) && c.2.dirty != 0
      || (widerUnits d).contains (c.1 / 2 ^ 41) && s.ownedIn (c.1 % 2 ^ 41) d 4 (c.1 / 2 ^ 41)).map
    fun c => c.1 % 2 ^ 41).eraseDups

/-- The last published value of a line above a unit: that of the nearest wider unit with a valid copy, else of the home
(R395). -/
def State.published (s : State) (line : Nat) (wider : List Nat) : Line :=
  match wider.reverse.find? fun u => (s.copy u line).valid with
  | some u => (s.copy u line).data
  | none => (s.homeRead line (s.tagOf line)).2.data

/-- A line that a unit lists as owned through a die takes its last published value there, and in the copies inside but for
bytes that their own units have written and not published to it (R395, R396; log entry 69). -/
def State.revertAt (line d : Nat) (s : State) (u : Nat) : State :=
  if s.ownedIn line d 4 u then
    let v := s.published line ((widerUnits d).filter (u < ·))
    let s := s.setCopy u line { s.copy u line with data := v, dirty := 0 }
    ((s.others u (inUnit · (64 + d)) line)).foldl (fun s w =>
      let c := s.copy w line
      s.setCopy w line { c with data := mergeBytes v c.data (s.below w u line) }) s
  else s

/-- The copies that are left once a die's are gone, and its ownership with them. -/
def State.withoutDie (s : State) (d : Nat) : Store Copy :=
  (s.coh.filter fun c => !inUnit (c.1 / 2 ^ 41) (64 + d)).map fun c =>
    (c.1, if s.ownedIn (c.1 % 2 ^ 41) d 4 (c.1 / 2 ^ 41) then { c.2 with owner := none } else c.2)

/-- Drop every copy that a die holds (R395): its lines take their last published values, and a directory drops a line of
which no cluster in its unit is left with a copy. -/
def State.dropDie (s : State) (d : Nat) : State :=
  let s := (s.dieLines d).foldl (fun s l => (widerUnits d).foldl (State.revertAt l d) s) s
  let s := { s with coh := s.withoutDie d }
  { s with coh := s.coh.filter fun c => !((widerUnits d).contains (c.1 / 2 ^ 41) && !s.anyIn (c.1 / 2 ^ 41) (c.1 % 2 ^ 41)) }

/-- Engine operations of the blocks on a die are dropped at its fence (R392). -/
def State.dropOps (s : State) (d : Nat) : State :=
  { s with blocks := s.blocks.map fun c =>
      (c.1, if dieOf c.2.pcore = d && !c.2.saved then
        { c.2 with tc := c.2.tc.map fun t => (t.1, { t.2 with pend := [] }) } else c.2) }

/-- The unit whose message it is. -/
def Msg.unit : Msg → Nat
  | .inva u _ _ _ | .puba u _ | .dra u _ _ | .data u _ _ _ => u

/-- The deadline has passed: the die is fenced at once, contexts end by die loss, and its vaults are scrubbed. What a
stopped block has still to perform there is dropped, and ends nothing: a queue reset leaves its context (R337). -/
def State.forceFence (s : State) (d : Nat) : State :=
  let q := s.dq d
  if q.st != .quiescing then s
  else
    let s := { s with wtq := s.wtq.filter fun e => dieOf e.core != d
                      net := s.net.filter fun m => !inUnit m.unit (64 + d) }
    let lost := (s.dieLines d).map fun l => (d, l / 32, s.tagOf l)
    let mine := s.ctxsWhere fun vi n c =>
      ((s.blocksOf vi n).any fun i => !(s.block i).saved && !(s.block i).killed && dieOf (s.block i).pcore == d)
        || (s.mail.any fun m => m.1 / 64 == d && m.2.recs.any fun r => r.2.vi == vi && r.2.ctxn == n)
        || ((List.range 64).any fun v =>
          let o := s.vown.get Vown.reset (64 * d + v)
          o.valid && o.asid == c.asid)
        || q.dirty.contains c.asid.toNat
    let dirtyOnes := mine.filter fun x => q.dirty.contains (s.ctx x.1 x.2).asid.toNat
    let s := (s.dropDie d).dropOps d
    let s := s.endAll mine 0x34
    let s := s.dropDie d
    let s := (coreRun (64 * d) 64).foldl (fun s v => { s.zeroVault v with vown := s.vown.set Vown.reset v Vown.reset }) s
    let s := dirtyOnes.foldl (fun s x =>
      s.logNow 0x33 (locOf 3 d) ((s.ctx x.1 x.2).asid.zeroExtend 64)) s
    let s := { s.resetDie d with lost := s.lost ++ lost.eraseDups }
    ((s.fenceTokens d).setDq d { q with forced := true, st := .rebuilding }).logNow 0x30 (locOf 3 d) 1

def execDieQuiesceDeadline (d : Fin 8) (s : State) : Host.Outcome State Fault Refusal := .next (s.forceFence d.val)

/-- The rebuild is over: the loss list and its end are logged, with its duration as a free value, and the die is
fenced. -/
def State.rebuilt (s : State) (d : Nat) : State :=
  let q := s.dq d
  if q.st != .rebuilding then s
  else
    let s := (s.lost.filter fun p => p.1 == d).foldl (fun s p =>
      s.logNow 0x32 (locOf 2 (d / 2)) (BitVec.ofNat 64 (p.2.1 * 4096 + p.2.2 * 2 ^ 48))) s
    let us := Config.freeWord s.free
    let s := { s with lost := s.lost.filter fun p => p.1 != d, free := s.free + 1 }
    (s.logNow 0x31 (locOf 2 (d / 2)) ((us.truncate 32).zeroExtend 64)).setDq d
      { q with busy := false, st := .fenced }

def execRebuildComplete (d : Fin 8) (s : State) : Host.Outcome State Fault Refusal := .next (s.rebuilt d.val)

/-- The cores of a die that belong to a partition are usable again (R345). -/
def State.inDie (s : State) (d : Nat) : State :=
  ((coreRun (64 * d) 64).filter fun c => (s.ownerOf c).isSome).foldl (fun s c =>
    { s with occ := s.occ.set occReset c (s.occOf c &&& ~~~ (1#64 <<< 63)) }) s

/-- CMD 2: a fenced die returns to service by step 4 of bring-up, once its images have been verified again; a failure
marks it failed. -/
def State.returnDie (s : State) (d : Nat) (die vault agent : Image) : State :=
  let q := s.dq d
  if !(q.st == .fenced || (q.st == .returning && q.busy)) || !s.dieMayStart d then s
  else match s.verifyDie d die vault agent with
    | (s, true) => ((s.releaseDie d agent).inDie d).setDq d { q with busy := false, st := .service }
    | (s, false) => s.setDq d { q with busy := false, st := .returning }

def execDieReturn (d : Fin 8) (die vault agent : Image) (s : State) : Host.Outcome State Fault Refusal :=
  .next (s.returnDie d.val die vault agent)

end Sys2Proof.Machine
end

