-- ==== Sys2Proof/Machine/Matrix.lean ====
section
/-! DEFINITION. Matrix instructions: MMA with its keep latch, MMAC with its rendezvous, MZERO, MRD and MWR
(R239 to R260). -/

namespace Sys2Proof.Machine

/-! ### Operand shapes (R239 to R245) -/

/-- K of a type of A (R239). -/
def MType.depth : MType → Nat
  | .dx4 => 128
  | .dx8 => 64
  | .bf16 | .fp16 => 32
  | .fp32 => 16
  | .fp64 => 8

/-- Chunk length (R124). -/
def MType.chunkLen : MType → Nat
  | .dx4 | .dx8 => 16
  | .bf16 | .fp16 => 8
  | .fp32 => 4
  | .fp64 => 2

/-- The format of a type that is no DX type. -/
def MType.fmt : MType → Fmt
  | .bf16 => .bf16
  | .fp16 => .f16
  | .fp64 => .f64
  | .fp32 | .dx4 | .dx8 => .f32

/-- Bytes of an element of a type that is no DX type. -/
def MType.bytes : MType → Nat
  | .bf16 | .fp16 => 2
  | .fp64 => 8
  | .fp32 | .dx4 | .dx8 => 4

/-- A DX type. -/
def MType.dual : MType → Bool
  | .dx4 | .dx8 => true
  | _ => false

/-- Accumulator format (R124). -/
def accFmt (tacc : Bool) : Fmt := if tacc then .f64 else .f32

/-- Block length (R241, R244). -/
def blockOf (b16 : Bool) : Nat := if b16 then 16 else 32

/-- An A operand: sixteen rows, and four rows of scale pairs (R240, R241). -/
structure AOp where
  regs : List Row
  exps : List Row

/-- Element k of lane i of an A operand (R240, R241). -/
def AOp.elem (a : AOp) (ta : MType) (bla : Bool) (i k : Nat) : FV :=
  let w := fun (r : Nat) => ((a.regs.getD r Row.zero).at i).toNat
  let scale := fun (q : Nat) => ((a.exps.getD (q / 2) Row.zero).at i).toNat / 2 ^ (16 * (q % 2)) % 2 ^ 16
  match ta with
  | .dx4 =>
    let p := scale (k / blockOf bla)
    dxVal true (w (k / 8) / 2 ^ (4 * (k % 8)) % 16) (p % 256) (p / 256)
  | .dx8 =>
    let p := scale (k / blockOf bla)
    dxVal false (w (k / 4) / 2 ^ (8 * (k % 4)) % 256) (p % 256) (p / 256)
  | .bf16 | .fp16 => (MType.fmt ta).val (w (k / 2) / 2 ^ (16 * (k % 2)) % 2 ^ 16)
  | .fp32 => Fmt.f32.val (w k)
  | .fp64 => Fmt.f64.val (w (2 * k) + w (2 * k + 1) * 2 ^ 32)

/-- Record bytes and records per line of a DX B operand (R244). -/
def recLen (dx4 b16 : Bool) : Nat := blockOf b16 / (if dx4 then 2 else 1) + 2
def perLine (dx4 b16 : Bool) : Nat := 128 / recLen dx4 b16

/-- Bytes of a B region (R243, R244). -/
def MmaF.size (f : MmaF) : Nat :=
  if MType.dual f.tb then
    let c := perLine (f.tb == .dx4) f.blb
    let n := 64 * MType.depth f.ta / blockOf f.blb
    128 * ((n + c - 1) / c)
  else 4096

/-- Element k of column j of a B region in unswizzled order (R243, R244). -/
def bElem (f : MmaF) (bs : Array Byte) (j k : Nat) : FV :=
  let num := fun (a n : Nat) => ofBytes ((List.range n).map fun i => bs.getD (a + i) 0)
  if MType.dual f.tb then
    let dx4 := f.tb == .dx4
    let b := blockOf f.blb
    let q := j * (MType.depth f.ta / b) + k / b
    let c := perLine dx4 f.blb
    let a := 128 * (q / c) + recLen dx4 f.blb * (q % c)
    let i := k % b
    let el := if dx4 then num (a + i / 2) 1 / (if i % 2 = 0 then 1 else 16) % 16 else num (a + i) 1
    let sc := a + recLen dx4 f.blb - 2
    dxVal dx4 el (num sc 1) (num (sc + 1) 1)
  else (MType.fmt f.tb).val (num (64 * j + k * MType.bytes f.tb) (MType.bytes f.tb))

/-- Where byte o of the region is read (R245). -/
def MmaF.at (f : MmaF) (o : Nat) : Nat := match f.swz with
  | none => o
  | some z => Swz.at z o

/-- Alignment of B (R245). -/
def MmaF.align (f : MmaF) : Nat := match f.swz with
  | none => 128
  | some z => 2 ^ (10 + z.sb.val)

/-! ### Checks (R247, R248) -/

/-- The combination is implemented (R248). -/
def MmaF.implemented (f : MmaF) : Bool :=
  if MType.dual f.ta then MType.dual f.tb && !f.tacc else f.ta == f.tb && f.tacc == (f.ta == .fp64)

/-- The contracted features that a combination needs (R169, R247). -/
def State.hasTypes (s : State) (f : MmaF) : Bool :=
  let need := fun (t : MType) => match t with
    | .dx4 => s.feature 16
    | .dx8 => s.feature 17
    | .fp64 => s.feature 18
    | _ => true
  need f.ta && need f.tb

/-- Tile bytes of B that lie outside the rules of R43 and R74, by chunks of 16 bytes. -/
def State.tileOut (s : State) (f : MmaF) (b : Word64) : Bool :=
  (List.range (MmaF.size f / 16)).any fun i =>
    let a := b.toNat + MmaF.at f (16 * i)
    decide (2 ^ 24 ≤ a) || (s.tileAt s.g.bid a 16).isNone

/-- Mask, tile memory of the save handler, and the accumulator tile: the checks that MZERO, MRD and MWR share
(R247, R259, R371). -/
def State.accStop (s : State) (writes f64 : Bool) (t : Nat) : Option Trap :=
  if s.partialMask then some tPartial
  else if writes && s.g.inSave then some (tSaveWrite none none)
  else if !s.blk.hasAcc f64 t then some (tProt 0 none none)
  else none

/-- Execution checks of MMA and of a member's MMAC (R247). -/
def State.mmaStop (s : State) (f : MmaF) : Option Trap :=
  let b := s.readS f.sreg.val
  if s.partialMask then some tPartial
  else if !(MmaF.implemented f) || !s.hasTypes f then some (tUnimplM (MType.num f.ta) (MType.num f.tb) f.tacc)
  else match s.accStop true f.tacc f.t.val with
    | some t => some t
    | none =>
      if !aligned b (MmaF.align f) then some (tAlign none b)
      else if f.glob then (if canonical b then none else some (tProt 3 none (some b)))
      else if s.tileOut f b then some (tProt 0 none (some b))
      else none

/-! ### Fetching B (R250, R258, R260) -/

/-- What a fetch of global B meets. -/
inductive BStop
  /-- A translation or access fault: the blocks are killed. -/
  | kill
  | wait (w : Wait)
  | bad (line : Nat)

/-- 128-byte lines of global memory at offsets from an address, for a block. -/
def State.fetchLines (b : Block) (base : Word64) : List Nat → State → State × Except BStop (List (Nat × List Byte))
  | [], s => (s, .ok [])
  | o :: t, s =>
    let va := base + BitVec.ofNat 64 (128 * o)
    let c := s.ctx b.vi b.ctx
    if !canonical va then (s, .error .kill)
    else match s.translateIn b.pcore b.asid c.ptroot.toNat va.toNat .load (c.feat0.getLsbD 22) (c.feat0.getLsbD 23) with
      | (s, .ok pa) =>
        if s.bad.contains (pa / 128) then (s, .error (.bad (pa / 128)))
        else
          let (s, bs) := s.readFrom (cluOf b.pcore) b.asid pa 128
          match State.fetchLines b base t s with
          | (s, .ok m) => (s, .ok ((o, bs) :: m))
          | r => r
      | (s, .wait w) => (s, .error (.wait w))
      | (s, _) => (s, .error .kill)

/-- The B region of a block's instruction in unswizzled order; its buffered stores are accepted before a global fetch. -/
def State.fetchB (s : State) (bid : Nat) (f : MmaF) (base : Word64) : State × Except BStop (Array Byte) :=
  let b := s.block bid
  if f.glob then
    let ls := ((List.range (MmaF.size f / 16)).map fun i => MmaF.at f (16 * i) / 128).eraseDups
    match State.fetchLines b base ls (s.drainCore b.pcore) with
    | (s, .error x) => (s, .error x)
    | (s, .ok m) =>
      let lineOf : Store (Array Byte) := m.map fun x => (x.1, x.2.toArray)
      (s, .ok ((List.range (MmaF.size f)).map fun o => (lineOf.get #[] (MmaF.at f o / 128)).getD (MmaF.at f o % 128) 0).toArray)
  else
    (s, .ok ((List.range (MmaF.size f)).map fun o => match s.tileAt bid (base.toNat + MmaF.at f o) 1 with
      | some (i, a) => (s.block i).tile.get 0 a
      | none => 0).toArray)

/-! ### Products (R125 to R127, R249) -/

/-- Products of one row and one column in chunks. -/
def chunksOf (ta : MType) (row col : List FV) : List (List (FV × FV)) :=
  pieces (MType.chunkLen ta) (MType.depth ta / MType.chunkLen ta) (row.zip col)

/-- Columns of B. -/
def bCols (f : MmaF) (bs : Array Byte) : List (List FV) :=
  (List.range 64).map fun j => (List.range (MType.depth f.ta)).map fun k => bElem f bs j k

/-- Row i of A. -/
def AOp.row (a : AOp) (ta : MType) (bla : Bool) (i : Nat) : List FV :=
  (List.range (MType.depth ta)).map fun k => a.elem ta bla i k

/-- Update the rows of a mask of a tile of a block by A times B (R249). -/
def Block.product (b : Block) (f : MmaF) (t : Nat) (a : AOp) (cols : List (List FV)) (m : Mask) : Block × MFlags :=
  (Mask.list m).foldl (fun (p : Block × MFlags) (i : Lane) =>
    let row := a.row f.ta f.bla i.val
    (cols.zipIdx).foldl (fun (p : Block × MFlags) cj =>
      let r := (accFmt f.tacc).accumulate (p.1.accAt f.tacc t i.val cj.2) (chunksOf f.ta row cj.1)
      (p.1.setAcc f.tacc t i.val cj.2 r.1, p.2.or r.2)) p) (b, {})

/-- OR matrix flags into a group's sr.mstat (R126). -/
def Group.orM (g : Group) (w : MFlags) : Group :=
  { g with sr := { g.sr with mnv := g.sr.mnv || w.mnv, mov := g.sr.mov || w.mov } }

/-- An accumulator instruction acts on its tile after every one that was issued earlier: it waits while an MMAC stands
at its rendezvous on the tile (R223, R250). -/
def State.inOrder (s : State) (f64 : Bool) (t : Nat) (act : State → Eff) : Eff :=
  if s.accBusy f64 t then .park (.acc f64 t) s else act s

/-! ### MMA (R246 to R252) -/

/-- The A operand as the registers hold it. -/
def State.readA (s : State) (f : MmaF) : AOp :=
  ⟨(List.range 16).map fun r => s.rg.v.get Row.zero (f.x.val + r), (List.range 4).map fun r => s.rg.v.get Row.zero (f.e.val + r)⟩

/-- The keep latch, if held, has the instruction's tag (R252). -/
def State.keepOk (s : State) (f : MmaF) : Bool := match s.g.keep with
  | none => true
  | some k => k.x == f.x.val && k.e == f.e.val && k.ta == f.ta && k.bla == f.bla

/-- A from the latch or from the registers, and the latch afterwards (R252). -/
def State.latchA (s : State) (f : MmaF) : AOp × Option Keep := match s.g.keep with
  | some k => (⟨k.regs, k.exps⟩, if f.keep then some k else none)
  | none =>
    let a := s.readA f
    (a, if f.keep then some ⟨f.x.val, f.e.val, f.ta, f.bla, a.regs, a.exps⟩ else none)

/-- What a stopped fetch does to the instruction (R260, R414): kill, park, or the context's end. -/
def State.fetchStop (s s0 : State) (bids : List Nat) : BStop → Eff
  | .kill => .done (s.killBlocks bids s.cur.gid s.e.pc s.slot)
  | .wait w => .park w s0.flag
  | .bad line => .done (s.uncorrectable line)

/-- The product of one block's own operands into its own tile. -/
def State.mulOwn (s : State) (f : MmaF) (a : AOp) (keep : Option Keep) : Eff :=
  match s.fetchB s.g.bid f (s.readS f.sreg.val) with
  | (s1, .error x) => s1.fetchStop s [s.g.bid] x
  | (s1, .ok bs) =>
    let r := s1.blk.product f f.t.val a (bCols f bs) s.active
    let s1 := s1.setBlk r.1
    .ok (s1.setG { s1.g.orM r.2 with keep := keep })

def State.mma (s : State) (f : MmaF) : Eff :=
  if !s.keepOk f then .trap tEncoding s
  else match s.mmaStop f with
    | some t => .trap t s
    | none => s.inOrder f.tacc f.t.val fun s =>
      let l := s.latchA f
      s.mulOwn f l.1 l.2

def execMma (f : MmaF) (s : State) : Host.Outcome State Fault Refusal := commit (s.groupOnly fun s => s.mma f)

/-! ### MMAC (R253 to R258) -/

/-- A member's arrival: its group and what it brought. -/
structure Member where
  gid : Nat
  bid : Nat
  arr : MmacArrival

/-- Group g of a member block. -/
def State.partner (s : State) (bid g : Nat) : Option Nat := (s.block bid).gids[g]?

/-- Arrivals of every member's group g at its k-th rendezvous; none while one is missing (R255). -/
def State.arrivals (s : State) (g k : Nat) : List Nat → Option (List Member)
  | [] => some []
  | b :: t => match s.partner b g, s.arrivals g k t with
    | some i, some ms => if (s.group i).mmacN = k then (s.group i).mmacAt.map fun a => ⟨i, b, a⟩ :: ms else none
    | _, _ => none

/-- Fields that must agree (R255). -/
def sameShape (a b : MmacArrival) : Bool :=
  a.f.ta == b.f.ta && a.f.tb == b.f.tb && a.f.tacc == b.f.tacc && a.f.bla == b.f.bla && a.f.blb == b.f.blb && a.c == b.c

/-- B of each member of a list, in order. -/
def State.fetchAll : List Member → State → State × Except BStop (List (List (List FV)))
  | [], s => (s, .ok [])
  | m :: t, s => match s.fetchB m.bid m.arr.f m.arr.b with
    | (s, .error x) => (s, .error x)
    | (s, .ok bs) => match State.fetchAll t s with
      | (s, .ok r) => (s, .ok (bCols m.arr.f bs :: r))
      | r => r

def MmacArrival.aop (a : MmacArrival) : AOp := ⟨a.a, a.e⟩

/-- Grid mode: member (r, c) multiplies A of (r, 0) by B of (0, c), in the rows of both masks (R256). -/
def State.grid (w : Nat) (ms : List Member) (bs : List (List (List FV))) (s : State) : State :=
  (ms.zipIdx).foldl (fun s mk =>
    let m := mk.1
    match ms[mk.2 / w * w]? with
    | none => s
    | some src =>
      let cols := bs.getD (mk.2 % w) []
      let r := (s.block m.bid).product m.arr.f m.arr.f.t.val src.arr.aop cols (src.arr.mask &&& m.arr.mask)
      let s := s.setBlock m.bid r.1
      s.setGroup m.gid ((s.group m.gid).orM r.2)) s

/-- The partial of member m for one element: from the prior accumulator for member 0, else from -0 (R257). -/
def partialOf (m : Member) (first : Bool) (old : Nat) (i : Nat) (col : List FV) : Nat × MFlags :=
  let f := accFmt m.arr.f.tacc
  let start := if first then old else f.zero true
  if first || Mask.has m.arr.mask i then f.accumulate start (chunksOf m.arr.f.ta (m.arr.aop.row m.arr.f.ta m.arr.f.bla i) col)
  else (start, {})

/-- Split-K mode: member 0's tile takes the fold of the partials in the rows of its mask, and its flags are those of
every partial, written or not, and of the fold (R127, R257, R258). -/
def State.splitK (ms : List Member) (bs : List (List (List FV))) (s : State) : State := match ms with
  | [] => s
  | z :: _ =>
    let f := accFmt z.arr.f.tacc
    let t := z.arr.f.t.val
    let rows := ms.foldl (fun m x => m ||| x.arr.mask) (0 : Mask)
    let r := (Mask.list rows).foldl (fun (p : Block × MFlags) (i : Lane) =>
      (List.range 64).foldl (fun (p : Block × MFlags) j =>
        let ps := ((ms.zip bs).zipIdx).map fun x =>
          partialOf x.1.1 (x.2 == 0) (p.1.accAt z.arr.f.tacc t i.val j) i.val (x.1.2.getD j [])
        let w := (ps.drop 1).foldl (fun w x => w.or x.2) p.2
        if Mask.has z.arr.mask i then
          let o := ps.headD (0, {})
          let v := f.foldPartials o.1 ((ps.drop 1).map Prod.fst)
          (p.1.setAcc z.arr.f.tacc t i.val j v.1, (w.or o.2).or v.2)
        else (p.1, w)) p) (s.block z.bid, {})
    let s := s.setBlock z.bid r.1
    s.setGroup z.gid ((s.group z.gid).orM r.2)

/-- The rendezvous is over: every member's arrival is dropped, and its count advances where it completed (R255). -/
def State.meet (s : State) (ms : List Member) (done : Bool) : State :=
  ms.foldl (fun s m =>
    let g := s.group m.gid
    s.setGroup m.gid { g with mmacAt := none, mmacN := if done then g.mmacN + 1 else g.mmacN }) s

/-- The other members' fragments go on at their next instruction. -/
def State.resumeMembers (s : State) (ms : List Member) : State :=
  ms.foldl (fun s m =>
    let g := s.group m.gid
    s.setGroup m.gid (g.setEnt m.arr.ent ((g.ent m.arr.ent).passed s.clock))) s

/-- The last member has arrived (R255 to R258). -/
def State.rendezvous (s s0 : State) (c : MmacF) (ms : List Member) : Eff :=
  let others := ms.filter fun m => m.gid != s.cur.gid
  match ms with
  | [] => .ok s
  | z :: _ =>
    if ms.any fun m => !sameShape z.arr m.arr then
      let s := s.meet ms false
      let as := others.map fun m =>
        let e := (s.group m.gid).ent m.arr.ent
        (⟨m.gid, m.arr.ent, e.pc, pcSlot e.pc⟩ : At)
      .done ((s.takeTraps (s.here :: as) tEncoding).failed tEncoding)
    else
      let w := c.wm.val + 1
      match State.fetchAll (if c.splitK then ms else ms.take w) s with
      | (s1, .error x) => s1.fetchStop s0 (ms.map (·.bid)) x
      | (s1, .ok bs) =>
        let s1 := if c.splitK then State.splitK ms bs s1 else State.grid w ms bs s1
        .ok ((s1.meet ms true).resumeMembers others)

/-- A group's MMACs take part one after another: one waits while another fragment of its group stands at a rendezvous
(R255). -/
def State.oneMmac (s : State) (act : State → Eff) : Eff := match s.g.mmacAt with
  | some a => .park (.acc a.f.tacc a.f.t.val) s
  | none => act s

/-- MMAC: the neighbourhood check, the execution checks, and the rendezvous (R254, R255). -/
def State.mmac (s : State) (f : MmaF) (c : MmacF) : Eff :=
  let h := c.hm.val + 1
  let w := c.wm.val + 1
  let co := s.cohorts.get Cohort.empty s.blk.coh
  let alone := h == 1 && w == 1
  if !alone && !(co.live && co.level == .neigh && co.h == h && co.w == w) then .trap (tProt 0 none none) s
  else match s.mmaStop f with
    | some t => .trap t s
    | none =>
      if alone then s.inOrder f.tacc f.t.val fun s => s.mulOwn f (s.readA f) s.g.keep
      else (s.oneMmac fun s => s.inOrder f.tacc f.t.val fun s =>
        let a := s.readA f
        let arr : MmacArrival := { f := f, c := c, ent := s.cur.ent, a := a.regs, e := a.exps, b := s.readS f.sreg.val,
                                   mask := s.active }
        let s1 := s.setG { s.g with mmacAt := some arr }
        match (if co.members.length = h * w then s1.arrivals s.g.gix s.g.mmacN co.members else none) with
        | none => .wait .mmac s1.flag
        | some ms => s1.rendezvous s c ms)

def execMmac (f : MmaF) (c : MmacF) (s : State) : Host.Outcome State Fault Refusal :=
  commit (s.groupOnly fun s => s.mmac f c)

/-! ### MZERO, MRD and MWR (R259) -/

/-- Words of accumulator memory of a tile or of an FP64 pair are cleared. -/
def Block.zeroTile (b : Block) (f64 : Bool) (t : Nat) : Block :=
  { b with acc := b.acc.filter fun c => c.1 < 6144 * t || 6144 * (t + if f64 then 2 else 1) ≤ c.1 }

def execMzero (f64 : Bool) (t : Fin 10) (s : State) : Host.Outcome State Fault Refusal :=
  commit (s.groupOnly fun s => match s.accStop true f64 t.val with
    | some x => .trap x s
    | none => s.inOrder f64 t.val fun s => .ok (s.setBlk (s.blk.zeroTile f64 t.val)))

/-- Registers that sixteen values of a format span (R259). -/
def FType.regs : FType → Nat
  | .f16 | .bf16 => 8
  | .f32 => 16
  | .f64 => 32

/-- Word u of sixteen values of a format (R240, R259). -/
def packWord (f : FType) (x : Nat → Nat) (u : Nat) : Word32 := match f with
  | .f16 | .bf16 => BitVec.ofNat 32 (x (2 * u) % 2 ^ 16 + x (2 * u + 1) % 2 ^ 16 * 2 ^ 16)
  | .f32 => BitVec.ofNat 32 (x u)
  | .f64 => BitVec.ofNat 32 (x (u / 2) / 2 ^ (32 * (u % 2)))

/-- Value c of sixteen that a lane's registers hold in a format. -/
def State.packed (s : State) (f : FType) (v c l : Nat) : Nat := match f with
  | .f16 | .bf16 => (s.readV (v + c / 2) l).toNat / 2 ^ (16 * (c % 2)) % 2 ^ 16
  | .f32 => (s.readV (v + c) l).toNat
  | .f64 => (s.readV64 (v + 2 * c) l).toNat

/-- Converted values and flags of columns 16 g to 16 g + 15 of a lane's row. -/
def State.mrdAt (s : State) (f : MrwF) (l c : Nat) : Nat × Flags :=
  (FType.fmt f.f).cvt (accFmt f.tf64) f.rnd s.ftz (s.blk.accAt f.tf64 f.t.val l (16 * f.g.val + c))

def execMrd (f : MrwF) (s : State) : Host.Outcome State Fault Refusal :=
  commit (s.groupOnly fun s => match s.accStop false f.tf64 f.t.val with
    | some x => .trap x s
    | none => s.inOrder f.tf64 f.t.val fun s =>
      let fl := s.laneFlags fun l => (List.range 16).foldl (fun a c => a ||| (s.mrdAt f l c).2) 0
      .ok ((s.writeVs s.active f.v.val (FType.regs f.f) fun u l => packWord f.f (fun c => (s.mrdAt f l.val c).1) u).orFlags fl))

/-- Converted values and flags that MWR writes. -/
def State.mwrAt (s : State) (f : MrwF) (l c : Nat) : Nat × Flags :=
  (accFmt f.tf64).cvt (FType.fmt f.f) f.rnd s.ftz (s.packed f.f f.v.val c l)

def execMwr (f : MrwF) (s : State) : Host.Outcome State Fault Refusal :=
  commit (s.groupOnly fun s => match s.accStop true f.tf64 f.t.val with
    | some x => .trap x s
    | none => s.inOrder f.tf64 f.t.val fun s =>
      let fl := s.laneFlags fun l => (List.range 16).foldl (fun a c => a ||| (s.mwrAt f l c).2) 0
      let b := (Mask.list s.active).foldl (fun b l => (List.range 16).foldl (fun (b : Block) c =>
        b.setAcc f.tf64 f.t.val l.val (16 * f.g.val + c) (s.mwrAt f l.val c).1) b) s.blk
      .ok ((s.setBlk b).orFlags fl))

end Sys2Proof.Machine
end

