-- ==== Sys2Proof/Machine/Detector.lean ====
section
/-! DEFINITION. The wait-cycle detectors: parked nodes with their edges, stable cycles, their delivery (R69, R205, R238,
R357 to R359). -/

namespace Sys2Proof.Machine

/-- Number of a node: an entry of a group or Loupe thread; 16 + r is the held lanes of record r. -/
def nodeKey (gid i : Nat) : Nat := 32 * gid + i

/-- The wait is a stall of the core within an instruction, and no park (R116, R208, R250). -/
def Wait.stall (w : Wait) : Bool := match w with
  | .sweep _ | .stores | .flags | .acc _ _ => true
  | _ => false

/-- Entries of a group that issue, park or wait, the handler among them. -/
def Group.standing (g : Group) : List (Nat × Entry) := g.tab.filter fun c => c.2.valid && c.2.st != .held

/-- No fragment of the group can issue. -/
def Group.blocked (g : Group) : Bool :=
  g.live && g.standing.all fun c => (c.2.st == .parked && !c.2.wait.stall) || c.2.st == .waiting

/-- Nodes that an edge to a group leads to; none where the group is not resident or a fragment of it can issue. -/
def State.groupNodes (s : State) (gid : Nat) : List Nat :=
  let g := s.group gid
  if g.blocked then g.standing.map fun c => nodeKey gid c.1 else []

/-- Groups of a ring's producers or consumers that have acted on it. -/
def State.ringGids (s : State) (isOpen : Bool) (bids marks : List Nat) : List Nat :=
  if isOpen then []
  else bids.flatMap fun bid =>
    (s.block bid).gids.filter fun i => (s.group i).live && marks.contains (16 * bid + (s.group i).gix)

/-- Entries of a group with a record's tag. -/
def Group.taggedNodes (g : Group) (gid r : Nat) : List Nat :=
  (g.standing.filter fun c => c.1 < 8 && c.2.join == 8 + r).map fun c => nodeKey gid c.1

/-- A record's Loupe threads, and its held lanes. -/
def State.recordNodes (s : State) (gid r : Nat) : List Nat :=
  ((s.threadsOf gid).filter fun t => match (s.group t).kind with
    | .loupe _ k _ => k == r
    | _ => false).map (nodeKey · 0) ++ [nodeKey gid (16 + r)]

/-- Holders of the lanes of M that have not arrived (R205). -/
def State.syncNodes (s : State) (gid ent : Nat) : List Nat :=
  let g := s.group gid
  match g.syncm.find? fun w => w.ents.contains ent with
  | none => []
  | some w =>
    let miss := w.m &&& ~~~ w.arrived
    ((g.standing.filter fun c => !w.ents.contains c.1 && c.2.dom &&& miss != 0).map fun c => nodeKey gid c.1)
      ++ ((List.range 4).filter fun r => (g.recs.get Rec.free r).dom &&& miss != 0).flatMap (fun r =>
          s.recordNodes gid r ++ g.taggedNodes gid r)
      ++ ((s.threadsOf gid).filter fun t => match (s.group t).kind with
        | .loupe _ _ l => Mask.has miss (Fin.ofNat 96 l)
        | _ => false).map (nodeKey · 0)

/-- Edges of a wait (R357). -/
def State.waitNodes (s : State) (gid ent : Nat) (w : Wait) : List Nat :=
  let g := s.group gid
  let b := s.block g.bid
  match w with
  | .bar n k => ((s.liveGids b).filter fun i => !(b.bars.get Bar.zero n).has k (s.group i).gix).flatMap s.groupNodes
  | .cbar k =>
    let c := s.cohorts.get Cohort.empty b.coh
    let key := fun (i : Nat) => 16 * (s.group i).bid + (s.group i).gix
    ((s.cohortGids c).filter fun i => !c.cbar.has k (key i)).flatMap s.groupNodes
  | .syncm => s.syncNodes gid ent
  | .mmac =>
    let ms := (s.cohorts.get Cohort.empty b.coh).members.filterMap fun m => s.partner m g.gix
    (ms.filter fun i => (s.group i).mmacAt.isNone || (s.group i).mmacN != g.mmacN).flatMap s.groupNodes
  | .counter k _ =>
    let t := b.tc.get Tc.unbound k
    (if t.bind = .soft then s.liveGids b else (t.pend.map (·.gid)).eraseDups).flatMap s.groupNodes
  | .ring r _ =>
    let c := s.ring r
    (s.ringGids c.pOpen c.prods c.pgrp).flatMap s.groupNodes
  | .room r | .emit r _ =>
    let c := s.ring r
    (s.ringGids c.cOpen c.conss c.cgrp).flatMap s.groupNodes
  | _ => []

/-- The record whose tag an entry carries. -/
def Entry.recTag (e : Entry) : Option Nat := if 8 ≤ e.join ∧ e.join < 12 then some (e.join - 8) else none

/-- The node of an entry, where it is one (R357); a Loupe thread that is parked also has an edge to the entries with its
record's tag, and those that park or wait have edges back to the record (R69). One parked on a page fault has no edge
(R368), and one that only stalls is no node. -/
def State.entryNode (s : State) (gid i : Nat) : Option WNode :=
  let g := s.group gid
  let e := g.ent i
  let back := e.recTag.elim [] (s.recordNodes gid)
  let mk := fun (xs : List Nat) => (some ⟨gid, i, e.wseq, xs⟩ : Option WNode)
  let fault := match e.wait with
    | .fault | .record _ => true
    | _ => false
  if e.st = .parked && fault then (if g.kind = .agent then none else mk [])
  else if e.st = .parked && e.wait.stall then none
  else match g.kind with
  | .agent => none
  | .loupe p r _ => if e.st = .parked then mk (s.waitNodes gid i e.wait ++ (s.group p).taggedNodes p r) else none
  | .user =>
    if e.st = .parked then mk (s.waitNodes gid i e.wait ++ back)
    else if e.st = .waiting ∧ e.recTag.isSome then mk back
    else none

/-- The held lanes of a record, while no context is free for them; their wait begins when they ask for contexts. -/
def State.heldNode (s : State) (gid r : Nat) : Option WNode :=
  let g := s.group gid
  let c := g.recs.get Rec.free r
  let clu := cluOf (coreOf gid)
  if c.valid && c.held != 0 && (s.allocThread clu).isNone then
    some ⟨gid, 16 + r, c.asked, g.taggedNodes gid r ++ (List.range 64).map fun k => nodeKey (tidOf clu 0 k) 0⟩
  else none

/-- Parked nodes of the package. -/
def State.nodes (s : State) : List WNode :=
  s.groups.flatMap fun c =>
    (c.2.standing.filterMap fun t => s.entryNode c.1 t.1)
      ++ (if c.2.live && c.2.kind == .user then (List.range 4).filterMap (s.heldNode c.1) else [])

def WNode.key (n : WNode) : Nat := nodeKey n.gid n.ent

/-- Nodes that stood in both exchanges, with the edges that stood in both and lead to such nodes (R358). -/
def stableNodes (old new : List WNode) : List (Nat × List Nat) :=
  let both := new.filterMap fun n =>
    (old.find? fun o => o.key == n.key && o.seq == n.seq).map fun o => (n.key, n.edges.filter o.edges.contains)
  both.map fun c => (c.1, c.2.filter fun k => both.any fun d => d.1 == k)

/-- Nodes that can be reached in one edge or more. -/
def reachFrom (es : List (Nat × List Nat)) : Nat → List Nat → List Nat
  | 0, xs => xs
  | f + 1, xs => reachFrom es f (xs ++ ((es.filter fun c => xs.contains c.1).flatMap Prod.snd)).eraseDups

/-- Stable cycles: nodes that reach one another, one list for each such set. -/
def cyclesOf (es : List (Nat × List Nat)) : List (List Nat) :=
  let from1 := es.map fun c => (c.1, reachFrom es es.length c.2)
  let comp := fun (a : Nat × List Nat) => (from1.filter fun b => a.2.contains b.1 && b.2.contains a.1).map Prod.fst
  (from1.filter fun a => a.2.contains a.1 && (comp a).all fun k => decide (a.1 ≤ k)).map comp

/-- Group that owns a node. -/
def State.nodeOwner (s : State) (key : Nat) : Nat := match (s.group (key / 32)).kind with
  | .loupe p _ _ => p
  | _ => key / 32

/-- Smallest number of a list. -/
def least (xs : List Nat) : Nat := xs.foldl Nat.min (xs.headD 0)

/-- Deliver a cycle: the event once to every owner, and one log entry (R359, R406). -/
def State.deliverCycle (s : State) (ks : List Nat) : State :=
  let gs := (ks.map s.nodeOwner).eraseDups
  let bs := gs.map fun g => s.block (s.group g).bid
  let ctxs := (bs.map fun b => b.vi * 256 + b.ctx).eraseDups
  let data := ks.length % 256 + least (bs.map (·.asid)) % 512 * 2 ^ 8 + ctxs.length % 256 * 2 ^ 24
  let loc := locOf 6 (least (gs.map coreOf))
  let s := gs.foldl (fun s i => s.setGroup i ((s.group i).hold ⟨0x31, 0⟩)) s
  s.logNow 0x20 loc (BitVec.ofNat 64 data)

/-- The lowest package core of a cycle: where its entry is logged. -/
def State.cycleCore (s : State) (ks : List Nat) : Nat := least (ks.map fun k => coreOf (s.nodeOwner k))

/-- Put a cycle before the first one whose lowest core is greater. -/
def insertCycle (s : State) (c : List Nat) : List (List Nat) → List (List Nat)
  | [] => [c]
  | x :: t => if s.cycleCore c < s.cycleCore x then c :: x :: t else x :: insertCycle s c t

/-- An exchange: stable cycles are delivered, in the order of their entries' locations (R409), and the nodes kept for
the next; those of a delivered cycle begin anew. -/
def State.exchange (s : State) : State :=
  let new := s.nodes
  let cs := (cyclesOf (stableNodes s.wnodes new)).foldl (fun l c => insertCycle s c l) []
  { cs.foldl State.deliverCycle s with wnodes := new.filter fun n => !cs.any fun c => c.contains n.key }

def execWaitCycleExchange (s : State) : Host.Outcome State Fault Refusal := .next s.exchange

end Sys2Proof.Machine
end

