-- ==== Sys2Proof/Machine/EngineEvents.lean ====
section
/-! DEFINITION. Completion of engine operations, translation faults that stall them, and the publication of ring copies
(R105, R106, R263, R268). -/

namespace Sys2Proof.Machine

/-- Blocks that waited for an engine operation go on: a save, or the block's end (R36, R263). -/
def State.engineIdle (s : State) (bid : Nat) : State := (s.trySave bid).blockOver bid

/-- Fault record of a stalled operation (R263, R366, R367): code 0x11, for an engine. -/
def State.engineRecord (s : State) (bid : Nat) (p : EPend) (info : Nat) (va : Word64) : State :=
  let b := s.block bid
  let t : Trap := { code := 0x11, info := BitVec.ofNat 16 info }
  s.record b.pcore b.vi b.ctx (recordBytes (s.times.get 0 (dieOf b.pcore)) (t.synd p.slot) va p.pc b.ctx
    (b.area.getD 0) b.pcore 16 b.att.toNat 1)

/-- Stall a handle's context on an operation whose fault record has been written or is held. -/
def State.stallTc (s : State) (bid k num : Nat) : State :=
  let b := s.block bid
  if !b.live then s
  else s.setBlock bid { b with tc := b.tc.upd Tc.unbound k fun c =>
    { c with stall := some num, held := (s.ctx b.vi b.ctx).lastHeld } }

/-- ENGINE_OP_COMPLETE: the operation is performed and the timeline counter advances; one that a translation refuses
is left for the stall. -/
def State.engineRun (s : State) (bid k num : Nat) : State :=
  let c := (s.block bid).tc.get Tc.unbound k
  match s.findOp bid k num with
  | none => s
  | some p =>
    if c.mayRun num then
      match s.tryOp bid k p with
      | (s, none) => s.engineIdle bid
      | (s, some (.bad line)) => s.blockBad bid line
      | (_, some _) => s
    else s

def execEngineOpComplete (bid k num : Nat) (s : State) : Host.Outcome State Fault Refusal :=
  .next (s.engineRun bid k num)

/-- A context that has ended does not wait for an operation that faults: it is abandoned, with what stands behind it
(R263). -/
def State.giveUp (s : State) (bid k : Nat) : State :=
  let b := s.block bid
  (s.setBlock bid { b with tc := b.tc.upd Tc.unbound k fun c => { c with pend := [], stall := none, held := none } }).engineIdle
    bid

/-- ENGINE_FAULT_STALL: an operation whose translation fails stalls its context and writes a record. -/
def State.engineFault (s : State) (bid k num : Nat) : State :=
  let c := (s.block bid).tc.get Tc.unbound k
  match s.findOp bid k num with
  | none => s
  | some p =>
    if c.mayRun num then
      match s.tryOp bid k p with
      | (s', some (.fault info va)) =>
        if (s.ctx (s.block bid).vi (s.block bid).ctx).cstate == .ending then s'.giveUp bid k
        else (s'.engineRecord bid p info va).stallTc bid k num
      | _ => s
    else s

def execEngineFaultStall (bid k num : Nat) (s : State) : Host.Outcome State Fault Refusal :=
  .next (s.engineFault bid k num)

/-- RING_PCPY_PUBLISH: the slot of a completed ring copy is published; a ring in error discards it. -/
def State.ringPublish (s : State) (r : Nat) (i : BitVec 32) : State :=
  let c := s.ring r
  if c.pend.contains i then
    let c := { c with pend := c.pend.erase i }
    if c.st == .error then s.setRing r c
    else match c.publish i 1 with
      | some c => s.setRing r c
      | none => (s.setRing r c).ringError r 0x80
  else s

def execRingPcpyPublish (ring : Nat) (i : BitVec 32) (s : State) : Host.Outcome State Fault Refusal :=
  .next (s.ringPublish ring i)

end Sys2Proof.Machine
end

