-- ==== Sys2Proof/Machine/Engines.lean ====
section
/-! DEFINITION. Issue of Prism and Zoom operations, and the counter instructions (R105, R106, R262 to R276, R297). -/

namespace Sys2Proof.Machine

/-! ### Issue (R105, R263) -/

/-- Release at the engine's location scope, then the next number of the handle. -/
def State.issueOp (s : State) (k : Nat) (x : Scope) (op : EOp) : State :=
  let s := s.relScope x
  let c := s.tc k
  let c : Tc := { c with issued := c.issued + 1, pend := c.pend ++ [⟨c.issued + 1, s.cur.gid, op, s.e.pc, s.slot⟩] }
  s.setBlk { s.blk with tc := s.blk.tc.set Tc.unbound k c }

/-- The handle bound to a Prism channel (R262). -/
def State.prismOf (s : State) (ch : Nat) : Option Nat := (List.range 32).find? fun k => (s.tc k).bind == .prism ch

/-- The reason for which a byte range of a space is refused at issue, if any (R71, R74, R77, R214). -/
def State.rangeStop (s : State) (sp : Space) (lo hi : Int) : Option Nat := match sp with
  | .glob =>
    if lo < 0 ∨ 2 ^ 64 ≤ hi ∨ !canonical (BitVec.ofInt 64 lo) ∨ !canonical (BitVec.ofInt 64 hi) then some 3 else none
  | .tile =>
    if lo < 0 ∨ 2 ^ 24 ≤ hi then some 0
    else
      let p := lo.toNat / 4096
      if (List.range (hi.toNat / 4096 - p + 1)).all fun k =>
          (s.tileAt s.g.bid (Nat.max lo.toNat ((p + k) * 4096)) 1).isSome then none else some 0
  | .vault =>
    if lo < 0 ∨ 2 ^ 31 ≤ hi then some 0
    else
      let v := lo.toNat / 2 ^ 22
      if (List.range (hi.toNat / 2 ^ 22 - v + 1)).all fun k => s.ownsVault (v + k) then none else some 4

/-- The range of n bytes from an address. -/
def State.rangeAt (s : State) (sp : Space) (va : Word64) (n : Nat) : Option Nat :=
  s.rangeStop sp va.toNat (va.toNat + n - 1)

/-- A write to tile memory that the save handler may not make (R371). -/
def State.saveBars (s : State) (dsp : Space) : Bool := dsp == .tile && s.g.inSave

/-! ### Per-lane copies (R265 to R268) -/

/-- Checks of one lane in order: alignment of both addresses, then their spaces (R266), and a save handler's write
(R371). -/
def State.lanePair (s : State) (w : Nat) (dsp ssp : Space) (l : Nat) (src dst : Word64) : Option Trap :=
  if !aligned src w then some (tAlign (some l) src)
  else if !aligned dst w then some (tAlign (some l) dst)
  else if s.saveBars dsp then some (tSaveWrite (some l) (some dst))
  else match s.rangeAt ssp src w, s.rangeAt dsp dst w with
    | some k, _ => some (tProt k (some l) (some src))
    | none, some k => some (tProt k (some l) (some dst))
    | none, none => none

/-- A lane of an add whose destination lies in a transcode aperture, ready or not (R85, R266). -/
def State.addStop (s : State) (dsp : Space) (l : Nat) (dst : Word64) : Option Trap :=
  if dsp = .glob then
    match s.leafOf dst with
    | .ok pa => if paKind s.hbmFine pa = .aperture then some (tProt 0 (some l) (some dst)) else none
    | _ => none
  else none

/-- What the walk of an add's destination waits for: until it ends, the check of R85 has no answer (R20, R266). -/
def State.addWait (s : State) (dsp : Space) (dst : Word64) : Option Wait :=
  if dsp = .glob then
    match s.leafOf dst with
    | .wait w => some w
    | _ => none
  else none

/-- Lanes that copy, with their addresses (R265, R266). -/
def State.pairs (s : State) (d a : Fin 48) : List (Nat × Word64 × Word64) :=
  (Mask.list s.actNH).map fun l => (l.val, s.readV64 (2 * a.val) l.val, s.readV64 (2 * d.val) l.val)

/-- The channel's binding and the checks of every lane, then issue; adds has the checks of an atomic too. -/
def State.perLane (s : State) (w : Nat) (adds : Bool) (d a : Fin 48) (dsp ssp : Space) (ch : Fin 8)
    (op : List (Word64 × Word64) → EOp) : Eff :=
  match s.prismOf ch.val with
  | none => .trap (tProt 5 none none) s
  | some k =>
    let ps := s.pairs d a
    if s.saveBars dsp && ps.isEmpty then .trap (tSaveWrite none none) s
    else
      match (ps.filterMap fun p => (s.lanePair w dsp ssp p.1 p.2.1 p.2.2).or
          (if adds then s.addStop dsp p.1 p.2.2 else none)).head? with
      | some t => .trap t s
      | none => match (if adds then ps.filterMap fun p => s.addWait dsp p.2.2 else []) with
        | [] => .ok (s.issueOp k .core (op (ps.map Prod.snd)))
        | ws => .park (Wait.join ws) s

def PcpyW.bytes : PcpyW → Nat
  | .w4 => 4
  | .w8 => 8
  | .w16 => 16

/-- Ring that the kernel descriptor attaches to a channel (R268, R303). -/
def State.attached (s : State) (ch : Nat) : Option (Fin 16 × Nat) :=
  let b := s.blk.kern.ratt.getD ch 0
  if b.getLsbD 7 then
    let q : Fin 16 := Fin.ofNat 16 b.toNat
    (s.ringOf q).map fun r => (q, r)
  else none

/-- Check of one lane of a ring copy (R268). -/
def State.laneSlot (s : State) (w size : Nat) (ssp : Space) (l : Nat) (src off : Word64) : Option Trap :=
  if !aligned src w then some (tAlign (some l) src)
  else if !aligned off w then some (tAlign (some l) off)
  else match s.rangeAt ssp src w with
    | some k => some (tProt k (some l) (some src))
    | none => if size < off.toNat + w then some (tProt 0 (some l) (some off)) else none

/-- PCPY with RING set (R268): it claims a slot at issue, or parks. -/
def State.pcpyRing (s : State) (w : Nat) (d a : Fin 48) (ssp : Space) (ch : Fin 8) : Eff :=
  match s.prismOf ch.val, s.attached ch.val with
  | some k, some (q, r) =>
    let c := (s.ring r).produces s.g.bid s.g.gix
    let ps := s.pairs d a
    match (ps.filterMap fun p => s.laneSlot w (2 ^ c.lsize) ssp p.1 p.2.1 p.2.2).head? with
    | some t => .trap t s
    | none =>
      if c.st == .error then .park (.room r) (s.sendRingErr s.g.bid s.g.gix c.ecode q.val)
      else if !c.canClaim 1 then .park (.room r) s
      else
        let i := c.fill
        let s := s.setRing r { c with fill := c.fill + 1 }
        let xs := ps.map fun p => (p.2.1, c.slotVa i + p.2.2)
        .ok (s.issueOp k .core (.copy w .glob ssp xs (some (r, i))))
  | _, _ => .trap (tProt 5 none none) s

def execPcpy (w : PcpyW) (ring : Bool) (d a : Fin 48) (dsp ssp : Space) (ch : Fin 8) (s : State) :
    Host.Outcome State Fault Refusal :=
  commit (s.groupOnly fun s =>
    if ring then s.pcpyRing (PcpyW.bytes w) d a ssp ch
    else s.perLane (PcpyW.bytes w) false d a dsp ssp ch fun xs => .copy (PcpyW.bytes w) dsp ssp xs none)

def execPadd (ty : PaddTy) (d a : Fin 48) (dsp ssp : Space) (ch : Fin 8) (s : State) :
    Host.Outcome State Fault Refusal :=
  commit (s.groupOnly fun s => s.perLane (PaddTy.bytes ty) true d a dsp ssp ch fun xs => .add ty dsp ssp xs)

/-! ### Bulk transforms (R269 to R271) -/

/-- A bulk operation once its control word is legal: binding, alignment, a save handler's tile write, ranges, issue. -/
def State.bulk (s : State) (ch : Nat) (dsp ssp : Space) (src dst : Word64) (sal dal slen dlen : Nat) (op : EOp) : Eff :=
  match s.prismOf ch with
  | none => .trap (tProt 5 none none) s
  | some k =>
    if !aligned src sal then .trap (tAlign none src) s
    else if !aligned dst dal then .trap (tAlign none dst) s
    else if s.saveBars dsp then .trap (tSaveWrite none (some dst)) s
    else match s.rangeAt ssp src slen, s.rangeAt dsp dst dlen with
      | some r, _ => .trap (tProt r none (some src)) s
      | none, some r => .trap (tProt r none (some dst)) s
      | none, none => .ok (s.issueOp k .core op)

/-- Element positions of the interleaved side that a PCPYI touches (R270). -/
def interleaved (unpack : Bool) (f n : Nat) : Nat :=
  let l := (n + f - 1) / f
  if unpack then (l - 1) * f + n / l else l * f

def State.pcpyi (s : State) (unpack : Bool) (ch : Fin 8) (n : Fin 62) : Eff :=
  let src := s.readS n.val
  let dst := s.readS (n.val + 1)
  let c := s.readS (n.val + 2)
  let esz := 2 ^ bits c 40 2
  let f := bits c 32 8
  let cnt := bits c 0 32
  match spaceOf (bits c 44 2), spaceOf (bits c 42 2) with
  | some dsp, some ssp =>
    if bits c 46 18 = 0 ∧ 2 ≤ f ∧ f ≤ 64 ∧ 1 ≤ cnt ∧ cnt ≤ 2 ^ 24 then
      let m := interleaved unpack f cnt
      s.bulk ch.val dsp ssp src dst esz esz (esz * (if unpack then m else cnt)) (esz * (if unpack then cnt else m))
        (.interleave unpack esz f cnt dsp ssp src dst)
    else .trap tEncoding s
  | _, _ => .trap tEncoding s

def execPcpyi (dir : Bool) (ch : Fin 8) (n : Fin 62) (s : State) : Host.Outcome State Fault Refusal :=
  commit (s.groupOnly fun s => s.pcpyi dir ch n)

def State.pcpys (s : State) (ch : Fin 2) (n : Fin 62) (z : Swz) : Eff :=
  let src := s.readS n.val
  let dst := s.readS (n.val + 1)
  let c := s.readS (n.val + 2)
  let len := bits c 0 32
  let lb := 7 + z.sb.val
  match spaceOf (bits c 44 2), spaceOf (bits c 42 2) with
  | some dsp, some ssp =>
    if bits c 46 18 = 0 ∧ bits c 32 10 = 0 ∧ 1 ≤ len ∧ len ≤ 2 ^ 24 ∧ len % 2 ^ lb = 0 then
      s.bulk (6 + ch.val) dsp ssp src dst (2 ^ (4 + z.cs.val)) (2 ^ (lb + 3)) len len (.swizzle z len dsp ssp src dst)
    else .trap tEncoding s
  | _, _ => .trap tEncoding s

def execPcpys (ch : Fin 2) (n : Fin 62) (z : Swz) (s : State) : Host.Outcome State Fault Refusal :=
  commit (s.groupOnly fun s => s.pcpys ch n z)

/-! ### Zoom (R272 to R276, R297) -/

/-- Opcode class, Loupe and mask of a Zoom instruction (R169, R263). -/
def State.onZoom (s : State) (f : State → Eff) : Eff :=
  if !s.feature 20 then .trap tInstruction s
  else s.groupOnly fun s => if s.partialMask then .trap tPartial s else f s

/-- The table of the latest ZTBL issued to a slot (R297). -/
def Tc.latest (c : Tc) (slot : Nat) : List Byte :=
  ((c.pend.filterMap fun p => match p.op with
    | .table k bs => if k = slot then some bs else none
    | _ => none).getLast?).getD (c.table slot)

/-- First and last byte of a grid (R274, step 5). -/
def gridRange (base : Word64) (ext : List Nat) (str : List Int) (n : Nat) : Int × Int :=
  let d := List.zipWith (fun (e : Nat) (x : Int) => ((e : Int) - 1) * x) ext str
  let neg := (d.map fun x => if x < 0 then x else 0).sum
  let pos := (d.map fun x => if x < 0 then 0 else x).sum
  (base.toNat + neg, base.toNat + pos + n - 1)

/-- Base and strides are multiples of the element size (R274, step 6). -/
def gridAligned (base : Word64) (str : List Int) (n : Nat) : Bool :=
  aligned base n && str.all fun x => x % (n : Int) == 0

/-- ZRST, ZPRL and ZCPY: the checks of R274 in order, then issue. -/
def State.transfer (s : State) (op : Nat) (n : Fin 64) : Eff :=
  let a := s.readS n.val
  match aligned a 128, s.ownTile a 128 with
  | true, some bytes =>
    match ZRec.parse (ofBytes bytes) with
    | none => .trap tEncoding s
    | some r =>
      if r.op ≠ op then .trap tEncoding s
      else if (s.tc r.tc).bind ≠ .zoom then .trap (tProt 5 none none) s
      else
        let t := (s.tc r.tc).latest r.slot
        let sn := FType.bytes r.sfmt
        let dn := FType.bytes r.dfmt
        let sr := gridRange r.sbase r.sext r.sstr sn
        let dr := gridRange r.dbase r.dext r.dstr dn
        if op ≠ 3 ∧ (t = [] ∨ tableKind t ≠ op ∨ tableDims t ≠ r.dims) then .trap tEncoding s
        else if r.ssp = r.dsp ∧ sr.1 ≤ dr.2 ∧ dr.1 ≤ sr.2 then .trap tEncoding s
        else if !gridAligned r.sbase r.sstr sn then .trap (tAlign none r.sbase) s
        else if !gridAligned r.dbase r.dstr dn then .trap (tAlign none r.dbase) s
        else if s.saveBars r.dsp then .trap (tSaveWrite none (some r.dbase)) s
        else match s.rangeStop r.ssp sr.1 sr.2, s.rangeStop r.dsp dr.1 dr.2 with
          | some k, _ => .trap (tProt k none (some r.sbase)) s
          | none, some k => .trap (tProt k none (some r.dbase)) s
          | none, none => .ok (s.issueOp r.tc .clu (.transfer bytes))
  | _, _ => .trap (tProt 0 none (some a)) s

def execZrst (n : Fin 64) (s : State) : Host.Outcome State Fault Refusal := commit (s.onZoom fun s => s.transfer 1 n)

def execZprl (n : Fin 64) (s : State) : Host.Outcome State Fault Refusal := commit (s.onZoom fun s => s.transfer 2 n)

def execZcpy (n : Fin 64) (s : State) : Host.Outcome State Fault Refusal := commit (s.onZoom fun s => s.transfer 3 n)

/-- ZTBL (R274): binding, address, contents, then issue. -/
def State.ztbl (s : State) (k : Fin 32) (n : Fin 64) (slot : Fin 4) : Eff :=
  let a := s.readS n.val
  if (s.tc k.val).bind ≠ .zoom then .trap (tProt 5 none none) s
  else match aligned a 16, s.ownTile a 1040 with
    | true, some bytes =>
      if tableOk bytes then .ok (s.issueOp k.val .clu (.table slot.val bytes)) else .trap tEncoding s
    | _, _ => .trap (tProt 0 none (some a)) s

def execZtbl (k : Fin 32) (n : Fin 64) (slot : Fin 4) (s : State) : Host.Outcome State Fault Refusal :=
  commit (s.onZoom fun s => s.ztbl k n slot)

/-! ### Counters (R106, R264) -/

/-- TCRD reads any bound counter, on the Loupe too. -/
def execTcrd (d : Fin 64) (k : Fin 32) (s : State) : Host.Outcome State Fault Refusal :=
  commit (if (s.tc k.val).bind = .unbound then .trap (tProt 5 none none) s
    else .ok (s.writeS d.val (s.tc k.val).value))

/-- TCINC: a release, then the add with its overflow check. -/
def execTcinc (x : Scope) (k : Fin 32) (a : Fin 64) (s : State) : Host.Outcome State Fault Refusal :=
  commit (s.groupOnly fun s =>
    if (s.tc k.val).bind ≠ .soft then .trap (tProt 5 none none) s
    else
      let n := s.readS a.val
      let s := s.relScope x
      let c := s.tc k.val
      if 2 ^ 64 ≤ c.value.toNat + n.toNat then .trap (tProt 0 none none) s
      else .ok (s.setBlk { s.blk with tc := s.blk.tc.set Tc.unbound k.val { c with value := c.value + n } }))

end Sys2Proof.Machine
end

