-- ==== Sys2Proof/Machine/Outside.lean ====
section
/-! DEFINITION. Accesses from outside the package (R390, R398 to R402), and the requests of the SPDM responder (R381). -/

namespace Sys2Proof.Machine

/-! ### The host, expanders and peers -/

/-- ASID of accesses that use no key (R390). -/
def plainAsid : Nat := 513

/-- An access of 1, 2, 4 or 8 bytes, naturally aligned. -/
def sizeOk (pa n : Nat) : Bool := (n == 1 || n == 2 || n == 4 || n == 8) && pa % n == 0

/-- An access meets an uncorrectable error of a line: it is logged, and there is no context to end (log entry 53). -/
def State.metBad (s : State) (pa : Nat) : State :=
  if s.bad.contains (pa / 128) then
    s.logNow 0x04 (locOf 7 (hbmStack s.hbmFine pa)) (BitVec.ofNat 64 (pa / 128 * 128 + 0x1FF * 2 ^ 48))
  else s

/-- A read at the package directory. -/
def State.outsideRead (s : State) (pa n : Nat) : State := ((s.metBad pa).readPkg plainAsid pa n).1

/-- A write at the package directory; what stands in a firmware region or a context table takes it (R342, R360). -/
def State.outsideWrite (s : State) (pa : Nat) (bs : List Byte) : State :=
  let t := (s.metBad pa).writePkg plainAsid pa bs
  match s.fwOfPa pa with
  | some (vi, tab, off) => t.putFw vi tab off bs
  | none => t

/-- An atomic at the home of a line (R402). -/
def State.outsideRmw (s : State) (pa n : Nat) (f : Nat → Nat) : State :=
  let new := fun bs => toBytes n (f (ofBytes bs))
  match s.fwOfPa pa with
  | some (vi, tab, off) =>
    let r := (s.metBad pa).rmwHome plainAsid pa n fun bs => new (s.fwBytes vi tab off bs)
    r.1.putFw vi tab off (new (s.fwBytes vi tab off r.2))
  | none => ((s.metBad pa).rmwHome plainAsid pa n new).1

/-- A host access at the package directory. -/
def State.outsideAccess (s : State) (write : Bool) (pa n : Nat) (v : Word64) : State :=
  if write then s.outsideWrite pa (toBytes n v.toNat) else s.outsideRead pa n

/-- A host access to device memory, at the package directory; a host write of its own memory invalidates the copies
that stack 0's LLC holds for the package (R398). -/
def State.hostAccess (s : State) (write : Bool) (pa n : Nat) (v : Word64) : State :=
  let s := s.deliverAll
  match paKind s.hbmFine pa with
  | .hbm h => if s.rdymap.getLsbD 28 && s.rdymap.getLsbD (20 + h) then s.outsideAccess write pa n v else s
  | .host =>
    let s := s.recallLine (pa / 128)
    if write then s.setMemBytes pa (toBytes n v.toNat) else s
  | _ => s

def execHostMemoryAccess (write : Bool) (pa : Nat) (size : Nat) (v : BitVec 64) (s : State) :
    Host.Outcome State Fault Refusal :=
  .next (if sizeOk pa size then s.hostAccess write pa size v else s)

/-- A Back-Invalidate snoop of a second-tier line: P lines are published, every copy is recalled (R400). -/
def execBackInvalidate (line : Nat) (s : State) : Host.Outcome State Fault Refusal :=
  .next (match paKind s.hbmFine (128 * line) with
    | .second _ => s.deliverAll.recallLine line
    | _ => s)

/-- Size and alignment of a peer request: an atomic's are those of its type. -/
def PeerOp.sizeOk (pa n : Nat) : PeerOp → Bool
  | .read | .write => Machine.sizeOk pa n
  | .atomic _ t => n == AType.bits t / 8 && pa % n == 0
  | .cas _ _ => (n == 4 || n == 8 || n == 16) && pa % n == 0

/-- A peer's request is performed here, at the home. -/
def State.peerAccess (s : State) (op : PeerOp) (pa n : Nat) (v : Word64) : State := match op with
  | .read => s.outsideRead pa n
  | .write => s.outsideWrite pa (toBytes n v.toNat)
  | .atomic op t => s.outsideRmw pa n fun m => atVal op t m v.toNat
  | .cas c x => s.outsideRmw pa n fun m => if m = c.toNat % 2 ^ (8 * n) then x.toNat else m

/-- A request to an aperture is no atomic (R85). -/
def PeerOp.plain : PeerOp → Bool
  | .read | .write => true
  | _ => false

/-- An incoming peer request enters at the package slices (R402): for HBM, or for the aperture of an enabled window; a
link or a target that is not ready defers it. -/
def execPeerRequest (link : Fin 8) (op : PeerOp) (pa : Nat) (size : Nat) (v : BitVec 64) (s : State) :
    Host.Outcome State Fault Refusal :=
  .next (if PeerOp.sizeOk pa size op && s.rdymap.getLsbD (32 + link.val) && (s.paWait pa).isNone then
    let s := s.deliverAll
    match paKind s.hbmFine pa with
    | .hbm _ => s.peerAccess op pa size v
    | .aperture => if PeerOp.plain op && (s.windowAt pa).isSome then s.peerAccess op pa size v else s
    | _ => s
  else s)

/-- A CXL.cache snoop of a host-memory line: the newest bytes go to the host, and with invalidation every copy goes. -/
def State.cxlSnoop (s : State) (line : Nat) (invalidate : Bool) : State :=
  match paKind s.hbmFine (128 * line) with
  | .host =>
    let s := s.deliverAll
    if invalidate then s.recallLine line
    else (if (s.copy 78 line).valid then State.gather line 4 78 s else s).toHost line
  | _ => s

def execCxlCacheSnoop (line : Nat) (invalidate : Bool) (s : State) : Host.Outcome State Fault Refusal :=
  .next (s.cxlSnoop line invalidate)

/-! ### DOE and SPDM (R381, R411; log entry 9) -/

/-- Send a response over DOE. -/
def State.reply (s : State) (bs : List Byte) : State := { s with doe := s.doe ++ [bs] }

/-- The response that the SPDM standard gives to a request; which measurement it covers is the request's. -/
def State.spdmReply (s : State) (code : BitVec 8) (req : List Byte) (m : BitVec 384) : State :=
  ({ s with free := s.free + 1 } : State).reply (Config.spdmPayload (code :: req) m s.free)

/-- An SPDM error response; nothing changes. -/
def State.spdmError (s : State) : State := s.reply [0x7F]

/-- GET_VERSION starts the negotiation anew. -/
def execGetVersion (s : State) : Host.Outcome State Fault Refusal :=
  .next (({ s with spdm := { measured := s.spdm.measured, version := true } } : State).spdmReply 0x84 [] 0)

/-- A request that needs an earlier one to have been answered. -/
def State.spdmAfter (s : State) (ok : Spdm → Bool) (f : State → State) : State := if ok s.spdm then f s else s.spdmError

def execGetCapabilities (s : State) : Host.Outcome State Fault Refusal :=
  .next (s.spdmAfter (·.version) fun s =>
    ({ s with spdm := { s.spdm with caps := true } } : State).spdmReply 0xE1 [] 0)

def execNegotiateAlgorithms (req : List Byte) (s : State) : Host.Outcome State Fault Refusal :=
  .next (s.spdmAfter (·.caps) fun s =>
    ({ s with spdm := { s.spdm with algs := true } } : State).spdmReply 0xE3 req 0)

def execGetDigests (s : State) : Host.Outcome State Fault Refusal :=
  .next (s.spdmAfter (·.algs) fun s => s.spdmReply 0x81 [] 0)

def execGetCertificate (slot : Fin 8) (off len : Nat) (s : State) : Host.Outcome State Fault Refusal :=
  .next (s.spdmAfter (·.algs) fun s =>
    s.spdmReply 0x82 (toBytes 1 slot.val ++ toBytes 4 off ++ toBytes 4 len) 0)

/-- Every measurement, folded in index order. -/
def Spdm.summary (m : Spdm) : BitVec 384 :=
  Config.sha384 ((List.range 6).flatMap fun i => toBytes 48 (m.measured.get 0 i).toNat)

def execChallenge (slot : Fin 8) (nonce : BitVec 256) (s : State) : Host.Outcome State Fault Refusal :=
  .next (s.spdmAfter (·.algs) fun s =>
    s.spdmReply 0x83 (toBytes 1 slot.val ++ toBytes 32 nonce.toNat) s.spdm.summary)

def execGetMeasurements (idx : BitVec 8) (sign : Bool) (nonce : BitVec 256) (s : State) :
    Host.Outcome State Fault Refusal :=
  .next (s.spdmAfter (·.algs) fun s =>
    s.spdmReply 0xE0 ([idx] ++ toBytes 1 (ofBool sign) ++ toBytes 32 nonce.toNat)
      (if idx = 0xFF then s.spdm.summary else s.spdm.measured.get 0 idx.toNat))

def execKeyExchange (req : List Byte) (s : State) : Host.Outcome State Fault Refusal :=
  .next (s.spdmAfter (·.algs) fun s =>
    ({ s with spdm := { s.spdm with session := true, finished := false } } : State).spdmReply 0xE4 req s.spdm.summary)

def execFinish (req : List Byte) (s : State) : Host.Outcome State Fault Refusal :=
  .next (s.spdmAfter (·.session) fun s =>
    ({ s with spdm := { s.spdm with finished := true } } : State).spdmReply 0xE5 req 0)

end Sys2Proof.Machine
end

