-- ==== Sys2Proof/Machine/Fleet.lean ====
section
/-! DEFINITION. The management plane: log requests, telemetry, power, temperature, package reset, power loss and live
migration (R403 to R419). -/

namespace Sys2Proof.Machine

/-! ### Requests over DOE (R411) -/

/-- Status of a request: 0 accepted, 1 refused. -/
def State.status (s : State) (ok : Bool) : State := s.reply [BitVec.ofNat 8 (ofBool (!ok))]

/-- MIRROR: the address is host memory in the package's physical map; entries not yet acknowledged are written again. -/
def State.setMirror (s : State) (a : Nat) (lg : Nat) : State :=
  if a % 4096 = 0 ∧ 7 ≤ lg ∧ lg ≤ 20 ∧ 0x100000000000 ≤ a ∧ a + 4096 + 32 * 2 ^ lg ≤ 0x200000000000 then
    let s := { s with log := { s.log with mirror := some (a, lg) } }
    (s.log.ents.foldl State.mirrorEntry s).status true
  else s.status false

def execMirror (addr : BitVec 64) (lg : Nat) (s : State) : Host.Outcome State Fault Refusal :=
  .next (s.setMirror addr.toNat lg)

/-- LOGACK frees the SRAM of the entries up to a SEQ: those that the mirror holds (R403). -/
def execLogack (seq : Nat) (s : State) : Host.Outcome State Fault Refusal :=
  .next (if s.log.written < seq then s.status false
    else
      let l := s.log
      ({ s with log := { l with ents := l.ents.filter fun e => decide (seq < e.seq), acked := Nat.max l.acked seq } }
        : State).status true)

/-- LOGRD: entries still in SRAM. -/
def execLogrd (seq n : Nat) (s : State) : Host.Outcome State Fault Refusal :=
  .next (if 1 ≤ n ∧ n ≤ 127 then
    s.reply (0 :: ((s.log.ents.filter fun e => decide (seq ≤ e.seq ∧ e.seq < seq + n)).flatMap LogEntry.bytes))
  else s.status false)

/-- CKPT: a checkpoint in SRAM. -/
def execCkpt (seq : Nat) (s : State) : Host.Outcome State Fault Refusal :=
  .next (match s.log.ckpts.find? fun c => c.seq == seq with
    | some c => s.reply (0 :: c.bytes)
    | none => s.status false)

/-- Microseconds that a cluster has spent at a step, of the nanoseconds since reset (R418). -/
def Power.usAt (p : Power) (total clu k : Nat) : Nat :=
  if k = 0 then (total - ((List.range 15).map fun i => p.atK.get 0 (16 * clu + i + 1)).sum) / 1000
  else p.atK.get 0 (16 * clu + k) / 1000

/-- TELEM (R418): power figures are free values; then temperatures, the cap, the times, the counts, the newest SEQ. -/
def execTelem (s : State) : Host.Outcome State Fault Refusal :=
  let p := s.power
  let mw := (List.range 28).flatMap fun i => toBytes 4 (Config.freeWord (s.free + i)).toNat
  let temps := ((List.range 8).map (locOf 3)) ++ ((List.range 4).map (locOf 2)) ++ ((List.range 8).map (locOf 4))
    ++ [locOf 1 0]
  .next (({ s with free := s.free + 28 } : State).reply (0 :: mw
    ++ temps.map (fun l => BitVec.ofNat 8 (p.temps.get 0 l.toNat))
    ++ toBytes 4 p.cap
    ++ ((List.range 64).flatMap fun c => (List.range 16).flatMap fun k => toBytes 8 (p.usAt s.trustTime.toNat c k))
    ++ ((List.range 4).flatMap fun i => toBytes 8 (s.log.counts.get 0 (i + 1)))
    ++ toBytes 8 s.log.seq))

/-- PWRCAP (R417). -/
def execPwrcap (w : Nat) (s : State) : Host.Outcome State Fault Refusal :=
  .next (if 1500 ≤ w ∧ w ≤ 3000 then ({ s with power := { s.power with cap := w } } : State).status true
    else s.status false)

/-- Codes 0 and 7 to 255: an error status, and nothing changes. -/
def execReservedDoeRequest (code : BitVec 8) (s : State) : Host.Outcome State Fault Refusal :=
  .next (if code = 0 ∨ 7 ≤ code.toNat then s.status false else s)

/-- Units of a kind; none of a kind that does not occur (R13, R405). -/
def kindCount (kind : Nat) : Nat := match kind with
  | 0 | 1 => 1
  | 2 | 8 => 4
  | 3 | 4 | 7 | 9 => 8
  | 5 => 64
  | 6 => 512
  | _ => 0

/-- A location that occurs, of one of some kinds (R405). -/
def locIs (loc : BitVec 16) (kinds : List Nat) : Bool :=
  kinds.contains (loc.toNat / 4096) && decide (loc.toNat % 4096 < kindCount (loc.toNat / 4096))

/-- Kinds of unit that hold the SRAM of a structure (R406). -/
def sramKinds (part : Nat) : List Nat := match part with
  | 0 | 1 | 2 | 3 => [6]
  | 4 | 8 => [5]
  | 5 => [2]
  | 6 => [2, 3]
  | 7 => [4]
  | 9 => [1]
  | _ => []

/-- Kinds of the location, and the bits of the data, of the entries that events append (R406). The epoch's entries and
that of dropped events are the log's own. -/
def eventForm (typ : BitVec 8) (data : Word64) : List Nat × Word64 := match typ.toNat with
  | 0x01 => (sramKinds (bits data 0 8), 0x0000FFFFFFFFFFFF)
  | 0x02 => ([7], 0x00FFFFFFFFFFFF80)
  | 0x03 => (sramKinds (bits data 0 8), 0x01FFFFFFFFFFFFFF)
  | 0x04 => ([7], 0x01FFFFFFFFFFFF80)
  | 0x10 => ([5], 0x0000000FFFFFFFFF)
  | 0x11 => ([0], 0x0000FFFFFFFFFFFF)
  | 0x12 => ([2, 3], 0x1FF)
  | 0x20 => ([6], 0xFF01FFFF)
  | 0x30 => ([3], 1)
  | 0x31 => ([2], 0xFFFFFFFF)
  | 0x32 => ([2], 0x01FFFFFFFFFFF000)
  | 0x33 => ([3], 0x1FF)
  | 0x40 => ([1, 2, 3, 4], 0xFFFF01FF)
  | 0x41 => ([6], 0xFF)
  | 0x50 => ([0], 0xFFFFFFFFFFFFFF01)
  | _ => ([], 0)

/-- An event of R406: at a location that occurs for its type, its reserved bits zero; a corrected HBM error is of 1 to 16
symbols, and an uncorrectable error that no access of the model meets ends no context. -/
def eventOk (typ : BitVec 8) (loc : BitVec 16) (data : Word64) : Bool :=
  let f := eventForm typ data
  locIs loc f.1 && data &&& ~~~ f.2 == 0
    && (typ != 0x02 || decide (1 ≤ bits data 48 8 ∧ bits data 48 8 ≤ 16))
    && ((typ != 0x03 && typ != 0x04) || bits data 48 9 == 0x1FF)

/-- An event of R406 reaches the trust die (R403, R409, R410). -/
def execLogAppend (typ : BitVec 8) (loc : BitVec 16) (data : BitVec 64) (s : State) : Host.Outcome State Fault Refusal :=
  .next (if eventOk typ loc data then s.logNow typ loc data else s)

/-! ### Droop, cap and throttle (R416, R417) -/

/-- Close an interval that has stayed at 0 for a microsecond: its entry is appended. -/
def State.closeDroop (s : State) (clu : Nat) : State :=
  let x := s.power.droop.get {} clu
  match x.stop with
  | none => s
  | some t =>
    if 1000 ≤ (s.trustTime - t).toNat then
      let s := { s with power := { s.power with droop := s.power.droop.erase clu } }
      s.logAt x.start 0x10 (locOf 5 clu) (BitVec.ofNat 64 ((t - x.start).toNat % 2 ^ 32 + x.deep * 2 ^ 32))
    else s

/-- A sag: the clock is stretched to the step it needs. -/
def execDroopSag (clu : Fin 64) (k : Fin 16) (s : State) : Host.Outcome State Fault Refusal :=
  .next (if k.val = 0 then s
    else
      let s := s.closeDroop clu.val
      let x := s.power.droop.get {} clu.val
      let fresh := x.k == 0 && x.stop.isNone
      let x : Stretch :=
        { k := Nat.max x.k k.val, deep := Nat.max x.deep k.val, start := if fresh then s.trustTime else x.start
          stop := none }
      { s with power := { s.power with droop := s.power.droop.set {} clu.val x } })

/-- The step falls by one; at 0 the interval ends. -/
def execDroopStepDown (clu : Fin 64) (s : State) : Host.Outcome State Fault Refusal :=
  let x := s.power.droop.get {} clu.val
  .next (if x.k = 0 then s.closeDroop clu.val
    else
      let x := { x with k := x.k - 1, stop := if x.k = 1 then some s.trustTime else none }
      { s with power := { s.power with droop := s.power.droop.set {} clu.val x } })

/-- The control loop stretches every cluster by a step; at 0 an interval ends and is logged. -/
def execPowerCapLoop (k : Fin 16) (s : State) : Host.Outcome State Fault Refusal :=
  let x := s.power.capS
  .next (if k.val = 0 then
      (if x.k = 0 then s
       else
         let d := (s.trustTime - x.start).toNat % 2 ^ 32
         (({ s with power := { s.power with capS := {} } } : State).logAt x.start 0x11 (locOf 0 0)
           (BitVec.ofNat 64 (d + x.deep * 2 ^ 32 + s.power.cap % 4096 * 2 ^ 36))))
    else
      let x : Stretch := { k := k.val, deep := Nat.max x.deep k.val, start := if x.k = 0 then s.trustTime else x.start }
      { s with power := { s.power with capS := x } })

/-- A junction temperature of a die is reported (R418): at 95 degrees of a compute or a base die clusters are stretched
as long as that die is so hot, and the event is logged (R406, R417). -/
def execThermalThrottle (loc : BitVec 16) (temp : BitVec 8) (k : Fin 16) (s : State) :
    Host.Outcome State Fault Refusal :=
  let hot := decide (95 ≤ temp.toNat) && locIs loc [2, 3]
  let t := { s with power := { s.power with therm := s.power.therm.set 0 loc.toNat (if hot then k.val else 0)
                                            temps := s.power.temps.set 0 loc.toNat temp.toNat } }
  .next (if !locIs loc [1, 2, 3, 4] then s else if hot then t.logNow 0x12 loc (temp.zeroExtend 64) else t)

/-- Module power is gone: every context, every copy on the package and the log's SRAM are lost; memory outside the
package stands (R410, R417). -/
def State.powerDown (s : State) : State :=
  { State.reset with
    off := true
    mem := s.mem.filter fun c => decide (2 ^ 40 ≤ c.1)
    flash := s.flash
    log := { boot := s.log.boot }
    doe := s.doe, msix := s.msix, agenda := s.agenda, sched := s.sched, clock := s.clock, free := s.free
    stops := s.stops }

/-- At 105 degrees of a compute or a base die: the entry, and power is removed; the next epoch tells the cause. -/
def execThermalTrip (loc : BitVec 16) (temp : BitVec 8) (s : State) : Host.Outcome State Fault Refusal :=
  .next (if 105 ≤ temp.toNat && locIs loc [2, 3] then
      let t := (s.logNow 0x12 loc (BitVec.ofNat 64 (temp.toNat + 256))).powerDown
      { t with log := { t.log with trip := true } }
    else s)

def execPowerLoss (s : State) : Host.Outcome State Fault Refusal := .next s.powerDown

/-! ### Package reset (R403, R406, R407) -/

/-- A new epoch of the log: the digest of the serial number and boot counter, the epoch start and its cause. -/
def State.epoch (s : State) (boot : Word64) (cause : BitVec 8) : State :=
  let s := { s with log := { boot := boot, digest := chainStart boot, live := true } }
  (s.logNow 0x00 (locOf 0 0) boot).logNow 0x60 (locOf 0 0) (cause.zeroExtend 64)

/-- Package reset by cause: everything as State.reset has it, in the next epoch. -/
def State.packageReset (s : State) (cause : BitVec 8) : State :=
  { s.powerDown with off := false }.epoch (s.log.boot + 1) cause

def execPackageReset (cause : BitVec 8) (s : State) : Host.Outcome State Fault Refusal := .next (s.packageReset cause)

/-- Step 1 of bring-up: the trust die is up (R384). The first epoch after State.reset starts here, and the next one where
module power comes back (R410), with the cause of its end (R406, R417); what reached the log before the epoch is no part
of it. The firmware's key slot takes a key (R387). -/
def execPowerGood (s : State) : Host.Outcome State Fault Refusal :=
  let t := if s.log.live then s
    else s.epoch (if s.off then s.log.boot + 1 else s.log.boot) (if s.log.trip then 2 else 0)
  let k : Key := { key := Config.freshKey 512 s.clock, valid := true, gen := 1 }
  let keys := if t.rdymap.getLsbD 40 then t.keys else t.keys.set Key.none 512 k
  .next ((({ t with off := false, keys := keys } : State).releaseFunc .key).setReady .key)

/-! ### Errors and migration (R413, R414, R419) -/

/-- Compute die in which a location lies (R405). -/
def dieAt (loc : BitVec 16) : Option Nat :=
  let n := loc.toNat % 4096
  match loc.toNat / 4096 with
  | 3 => some (n % 8)
  | 5 => some (n / 8 % 8)
  | 6 => some (n / 64 % 8)
  | _ => none

/-- The place of an error lies in the memory of the package. -/
def EccPlace.exists' : EccPlace → Bool
  | .hbm line => decide (line < 2 ^ 32)
  | .sram _ _ _ => true

/-- An error stands (R414): an uncorrectable one of HBM makes its line bad. -/
def State.arise (s : State) (e : EccPlace × Nat) : State := match e.1 with
  | .hbm line =>
    if correctable e then { s with latent := (s.latent.filter fun x => x.1 != e.1) ++ [e] }
    else { s with bad := if s.bad.contains line then s.bad else s.bad ++ [line] }
  | .sram _ _ _ => { s with latent := (s.latent.filter fun x => x.1 != e.1) ++ [e] }

/-- The scrub meets an error (R413, R414): a corrected one is logged, and the correction written back; an uncorrectable
one is logged with no context and stands; a compute die with one in its SRAM is quiesced (R391). -/
def State.scrubMeets (s : State) (e : EccPlace × Nat) : State :=
  let t := s.logEcc e 0x1FF
  if correctable e then { t with latent := t.latent.filter fun x => x.1 != e.1 }
  else match e.1 with
    | .hbm _ => t.arise e
    | .sram _ _ _ => (dieAt (s.eccLoc e.1)).elim (t.arise e) (t.arise e).quiesce

/-- PATROL_SCRUB: the scrub meets an error, or one arises behind it (log entry 53). -/
def execPatrolScrub (e : EccErr) (s : State) : Host.Outcome State Fault Refusal :=
  let x := (e.place, e.wrong)
  .next (if e.wrong = 0 ∨ EccPlace.exists' e.place = false then s else if e.later then s.arise x else s.scrubMeets x)

/-- What the machine holds of the saved blocks of an interface beside the copied memory (R419). -/
def State.movedOf (s : State) (vi : Nat) : List Moved :=
  (s.blocks.filter fun c => c.2.live && c.2.saved && c.2.vi == vi).map fun c =>
    { vi := vi, bid := c.1, block := c.2, cohort := s.cohorts.get Cohort.empty c.2.coh
      groups := s.savedG.filter fun g => g.1 / 16 == c.1 }

/-- A moved block stands at the destination, saved, with MIG set in its groups: command 3 places it (R170, R419). -/
def State.arrive (s : State) (m : Moved) : State :=
  { s with
    blocks := s.blocks.set Block.empty m.bid m.block
    cohorts := s.cohorts.set Cohort.empty m.block.coh m.cohort
    savedG := m.groups.foldl (fun t g => t.set Group.empty g.1 { g.2 with mig := true }) s.savedG }

/-- Live migration of an interface (R419): its saved blocks go; at the destination they arrive, MIG is set in its groups,
and the source's package time at the stop is carried to every die; an entry on both sides. -/
def State.migrate (s : State) (vi : Nat) (incoming : Bool) (stop : Word64) : State :=
  let mine := fun (g : Group) => (s.block g.bid).live && (s.block g.bid).vi == vi && g.live
  let s := if incoming then
      { (s.moved.filter fun m => m.vi == vi && !(s.block m.bid).live).foldl State.arrive { s with
          groups := s.groups.map fun c => (c.1, if mine c.2 then { c.2 with mig := true } else c.2)
          savedG := s.savedG.map fun c => (c.1, if mine c.2 then { c.2 with mig := true } else c.2)
          times := timeKeys.foldl (fun t d => if t.get 0 d < stop then t.set 0 d stop else t) s.times } with
        moved := s.moved.filter fun m => m.vi != vi }
    else { s with moved := (s.moved.filter fun m => m.vi != vi) ++ s.movedOf vi }
  s.logNow 0x50 (locOf 0 0)
    (BitVec.ofNat 64 (ofBool incoming + vi % 256 * 256 + stop.toNat % 2 ^ 48 * 2 ^ 16))

def execLiveMigration (vi : Nat) (incoming : Bool) (stop : BitVec 64) (s : State) : Host.Outcome State Fault Refusal :=
  .next (s.migrate vi incoming stop)

end Sys2Proof.Machine
end

