-- ==== Sys2Proof/Machine/Registers.lean ====
section
/-! DEFINITION. The registers that the host and the firmware reach outside the instruction set: where they lie, what they
read, and what a write does (R7, R8, R83, R322 to R327, R345, R360, R361, R382 to R391). -/

namespace Sys2Proof.Machine

/-- Write a field of a word. -/
def putBits (old : Word64) (lo n : Nat) (v : Word64) : Word64 :=
  let m : Word64 := BitVec.ofNat 64 ((2 ^ n - 1) * 2 ^ lo)
  (old &&& ~~~ m) ||| (v &&& m)

/-! ### Where the registers lie (R322, R324 to R326, R360, R382) -/

/-- Register at an offset of an interface's 64 KB window; the driver accesses aligned 64-bit words (log entry 19). -/
def windowReg (vi off : Nat) : HostReg :=
  if 0x100 ≤ off ∧ off < 0x200 then .part vi off
  else if 0x1000 ≤ off ∧ off < 0x1800 then
    let q := (off - 0x1000) / 0x40
    match off % 0x40 with
    | 0x00 => .qctl vi q
    | 0x08 => .qbase vi q
    | 0x10 => .qctx vi q
    | 0x18 => .qwr vi q
    | 0x20 => .qrd vi q
    | 0x28 => .qdl vi q
    | 0x30 => .qdec vi q
    | 0x38 => .qres vi q
    | _ => .other off
  else match off with
    | 0x00 => .viinfo vi
    | 0x08 => .vistat vi
    | 0x40 => .rbase vi
    | 0x48 => .rcfg vi
    | 0x50 => .rcmd vi
    | _ => .other off

/-- Register at an offset of an interface's context table. -/
def tableReg (vi off : Nat) : HostReg :=
  if off < 0x10000 ∧ off % 8 = 0 then .ctxWord vi (off / 256) (off % 256 / 8) else .other off

/-- Register at an offset of the management window; only the physical interface has one. -/
def manageReg (vi off : Nat) : HostReg :=
  if vi ≠ 0 then .other off
  else match off with
    | 0x00 => .rdymap
    | 0x08 => .rdyfail
    | 0x10 => .hbmcfg
    | 0x18 => .keyctl
    | 0x20 => .keybase
    | 0x28 => .keylen
    | _ => if 0x40 ≤ off ∧ off < 0x80 ∧ off % 8 = 0 then .dqctl ((off - 0x40) / 8) else .other off

/-! ### What they read (R7, R8) -/

/-- Cores of an interface's partition. -/
def Iface.cores (x : Iface) : Nat := 8 * x.clus.length

def Iface.infoWord (x : Iface) (vi : Nat) : Word64 :=
  fieldsWord [(0, vi), (16, x.cores), (32, x.asidBase), (41, x.asidCount)]

def Iface.statWord (x : Iface) : Word64 := fieldsWord [(0, ofBool x.ufl), (1, ofBool x.rfl), (2, ofBool x.dfl)]

def Iface.rcmdWord (x : Iface) : Word64 :=
  fieldsWord [(0, x.rlast.toNat), (30, ofBool x.rerr), (31, ofBool x.rbusy)]

def QState.num : QState → Nat
  | .disabled => 0 | .active => 1 | .error => 2 | .resetting => 3

/-- qctl; CMD reads as zero. -/
def Queue.ctlWord (x : Queue) : Word64 :=
  fieldsWord [(4, x.st.num), (8, ofBool x.cls), (12, x.lsize), (16, x.vec.toNat), (24, x.ecode.toNat)]

def Queue.ctxWord (x : Queue) : Word64 := fieldsWord [(0, x.asid), (16, x.ctxn)]

def Window.ctlWord (w : Window) : Word64 :=
  fieldsWord [(0, ofBool w.en), (1, ofBool w.fmt), (2, ofBool w.blen), (30, ofBool w.err), (31, ofBool w.busy)]

/-- keyctl; OP reads as zero. -/
def State.keyctlWord (s : State) : Word64 :=
  fieldsWord [(0, s.keyr.asid.toNat), (9, ofBool (s.hasKey s.keyr.asid.toNat)), (62, ofBool s.keyr.err),
    (63, ofBool s.keyr.busy.isSome)]

def DState.num : DState → Nat
  | .service => 0 | .quiescing => 1 | .rebuilding => 2 | .fenced => 3 | .returning => 4

/-- dqctl; CMD reads as zero. -/
def Dq.word (q : Dq) : Word64 :=
  fieldsWord [(4, q.st.num), (32, q.dline), (62, ofBool q.forced), (63, ofBool q.busy)]

/-- A partition register: a virtual interface reads zero (R322). -/
def State.partWord (s : State) (vi off : Nat) : Word64 :=
  if vi = 0 then Config.partWord off (s.ifaces.map fun c => (c.1, c.2.clus, c.2.asidBase, c.2.asidCount)) else 0

/-- An interface's partition, and its ASID range, as the physical interface reads them (R323). -/
def Iface.clusWord (x : Iface) : Word64 := fieldsWord (x.clus.map fun k => (k, 1))

def Iface.asidWord (x : Iface) : Word64 := fieldsWord [(0, x.asidBase), (16, x.asidCount)]

/-- What a register reads. WO fields and unlisted offsets read as zero. -/
def State.hostRead (s : State) : HostReg → Word64
  | .viinfo vi => (s.iface vi).infoWord vi
  | .vistat vi => (s.iface vi).statWord
  | .rbase vi => (s.iface vi).rbase
  | .rcfg vi => (s.iface vi).rcfg
  | .rcmd vi => (s.iface vi).rcmdWord
  | .part vi off => s.partWord vi off
  | .qctl vi q => (s.queue vi q).ctlWord
  | .qbase vi q => (s.queue vi q).base
  | .qctx vi q => (s.queue vi q).ctxWord
  | .qwr vi q => (s.queue vi q).wr.zeroExtend 64
  | .qrd vi q => (s.queue vi q).rd.zeroExtend 64
  | .qdl vi q => fieldsWord [(0, (s.queue vi q).dl)]
  | .qdec _ _ => 0
  | .qres vi q => fieldsWord [(0, (s.queue vi q).res)]
  | .ctxWord vi n w => (s.ctx vi n).word w
  | .twap st n => fieldsWord [(0, (s.win.get Window.reset (16 * st + n)).ap)]
  | .twsize st n => fieldsWord [(0, (s.win.get Window.reset (16 * st + n)).size)]
  | .twelem st n => fieldsWord [(0, (s.win.get Window.reset (16 * st + n)).elem)]
  | .twscale st n => fieldsWord [(0, (s.win.get Window.reset (16 * st + n)).scale)]
  | .twctl st n => (s.win.get Window.reset (16 * st + n)).ctlWord
  | .rdymap => s.rdymap
  | .rdyfail => s.rdyfail
  | .hbmcfg => fieldsWord [(0, ofBool s.hbmFine)]
  | .keyctl => s.keyctlWord
  | .keybase => s.keyr.keybase
  | .keylen => s.keyr.keylen
  | .dqctl d => (s.dq d).word
  | .partition b vi => if b = 0 then (s.iface vi).clusWord else 0
  | .asidRange b vi => if b = 0 then (s.iface vi).asidWord else 0
  | .fwRegion vi => (s.iface vi).fwbase
  | .ctxTable vi => (s.iface vi).ctxTab
  | .fwRoot => fieldsWord [(0, s.fwRoot)]
  | .occupancy c => s.occOf c
  | .lpool _ => 0
  | .other _ => 0

/-! ### Windows and queues of an interface (R324 to R327) -/

/-- W1C bits of vistat. -/
def Iface.clearStat (x : Iface) (v : Word64) : Iface :=
  { x with ufl := x.ufl && !v.getLsbD 0, rfl := x.rfl && !v.getLsbD 1, dfl := x.dfl && !v.getLsbD 2 }

/-- Fields of qctl but CMD; LSIZE and CLS in the disabled state only. -/
def Queue.setCtl (x : Queue) (v : Word64) : Queue :=
  let x := { x with vec := BitVec.ofNat 5 (bits v 16 5) }
  if x.st = .disabled then { x with lsize := Nat.min 12 (bits v 12 4), cls := v.getLsbD 8 } else x

/-- A register that is writable in the disabled state only. -/
def State.setDisabled (s : State) (vi q : Nat) (f : Queue → Queue) : State :=
  let x := s.queue vi q
  if x.st = .disabled then s.setQueue vi q (f x) else s

/-- A write of qctl: its fields, then its command. -/
def State.writeQctl (s : State) (vi q : Nat) (v : Word64) : State :=
  let s := s.setQueue vi q ((s.queue vi q).setCtl v)
  if bits v 0 2 = 1 then s.enableQueue vi q else if bits v 0 2 = 2 then s.resetQueue vi q else s

/-! ### Context table (R361, R362) -/

/-- A field of the entry that the driver sets while the context is free. -/
def Ctx.setField (c : Ctx) (w : Nat) (v : Word64) : Ctx :=
  if c.cstate != .free then c
  else match w with
    | 0 => { c with asid := v.truncate 9 }
    | 2 => { c with ptroot := v &&& ~~~ 0xFFF }
    | 3 => { c with saveb := v }
    | 4 => { c with savemap := v }
    | 5 => { c with saven := v.truncate 32, usrsz := (v >>> 32).truncate 32 }
    | 6 => { c with feat0 := v }
    | 7 => { c with feat1 := v }
    | 9 => { c with pasid := (v >>> 20).truncate 20 }
    | 10 => { c with fltlog := (v >>> 56).truncate 8 }
    | 12 => { c with fltring := v }
    | _ => c

/-- A field that is writable in every state. -/
def Ctx.setLive (c : Ctx) (w : Nat) (v : Word64) : Ctx := match w with
  | 0 => { c with debug := v.getLsbD 16, hold := v.getLsbD 17, vec := (v >>> 18).truncate 5 }
  | 9 => { c with invlog := (v >>> 40).truncate 8, invva := putBits c.invva 0 16 (v >>> 48) }
  | 10 => { c with invva := putBits c.invva 16 48 (v <<< 16) }
  | 11 => { c with fltrd := v.truncate 32 }
  | _ => c

/-- CMD: 0 is no command; 7 to 15 match no state and are refused. -/
def State.ctxCommand (s : State) (vi n : Nat) : Nat → State
  | 0 => s
  | 1 => s.ctxCreate vi n
  | 2 => s.ctxStop vi n
  | 3 => s.ctxResume vi n
  | 4 => s.ctxEnd vi n
  | 5 => s.ctxReplay vi n
  | 6 => s.ctxInvalidate vi n
  | _ => s.ctxRefuse vi n

/-- A write of 64-bit word w of an entry. -/
def State.writeCtx (s : State) (vi n w : Nat) (v : Word64) : State :=
  let s := s.setCtx vi n (((s.ctx vi n).setField w v).setLive w v)
  if w = 0 then s.ctxCommand vi n (bits v 32 4) else if w = 11 then s.flushRecords vi n else s

/-! ### Transcode windows (R83) -/

/-- A register of a window that is not written while the window is enabled; a flush in progress ends first. -/
def State.writeWin (s : State) (win : Nat) (f : Window → Window) : State :=
  if (s.win.get Window.reset win).en then s
  else
    let s := s.windowFlush win
    { s with win := s.win.upd Window.reset win f }

/-! ### Partitions, the firmware's structures, agents (R323, R340 to R342, R345) -/

/-- No queue of the interface is enabled. -/
def State.noQueue (s : State) (vi : Nat) : Bool := (List.range 32).all fun q => (s.queue vi q).st == .disabled

/-- Agents read their partition and firmware region. -/
def State.tellAgents (s : State) : State :=
  { s with groups := s.groups.map fun c =>
      (c.1, if c.2.kind = .agent then
        match s.ownerOf (coreOf c.1) with
        | some v => { c.2 with sr := { c.2.sr with ifn := BitVec.ofNat 8 v, agOut := false, fwbase := (s.iface v).fwbase } }
        | none => { c.2 with sr := { c.2.sr with ifn := 0xFF, agOut := true, fwbase := 0 } }
      else c.2) }

/-- A partition: the clusters of a mask that belong to no other interface. -/
def State.setPartition (s : State) (vi : Nat) (v : Word64) : State :=
  if s.noQueue vi then
    let free := fun k => !s.ifaces.any fun c => c.1 != vi && c.2.clus.contains k
    (s.setIface vi { s.iface vi with clus := (List.range 64).filter fun k => v.getLsbD k && free k }).tellAgents
  else s

/-- An ASID range: base in bits 15:0, count in bits 31:16, within the 512 and apart from every other interface's. -/
def State.setAsids (s : State) (vi : Nat) (v : Word64) : State :=
  let a := bits v 0 16
  let n := bits v 16 16
  if s.noQueue vi && decide (a + n ≤ 512)
      && !(s.ifaces.any fun c => c.1 != vi && meets a n c.2.asidBase c.2.asidCount) then
    s.setIface vi { s.iface vi with asidBase := a, asidCount := n }
  else s

/-- A write at an offset of the partition registers: of which interface's partition or ASID range, and with what value,
the spec does not say (R323; log entry 19). -/
def State.writePart (s : State) (off : Nat) (v : Word64) : State :=
  match Config.partSet off v with
  | none => s
  | some (range, vi, x) => if 256 ≤ vi then s else if range then s.setAsids vi x else s.setPartition vi x

/-- The base of an interface's firmware region: canonical, with bit 56 set. -/
def State.setFwRegion (s : State) (vi : Nat) (v : Word64) : State :=
  let a := v &&& ~~~ 0xFFF
  if canonical a && a.getLsbD 56 then (s.setIface vi { s.iface vi with fwbase := a }).tellAgents else s

/-- Where an interface's context table is mapped for the firmware (R341, R360; log entry 20). -/
def State.setCtxTab (s : State) (vi : Nat) (v : Word64) : State :=
  let a := v &&& ~~~ 0xFFF
  if canonical a && a.getLsbD 56 then s.setIface vi { s.iface vi with ctxTab := a } else s

/-! ### Management registers (R388, R389, R391) -/

def State.writeKeyctl (s : State) (v : Word64) : State :=
  let a := bits v 0 9
  match bits v 16 2 with
  | 0 => { s with keyr := { s.keyr with asid := v.truncate 9 } }
  | 1 => s.keyCmd (!s.asidInUse a) (.install a) a
  | 2 => s.keyCmd (!s.asidInUse a) (.destroy a) a
  | _ => match s.keyr.range with
    | none => s.keyCmd false (.seal a 0 0) a
    | some (b, n) => s.keyCmd (s.hasKey a) (.seal a b n) a

/-- DLINE, then the command: 1 quiesces, 2 sets a fenced die to returning until its images have been verified. -/
def State.writeDqctl (s : State) (d : Nat) (v : Word64) : State :=
  let s := s.setDq d { s.dq d with dline := Nat.max 1 (bits v 32 16) }
  let q := s.dq d
  if bits v 0 2 = 1 then s.quiesce d
  else if bits v 0 2 = 2 ∧ q.st = .fenced then s.setDq d { q with busy := true, st := .returning }
  else s

/-! ### The write -/

/-- rcmd: create, destroy or restart; any other value sets ERR, and so does every command while BUSY is 1. -/
def State.writeRcmd (s : State) (vi : Nat) (v : Word64) : State :=
  let n := bits v 16 48
  if v = 1 then s.createRing vi
  else if bits v 0 16 = 2 ∧ n < 4096 then s.destroyRing vi n
  else if bits v 0 16 = 3 ∧ n < 4096 then s.postRestart vi n
  else s.ringRefuse vi false

/-- The value of an address register: 48 bits, aligned; bits below the alignment are dropped (log entry 19). -/
def addr48 (v : Word64) (k : Nat) : Nat := bits v 0 48 / 2 ^ k * 2 ^ k

/-- A write of twctl (R83). -/
def State.writeTwctl (s : State) (win : Nat) (v : Word64) : Host.Outcome State Fault Refusal :=
  let s := s.writeWin win fun w => { w with blen := v.getLsbD 2, fmt := v.getLsbD 1 }
  if v.getLsbD 0 then execTwctlEnable win s else execTwctlDisable win s

/-- A write of a register of a window that exists. -/
def State.atWin (s : State) (stack n : Nat) (f : Window → Window) : Host.Outcome State Fault Refusal :=
  .next (if stack < 4 ∧ n < 16 then s.writeWin (16 * stack + n) f else s)

/-- Registers of an interface. -/
def State.writeIface (s : State) (vi : Nat) (f : Iface → Iface) : Host.Outcome State Fault Refusal :=
  .next (if vi < 256 then s.setIface vi (f (s.iface vi)) else s)

/-- Registers of a queue. -/
def State.atQueue (s : State) (vi q : Nat) (f : State) : Host.Outcome State Fault Refusal :=
  .next (if vi < 256 ∧ q < 32 then f else s)

def execRegisterWrite (r : HostReg) (v : BitVec 64) (s : State) : Host.Outcome State Fault Refusal := match r with
  | .vistat vi => s.writeIface vi fun x => x.clearStat v
  | .rbase vi => s.writeIface vi fun x => { x with rbase := v }
  | .rcfg vi => s.writeIface vi fun x => { x with rcfg := v &&& 0x1FF3FFF }
  | .rcmd vi => .next (if vi < 256 then s.writeRcmd vi v else s)
  | .qwr vi q => s.atQueue vi q (s.doorbell vi q (v.truncate 32))
  | .qdec vi q => s.atQueue vi q (s.qdec vi q v)
  | .qbase vi q => s.atQueue vi q (s.setDisabled vi q fun x => { x with base := v &&& ~~~ 0xFFF })
  | .qctx vi q => s.atQueue vi q (s.setDisabled vi q fun x => { x with asid := bits v 0 9, ctxn := bits v 16 16 })
  | .qdl vi q => s.atQueue vi q (s.setQueue vi q { s.queue vi q with dl := Nat.max 1 (bits v 0 16) })
  | .qres vi q => s.atQueue vi q (s.setDisabled vi q fun x => { x with res := bits v 0 7 })
  | .qctl vi q => s.atQueue vi q (s.writeQctl vi q v)
  | .ctxWord vi n w => .next (if vi < 256 ∧ n < 256 then s.writeCtx vi n w v else s)
  | .twap st n => s.atWin st n fun w => { w with ap := addr48 v 12 }
  | .twsize st n => s.atWin st n fun w => { w with size := addr48 v 0 }
  | .twelem st n => s.atWin st n fun w => { w with elem := addr48 v 7 }
  | .twscale st n => s.atWin st n fun w => { w with scale := addr48 v 7 }
  | .twctl st n => if st < 4 ∧ n < 16 then s.writeTwctl (16 * st + n) v else .next s
  | .keyctl => .next (s.writeKeyctl v)
  | .keybase => .next { s with keyr := { s.keyr with keybase := v } }
  | .keylen => .next { s with keyr := { s.keyr with keylen := v } }
  | .dqctl d => .next (if d < 8 then s.writeDqctl d v else s)
  | .partition b vi => .next (if b = 0 ∧ vi < 256 then s.setPartition vi v else s)
  | .asidRange b vi => .next (if b = 0 ∧ vi < 256 then s.setAsids vi v else s)
  | .fwRegion vi => .next (if vi < 256 then s.setFwRegion vi v else s)
  | .ctxTable vi => .next (if vi < 256 then s.setCtxTab vi v else s)
  | .fwRoot => .next { s with fwRoot := bits v 12 52 * 4096 }
  | .occupancy c => .next (if c < 512 then { s with occ := s.occ.set occReset c (putBits (s.occOf c) 57 7 v) } else s)
  | .lpool asid =>
    let p := (asid, v &&& ~~~ 1)
    .next { s with pools := (s.pools.filter (· != p)) ++ (if v.getLsbD 0 then [p] else []) }
  | .part vi off => .next (if vi = 0 then s.writePart off v else s)
  | .viinfo _ | .qrd _ _ | .rdymap | .rdyfail | .hbmcfg | .other _ => .next s

end Sys2Proof.Machine
end

