-- ==== Sys2Proof/Machine/Scalar.lean ====
section
/-! DEFINITION. Scalar arithmetic (R172 to R175) and VTOS (R179). -/

namespace Sys2Proof.Machine

/-- A scalar form writes its result and goes on (R154, R172). -/
def State.scalar (s : State) (d : Fin 64) (x : Word64) : Host.Outcome State Fault Refusal :=
  commit (.ok (s.writeS d.val x))

/-- A scalar form given by a function of the patterns of sA and b. -/
def State.scalar2 (s : State) (f : Nat → Nat → Nat) (d a : Fin 64) (b : SSrc) : Host.Outcome State Fault Refusal :=
  s.scalar d (BitVec.ofNat 64 (f (s.readS a.val).toNat (s.readB b).toNat))

def execSmov (d : Fin 64) (b : SSrc) (s : State) : Host.Outcome State Fault Refusal := s.scalar d (s.readB b)

def execSadd (d a : Fin 64) (b : SSrc) (s : State) : Host.Outcome State Fault Refusal :=
  s.scalar d (s.readS a.val + s.readB b)

/-- sadd.sat (R111, R172). -/
def execSaddSat (u : Bool) (d a : Fin 64) (b : SSrc) (s : State) : Host.Outcome State Fault Refusal :=
  s.scalar2 (fun x y => saturate (!u) 64 (ival (!u) 64 x + ival (!u) 64 y)) d a b

def execSsub (d a : Fin 64) (b : SSrc) (s : State) : Host.Outcome State Fault Refusal :=
  s.scalar d (s.readS a.val - s.readB b)

def execSsubSatS64 (d a : Fin 64) (b : SSrc) (s : State) : Host.Outcome State Fault Refusal :=
  s.scalar2 (fun x y => saturate true 64 (ival true 64 x - ival true 64 y)) d a b

def execSsubSatN64 (d a : Fin 64) (b : SSrc) (s : State) : Host.Outcome State Fault Refusal :=
  s.scalar2 (fun x y => saturate false 64 (ival false 64 x - ival false 64 y)) d a b

def execSmul (d a : Fin 64) (b : SSrc) (s : State) : Host.Outcome State Fault Refusal :=
  s.scalar d (s.readS a.val * s.readB b)

/-- Upper half of the exact product (R172). -/
def execSmulh (u : Bool) (d a : Fin 64) (b : SSrc) (s : State) : Host.Outcome State Fault Refusal :=
  s.scalar2 (fun x y => wrap 64 (ival (!u) 64 x * ival (!u) 64 y / 2 ^ 64)) d a b

def execSdiv (u : Bool) (d a : Fin 64) (b : SSrc) (s : State) : Host.Outcome State Fault Refusal :=
  s.scalar2 (idiv (!u) 64) d a b

def execSrem (u : Bool) (d a : Fin 64) (b : SSrc) (s : State) : Host.Outcome State Fault Refusal :=
  s.scalar2 (irem (!u) 64) d a b

def execSand (d a : Fin 64) (b : SSrc) (s : State) : Host.Outcome State Fault Refusal :=
  s.scalar d (s.readS a.val &&& s.readB b)

def execSor (d a : Fin 64) (b : SSrc) (s : State) : Host.Outcome State Fault Refusal :=
  s.scalar d (s.readS a.val ||| s.readB b)

def execSxor (d a : Fin 64) (b : SSrc) (s : State) : Host.Outcome State Fault Refusal :=
  s.scalar d (s.readS a.val ^^^ s.readB b)

def execSshl (d a : Fin 64) (b : SSrc) (s : State) : Host.Outcome State Fault Refusal := s.scalar2 (shl 64) d a b

def execSshr (d a : Fin 64) (b : SSrc) (s : State) : Host.Outcome State Fault Refusal := s.scalar2 (shr 64) d a b

def execSsra (d a : Fin 64) (b : SSrc) (s : State) : Host.Outcome State Fault Refusal := s.scalar2 (sra 64) d a b

/-- The old sD selects (R172). -/
def execSsel (d a : Fin 64) (b : SSrc) (s : State) : Host.Outcome State Fault Refusal :=
  s.scalar d (if s.readS d.val ≠ 0 then s.readS a.val else s.readB b)

def execSminS64 (d a : Fin 64) (b : SSrc) (s : State) : Host.Outcome State Fault Refusal :=
  s.scalar2 (iminmax false true 64) d a b

def execSminN64 (d a : Fin 64) (b : SSrc) (s : State) : Host.Outcome State Fault Refusal :=
  s.scalar2 (iminmax false false 64) d a b

def execSmaxS64 (d a : Fin 64) (b : SSrc) (s : State) : Host.Outcome State Fault Refusal :=
  s.scalar2 (iminmax true true 64) d a b

def execSmaxN64 (d a : Fin 64) (b : SSrc) (s : State) : Host.Outcome State Fault Refusal :=
  s.scalar2 (iminmax true false 64) d a b

def execSpopc (d : Fin 64) (b : SSrc) (s : State) : Host.Outcome State Fault Refusal :=
  s.scalar d (BitVec.ofNat 64 (popcount 64 (s.readB b).toNat))

def execSclz (d : Fin 64) (b : SSrc) (s : State) : Host.Outcome State Fault Refusal :=
  s.scalar d (BitVec.ofNat 64 (clz 64 (s.readB b).toNat))

def execSbfxS64 (d a : Fin 64) (b : SSrc) (s : State) : Host.Outcome State Fault Refusal :=
  s.scalar2 (bfx true 64) d a b

def execSbfxN64 (d a : Fin 64) (b : SSrc) (s : State) : Host.Outcome State Fault Refusal :=
  s.scalar2 (bfx false 64) d a b

def execSbfi (d a : Fin 64) (b : SSrc) (s : State) : Host.Outcome State Fault Refusal :=
  s.scalar2 (bfi 64 (s.readS d.val).toNat) d a b

/-- Address add: the protection trap, reason non-canonical, leaves sD as it was (R174). -/
def execSadda (d a : Fin 64) (b : SSrc) (s : State) : Host.Outcome State Fault Refusal :=
  let r := s.readS a.val + s.readB b
  if canonical (s.readS a.val) && canonical r then s.scalar d r
  else commit (.trap (tProt 3 none (some r)) s)

/-- Compare into 1 or 0 (R175). -/
def execScmp (c : Cond) (u : Bool) (d a : Fin 64) (b : SSrc) (s : State) : Host.Outcome State Fault Refusal :=
  s.scalar2 (fun x y => ofBool (icmp c (ival (!u) 64 x) (ival (!u) 64 y))) d a b

/-- One lane's value of a v-register, whatever the mask; 0 past lane 95 (R179). -/
def execVtos (d a : Fin 64) (v : Fin 96) (s : State) : Host.Outcome State Fault Refusal :=
  commit (s.groupOnly fun s =>
    let l := (s.readS a.val).toNat
    .ok (s.writeS d.val (if l < 96 then (s.readV v.val l).zeroExtend 64 else 0)))

end Sys2Proof.Machine
end

