-- ==== Sys2Proof/Decode.lean ====
section
/-! DEFINITION. Decoding code words into instructions and encoding instructions into words: R130 to R148, with the
field layouts of each instruction's own chapter. -/

namespace Sys2Proof

/-- Why a word does not decode (R143, R144). An unassigned opcode decodes to `unassignedOpcode`. -/
inductive Reject
  /-- The literal reaches past slot 2 of the packet (R140). -/
  | illegalPacket
  /-- A reserved field value, or a second literal (R135 to R142). -/
  | illegalEncoding
  deriving DecidableEq, Repr

/-- Bits lo + n - 1 : lo of a word. -/
def fld (w lo n : Nat) : Nat := w / 2 ^ lo % 2 ^ n

/-- A value as an element of Fin n, where it is one. -/
def fin? (n k : Nat) : Option (Fin n) := if h : k < n then some ⟨k, h⟩ else none

/-! ### Codes of the enumerated fields (R87, R88, R113, R145, R239, R265) -/

def IType.code : IType → Nat
  | .s8 => 0 | .n8 => 1 | .s16 => 2 | .n16 => 3 | .s32 => 4 | .n32 => 5 | .s64 => 6 | .n64 => 7

def IType.ofCode : Nat → IType
  | 0 => .s8 | 1 => .n8 | 2 => .s16 | 3 => .n16 | 4 => .s32 | 5 => .n32 | 6 => .s64 | _ => .n64

def LType.code : LType → Nat
  | .s8 => 0 | .n8 => 1 | .s16 => 2 | .n16 => 3 | .b32 => 4 | .b64 => 5

def LType.ofCode : Nat → LType
  | 0 => .s8 | 1 => .n8 | 2 => .s16 | 3 => .n16 | 4 => .b32 | _ => .b64

def Wid.code : Wid → Nat
  | .b32 => 0 | .b64 => 1

def Wid.ofCode : Nat → Wid
  | 0 => .b32 | _ => .b64

def StW.code : StW → Nat
  | .b8 => 0 | .b16 => 1 | .b32 => 2 | .b64 => 3

def StW.ofCode : Nat → StW
  | 0 => .b8 | 1 => .b16 | 2 => .b32 | _ => .b64

def TvW.code : TvW → Nat
  | .b32 => 0 | .b64 => 1 | .b128 => 2

def TvW.ofCode : Nat → TvW
  | 0 => .b32 | 1 => .b64 | _ => .b128

def JType.code : JType → Nat
  | .s32 => 0 | .n32 => 1 | .s64 => 2 | .n64 => 3

def JType.ofCode : Nat → JType
  | 0 => .s32 | 1 => .n32 | 2 => .s64 | _ => .n64

def FType.code : FType → Nat
  | .f16 => 0 | .bf16 => 1 | .f32 => 2 | .f64 => 3

def FType.ofCode : Nat → FType
  | 0 => .f16 | 1 => .bf16 | 2 => .f32 | _ => .f64

def Rnd.code : Rnd → Nat
  | .rne => 0 | .rz => 1 | .ru => 2 | .rd => 3

def Rnd.ofCode : Nat → Rnd
  | 0 => .rne | 1 => .rz | 2 => .ru | _ => .rd

def Cond.code : Cond → Nat
  | .eq => 0 | .ne => 1 | .lt => 2 | .le => 3 | .gt => 4 | .ge => 5

def Cond.ofCode : Nat → Cond
  | 0 => .eq | 1 => .ne | 2 => .lt | 3 => .le | 4 => .gt | _ => .ge

def FCondE.code : FCondE → Nat
  | .eq => 0 | .ne => 1

def FCondE.ofCode : Nat → FCondE
  | 0 => .eq | _ => .ne

def FCondL.code : FCondL → Nat
  | .lt => 0 | .le => 1

def FCondL.ofCode : Nat → FCondL
  | 0 => .lt | _ => .le

def FCondG.code : FCondG → Nat
  | .gt => 0 | .ge => 1 | .un => 2 | .ord => 3

def FCondG.ofCode : Nat → FCondG
  | 0 => .gt | 1 => .ge | 2 => .un | _ => .ord

def RType.code : RType → Nat
  | .s32 => 0 | .n32 => 1 | .s64 => 2 | .n64 => 3 | .f32 => 4 | .f64 => 5

def RType.ofCode? : Nat → Option RType
  | 0 => some .s32 | 1 => some .n32 | 2 => some .s64 | 3 => some .n64 | 4 => some .f32 | 5 => some .f64
  | _ => none

def AType.code : AType → Nat
  | .s32 => 0 | .n32 => 1 | .s64 => 2 | .n64 => 3 | .f32 => 4 | .f64 => 5

def AType.ofCode : Nat → AType
  | 0 => .s32 | 1 => .n32 | 2 => .s64 | 3 => .n64 | 4 => .f32 | _ => .f64

def AType32.code : AType32 → Nat
  | .s32 => 0 | .n32 => 1

def AType32.ofCode : Nat → AType32
  | 0 => .s32 | _ => .n32

def AType64F.code : AType64F → Nat
  | .s64 => 0 | .n64 => 1 | .f32 => 2 | .f64 => 3

def AType64F.ofCode : Nat → AType64F
  | 0 => .s64 | 1 => .n64 | 2 => .f32 | _ => .f64

def ATypeInt.code : ATypeInt → Nat
  | .s32 => 0 | .n32 => 1 | .s64 => 2 | .n64 => 3

def ATypeInt.ofCode : Nat → ATypeInt
  | 0 => .s32 | 1 => .n32 | 2 => .s64 | _ => .n64

def ATypeFp.code : ATypeFp → Nat
  | .f32 => 0 | .f64 => 1

def ATypeFp.ofCode : Nat → ATypeFp
  | 0 => .f32 | _ => .f64

def Scope.code : Scope → Nat
  | .core => 0 | .clu => 1 | .die => 2 | .stk => 3 | .ipr => 4 | .pkg => 5 | .sys => 6

def Scope.ofCode? : Nat → Option Scope
  | 0 => some .core | 1 => some .clu | 2 => some .die | 3 => some .stk | 4 => some .ipr | 5 => some .pkg
  | 6 => some .sys | _ => none

def Order.code : Order → Nat
  | .rlx => 0 | .acq => 1 | .rel => 2 | .ar => 3

def Order.ofCode : Nat → Order
  | 0 => .rlx | 1 => .acq | 2 => .rel | _ => .ar

def FenceKind.code : FenceKind → Nat
  | .acq => 1 | .rel => 2 | .ar => 3

def FenceKind.ofCode? : Nat → Option FenceKind
  | 1 => some .acq | 2 => some .rel | 3 => some .ar | _ => none

def Space.code : Space → Nat
  | .glob => 0 | .tile => 1 | .vault => 2

def Space.ofCode? : Nat → Option Space
  | 0 => some .glob | 1 => some .tile | 2 => some .vault | _ => none

def SwpOp.code : SwpOp → Nat
  | .copy => 0 | .add => 1 | .sub => 2 | .mul => 3 | .fma => 4 | .min => 5 | .max => 6 | .abs => 7 | .neg => 8
  | .scale => 9 | .axpy => 10 | .fill => 11

def SwpOp.ofCode? : Nat → Option SwpOp
  | 0 => some .copy | 1 => some .add | 2 => some .sub | 3 => some .mul | 4 => some .fma | 5 => some .min
  | 6 => some .max | 7 => some .abs | 8 => some .neg | 9 => some .scale | 10 => some .axpy | 11 => some .fill
  | _ => none

def SwprOp.code : SwprOp → Nat
  | .add => 0 | .max => 1 | .min => 2

def SwprOp.ofCode? : Nat → Option SwprOp
  | 0 => some .add | 1 => some .max | 2 => some .min | _ => none

def PaddTy.code : PaddTy → Nat
  | .s32 => 0 | .s64 => 1 | .f32 => 2 | .f64 => 3

def PaddTy.ofCode : Nat → PaddTy
  | 0 => .s32 | 1 => .s64 | 2 => .f32 | _ => .f64

def PcpyW.code : PcpyW → Nat
  | .w4 => 0 | .w8 => 1 | .w16 => 2

def PcpyW.ofCode : Nat → PcpyW
  | 0 => .w4 | 1 => .w8 | _ => .w16

def MType.code : MType → Nat
  | .dx4 => 0 | .dx8 => 1 | .bf16 => 2 | .fp16 => 3 | .fp32 => 4 | .fp64 => 5

def MType.ofCode? : Nat → Option MType
  | 0 => some .dx4 | 1 => some .dx8 | 2 => some .bf16 | 3 => some .fp16 | 4 => some .fp32 | 5 => some .fp64
  | _ => none

/-- Register numbers of SRD and SWR (R165, R340, R341). -/
def SysReg.code : SysReg → Nat
  | .ctxsave => 0 | .gotb => 1 | .trapvec => 2 | .ejt => 3 | .ejto => 4 | .ejst => 5 | .fault => 6 | .faddr => 7
  | .fidx => 8 | .mstat => 9 | .fpstat => 10 | .mode => 11 | .place => 12
  | .agid => 32 | .fwbase => 33 | .apoll => 34 | .aasid => 35

def SysReg.ofCode? : Nat → Option SysReg
  | 0 => some .ctxsave | 1 => some .gotb | 2 => some .trapvec | 3 => some .ejt | 4 => some .ejto
  | 5 => some .ejst | 6 => some .fault | 7 => some .faddr | 8 => some .fidx | 9 => some .mstat
  | 10 => some .fpstat | 11 => some .mode | 12 => some .place | 32 => some .agid | 33 => some .fwbase
  | 34 => some .apoll | 35 => some .aasid | _ => none

/-! ### Literals and requests (R140 to R142) -/

/-- The two words after the instruction in its packet; a word past slot 2 is never used. -/
structure Lits where
  l1 : Word32
  l2 : Word32
  deriving DecidableEq, Repr

/-- Opcode of a word: bits 30:21 (R134). -/
def opOf (w : Nat) : Nat := w / 2 ^ 21 % 1024

/-- Opcodes that this stepping assigns (R146). -/
def assigned (op : Nat) : Bool :=
  op ≤ 0x013 || (0x040 ≤ op && op ≤ 0x05E) || (0x060 ≤ op && op ≤ 0x06B) || (0x070 ≤ op && op ≤ 0x076)
  || (0x100 ≤ op && op ≤ 0x1AF) || (0x1C0 ≤ op && op ≤ 0x1C3) || (0x200 ≤ op && op ≤ 0x277)
  || (0x280 ≤ op && op ≤ 0x29B) || (0x2A0 ≤ op && op ≤ 0x2B3) || (0x2C0 ≤ op && op ≤ 0x2CD) || (0x2E0 ≤ op && op ≤ 0x2E3)
  || (0x300 ≤ op && op ≤ 0x305) || (0x308 ≤ op && op ≤ 0x30E) || (0x310 ≤ op && op ≤ 0x312)
  || (0x314 ≤ op && op ≤ 0x316) || (0x318 ≤ op && op ≤ 0x31A) || (0x31C ≤ op && op ≤ 0x31E)
  || (0x320 ≤ op && op ≤ 0x325) || (0x340 ≤ op && op ≤ 0x35E) || (0x360 ≤ op && op ≤ 0x366)
  || (0x368 ≤ op && op ≤ 0x379) || (0x380 ≤ op && op ≤ 0x385) || (0x3A0 ≤ op && op ≤ 0x3A4)
  || (0x3C0 ≤ op && op ≤ 0x3C5) || (0x3C8 ≤ op && op ≤ 0x3CB) || op == 0x3D0 || op == 0x3D1
  || (0x3D8 ≤ op && op ≤ 0x3DC) || op == 0x3E0 || op == 0x3E1

/-- The form carries a fixed literal (R141). -/
def fixedLit (op : Nat) : Bool := op == 0x005 || op == 0x384 || op == 0x3A0 || op == 0x3A1

/-- Field d is a source operand code: the stores and the no-return reductions (R219). Code 124 or 125 in the data
field of a 128-bit store, which takes a register alone, and in the condition of BZ and BNZ requests no literal: the
spec leaves open whether it does, before the encoding check refuses it (R143; log entry 65). -/
def dOperand (op : Nat) : Bool :=
  (0x308 ≤ op && op ≤ 0x30B) || op == 0x314 || op == 0x315 || op == 0x31C || op == 0x31D || op == 0x322
  || op == 0x323 || (0x360 ≤ op && op ≤ 0x379)

/-- Field a is a source operand code (R138); that of a lane instruction is a register alone, and codes 124 and 125 there
request no literal, which the spec leaves open (R140, R143; log entry 65). -/
def aOperand (op : Nat) : Bool := 0x100 ≤ op && op ≤ 0x2B3

/-- Field b is a source operand code and no modifier (R138, R181). -/
def bOperand (op : Nat) : Bool :=
  (0x100 ≤ op && op ≤ 0x14D) || (0x150 ≤ op && op ≤ 0x155) || (0x158 ≤ op && op ≤ 0x16F)
  || (0x180 ≤ op && op ≤ 0x1AF) || (0x200 ≤ op && op ≤ 0x28F) || op == 0x2C4 || op == 0x2C5

/-- Field b9 is a source operand (R136); in TRAP, BAR, VTOS and SRD it is none, and its codes 0x040 and 0x041 request no
literal, which the spec leaves open (R140, R143; log entry 65). -/
def b9Operand (op : Nat) : Bool :=
  (0x00F ≤ op && op ≤ 0x011) || (0x040 ≤ op && op ≤ 0x074)

/-- The mode field of R137 selects an address. -/
def mAddressed (op : Nat) : Bool :=
  (0x300 ≤ op && op ≤ 0x31E) || (0x322 ≤ op && op ≤ 0x379)

/-- Words of literal that an operand code requests. -/
def codeReq (c : Nat) : Nat := if c = 124 then 1 else if c = 125 then 2 else 0

/-- Operand literals that a word requests, in the order d, a, mode, b of R143: their lengths in words. -/
def requests (op w : Nat) : List Nat :=
  ([if dOperand op then codeReq (fld w 14 7) else 0,
    if aOperand op then codeReq (fld w 7 7) else 0,
    if mAddressed op && fld w 0 2 == 3 then 1 else 0,
    if bOperand op then codeReq (fld w 0 7)
    else if b9Operand op then (if fld w 0 9 = 0x40 then 1 else if fld w 0 9 = 0x41 then 2 else 0) else 0]).filter
      (fun n => n != 0)

/-- Words of the instruction's first literal; 0 where it has none (R143), as in a word whose opcode is unassigned
(R144). A code that literal-pool mode reserves is no request (R142). -/
def litLen (pool : Bool) (op w : Nat) : Nat :=
  if fixedLit op then 1 else if pool || !assigned op then 0 else (requests op w).headD 0

/-! ### Operands -/

/-- An operand code read as a source of type t (R138, R140). -/
def Src.dec (t : OpT) (l : Lits) (c : Nat) : Option Src :=
  if c < 96 then (if t.is64 && c % 2 == 1 then none else some (.v (Fin.ofNat 96 c)))
  else if c < 112 then some (.s (Fin.ofNat 16 (c - 96)))
  else if c < 116 then (if t.isFp then none else some (.int (Fin.ofNat 4 (c - 112))))
  else if c < 120 then (if t.isFp then some (.flt (Fin.ofNat 4 (c - 116))) else none)
  else if c < 124 then (if t.isFp then none else some (.special (Fin.ofNat 4 (c - 120))))
  else if c = 124 then (if t.is16 && 65536 ≤ l.l1.toNat then none else some (.lit32 l.l1))
  else if c = 125 then (if t.is64 then some (.lit64 (l.l2 ++ l.l1)) else none)
  else none

/-- The b9 field of an S-format form (R136). -/
def SSrc.dec (l : Lits) (c : Nat) : Option SSrc :=
  if c < 64 then some (.s (Fin.ofNat 64 c))
  else if c = 64 then some (.lit32 l.l1)
  else if c = 65 then some (.lit64 (l.l2 ++ l.l1))
  else if c < 256 then none
  else some (.imm (BitVec.ofNat 8 (c - 256)))

/-- Address and mode of an M-format form (R137). -/
def MAddr.dec (l : Lits) (a m : Nat) : Option MAddr :=
  if m = 0 then (if a < 64 then some (.s (Fin.ofNat 64 a)) else none)
  else if m = 1 then some (.sv (Fin.ofNat 8 (a / 16)) (Fin.ofNat 16 (a % 16)))
  else if m = 2 then (if a < 96 && a % 2 == 0 then some (.pair (Fin.ofNat 48 (a / 2))) else none)
  else (if a < 64 then some (.slit (Fin.ofNat 64 a) l.l1) else none)

/-- The base of CSTORE and XLOAD (R224). -/
def CAddr.dec (l : Lits) (a m : Nat) : Option CAddr :=
  if m = 0 then (if a < 64 then some (.s (Fin.ofNat 64 a)) else none)
  else if m = 3 then (if a < 64 then some (.slit (Fin.ofNat 64 a) l.l1) else none)
  else none

/-- Scope and order of an M-format form (R87, R88). -/
def Acc.dec (w : Nat) : Option Acc := do
  let s ← Scope.ofCode? (fld w 4 3)
  some ⟨s, Order.ofCode (fld w 2 2)⟩

/-- Offset and slot of a packet-relative target (R131): bits 13:2 and 1:0. -/
def Target.dec (w : Nat) : Option Target := do
  let s ← fin? 3 (fld w 0 2)
  some ⟨BitVec.ofNat 12 (fld w 2 12), s⟩

def VSDst.dec (c : Nat) : Option VSDst :=
  if c < 96 then some (.v (Fin.ofNat 96 c))
  else if c < 112 then some (.s (Fin.ofNat 16 (c - 96)))
  else none

/-- Accept an instruction that is well formed. -/
def chk (i : Instr) : Option Instr := if i.wf then some i else none

/-! ### One decoder per group of opcodes (R146) -/

/-- V-format fields (R134). -/
def dF (w : Nat) : Nat := fld w 14 7
def aF (w : Nat) : Nat := fld w 7 7
def bF (w : Nat) : Nat := fld w 0 7

/-- S-format fields (R134). -/
def sd (w : Nat) : Fin 64 := Fin.ofNat 64 (fld w 15 6)
def sa (w : Nat) : Fin 64 := Fin.ofNat 64 (fld w 9 6)
def b9F (w : Nat) : Nat := fld w 0 9

/-- Control, handlers and system registers: 0x000 to 0x013 (R155 to R171). -/
def decControl (op w : Nat) (l : Lits) : Option Instr :=
  match op with
  | 0 => if fld w 0 21 = 0 then some .nop else none
  | 1 => do
    let t ← Target.dec w
    if dF w = 0 then some (.br t) else none
  | 2 => do
    let t ← Target.dec w
    if dF w < 96 then some (.bz (.v (Fin.ofNat 96 (dF w))) t)
    else if dF w < 112 then some (.bz (.s (Fin.ofNat 16 (dF w - 96))) t) else none
  | 3 => do
    let t ← Target.dec w
    if dF w < 96 then some (.bnz (.v (Fin.ofNat 96 (dF w))) t)
    else if dF w < 112 then some (.bnz (.s (Fin.ofNat 16 (dF w - 96))) t) else none
  | 4 => do
    let t ← Target.dec w
    let p ← fin? 8 (dF w)
    some (.bp p t)
  | 5 => do
    let t ← Target.dec w
    let p ← fin? 8 (dF w)
    let n := l.l1.toNat
    let r ← Target.dec n
    if fld n 31 1 = 0 then chk (.brd p t ⟨BitVec.ofNat 16 (fld n 15 16), fld n 14 1 == 1, r⟩) else none
  | 6 => if fld w 15 6 = 0 && b9F w == 0 then some (.jmpi (sa w)) else none
  | 7 => do
    let t ← Target.dec w
    if 96 ≤ dF w && dF w < 112 then some (.call (Fin.ofNat 16 (dF w - 96)) t) else none
  | 8 => if b9F w = 0 then some (.calli (sd w) (sa w)) else none
  | 9 => if fld w 15 6 = 0 && b9F w == 0 then some (.ret (sa w)) else none
  | 10 => if fld w 0 21 = 0 then some .exit else none
  | 11 => if fld w 9 12 = 0 && 256 ≤ b9F w then some (.trap (BitVec.ofNat 8 (b9F w - 256))) else none
  | 12 => if fld w 0 21 = 0 then some .tret else none
  | 13 => if fld w 0 21 = 0 then some .hdone else none
  | 14 => do
    let r ← SysReg.ofCode? (fld w 9 6)
    if b9F w = 0 then some (.srd (sd w) r) else none
  | 15 => do
    let r ← SysReg.ofCode? (fld w 9 6)
    let b ← SSrc.dec l (b9F w)
    if fld w 15 6 = 0 then some (.swr r b) else none
  | 16 => do
    let b ← SSrc.dec l (b9F w)
    if fld w 9 6 = 0 then some (.featq (sd w) b) else none
  | 17 => do
    let b ← SSrc.dec l (b9F w)
    if fld w 9 6 = 0 then some (.physq (sd w) b) else none
  | 18 => if fld w 0 15 = 0 then some (.time (sd w)) else none
  | _ => if fld w 0 21 = 0 then some .bkpt else none

/-- Scalar arithmetic of two sources: 0x041 to 0x05E but for the unary forms (R172). -/
def decScalar2 (op w : Nat) (b : SSrc) : Option Instr :=
  match op with
  | 0x41 => some (.sadd (sd w) (sa w) b)
  | 0x42 => some (.saddSat false (sd w) (sa w) b)
  | 0x43 => some (.saddSat true (sd w) (sa w) b)
  | 0x44 => some (.ssub (sd w) (sa w) b)
  | 0x45 => some (.ssubSatS64 (sd w) (sa w) b)
  | 0x46 => some (.ssubSatN64 (sd w) (sa w) b)
  | 0x47 => some (.smul (sd w) (sa w) b)
  | 0x48 => some (.smulh false (sd w) (sa w) b)
  | 0x49 => some (.smulh true (sd w) (sa w) b)
  | 0x4A => some (.sdiv false (sd w) (sa w) b)
  | 0x4B => some (.sdiv true (sd w) (sa w) b)
  | 0x4C => some (.srem false (sd w) (sa w) b)
  | 0x4D => some (.srem true (sd w) (sa w) b)
  | 0x4E => some (.sand (sd w) (sa w) b)
  | 0x4F => some (.sor (sd w) (sa w) b)
  | 0x50 => some (.sxor (sd w) (sa w) b)
  | 0x51 => some (.sshl (sd w) (sa w) b)
  | 0x52 => some (.sshr (sd w) (sa w) b)
  | 0x53 => some (.ssra (sd w) (sa w) b)
  | 0x54 => some (.ssel (sd w) (sa w) b)
  | 0x55 => some (.sminS64 (sd w) (sa w) b)
  | 0x56 => some (.sminN64 (sd w) (sa w) b)
  | 0x57 => some (.smaxS64 (sd w) (sa w) b)
  | 0x58 => some (.smaxN64 (sd w) (sa w) b)
  | 0x5B => some (.sbfxS64 (sd w) (sa w) b)
  | 0x5C => some (.sbfxN64 (sd w) (sa w) b)
  | 0x5D => some (.sbfi (sd w) (sa w) b)
  | 0x5E => some (.sadda (sd w) (sa w) b)
  | _ => none

/-- Scalar instructions: 0x040 to 0x076 (R172 to R179). -/
def decScalar (op w : Nat) (l : Lits) : Option Instr :=
  if op = 0x40 then do
    let b ← SSrc.dec l (b9F w)
    if fld w 9 6 = 0 then some (.smov (sd w) b) else none
  else if op = 0x59 then do
    let b ← SSrc.dec l (b9F w)
    if fld w 9 6 = 0 then some (.spopc (sd w) b) else none
  else if op = 0x5A then do
    let b ← SSrc.dec l (b9F w)
    if fld w 9 6 = 0 then some (.sclz (sd w) b) else none
  else if op < 0x60 then do
    let b ← SSrc.dec l (b9F w)
    decScalar2 op w b
  else if op < 0x70 then do
    let b ← SSrc.dec l (b9F w)
    some (.scmp (Cond.ofCode ((op - 0x60) / 2)) (op % 2 == 1) (sd w) (sa w) b)
  else if op < 0x72 then do
    let b ← SSrc.dec l (b9F w)
    some (.sld (Wid.ofCode (op - 0x70)) (sd w) (sa w) b)
  else if op < 0x74 then do
    let b ← SSrc.dec l (b9F w)
    some (.sst (Wid.ofCode (op - 0x72)) (sd w) (sa w) b)
  else if op = 0x74 then do
    let b ← SSrc.dec l (b9F w)
    if fld w 9 6 = 0 then some (.sldg (sd w) b) else none
  else if op = 0x75 then do
    let t ← Target.dec w
    some (.sldl (Wid.ofCode (fld w 14 1)) (sd w) t)
  else do
    let v ← fin? 96 (b9F w - 256)
    if 256 ≤ b9F w then some (.vtos (sd w) (sa w) v) else none

/-- Integer forms of eight types: opcode 7:3 from 0x100 (R182). -/
def vInt (k : Nat) (t : IType) (d : Fin 96) (a b : Src) : Instr :=
  match k with
  | 0 => .vadd t d a b
  | 1 => .vaddSat t d a b
  | 2 => .vsub t d a b
  | 3 => .vsubSat t d a b
  | 4 => .vmul t d a b
  | 5 => .vmulh t d a b
  | 6 => .vmad t d a b
  | 7 => .vmin t d a b
  | _ => .vmax t d a b

/-- Bit forms of two sources: opcode pairs from 0x148 (R183). -/
def vBit (k : Nat) (t : Wid) (d : Fin 96) (a b : Src) : Instr :=
  match k with
  | 0 => .vshl t d a b
  | 1 => .vshr t d a b
  | 2 => .vsra t d a b
  | 4 => .vand t d a b
  | 5 => .vor t d a b
  | _ => .vxor t d a b

/-- Vector integer and logic: 0x100 to 0x1C3 (R182 to R188). -/
def decVector (op w : Nat) (l : Lits) : Option Instr :=
  if op < 0x148 then do
    let t := IType.ofCode (op % 8)
    let d ← fin? 96 (dF w)
    let a ← Src.dec t.opT l (aF w)
    let b ← Src.dec t.opT l (bF w)
    chk (vInt ((op - 0x100) / 8) t d a b)
  else if op < 0x158 then do
    let k := (op - 0x148) / 2
    let t := Wid.ofCode (op % 2)
    let d ← fin? 96 (dF w)
    let a ← Src.dec t.opT l (aF w)
    if k = 3 then (if bF w = 0 then chk (.vmov t d a) else none)
    else if k = 7 then (if bF w = 0 then chk (.vnot t d a) else none)
    else do
      let b ← Src.dec t.opT l (bF w)
      chk (vBit k t d a b)
  else if op < 0x15C then do
    let t := JType.ofCode (op - 0x158)
    let d ← fin? 96 (dF w)
    let a ← Src.dec t.opT l (aF w)
    let b ← Src.dec t.opT l (bF w)
    chk (.vbfx t d a b)
  else if op < 0x170 then do
    let t := Wid.ofCode (op % 2)
    let d ← fin? 96 (dF w)
    let a ← Src.dec t.opT l (aF w)
    let b ← Src.dec t.opT l (bF w)
    if op < 0x15E then chk (.vbfi t d a b)
    else if op < 0x160 then chk (.vaddc t d a b)
    else chk (.vsel (Fin.ofNat 8 ((op - 0x160) / 2)) t d a b)
  else if op < 0x180 then do
    let t := IType.ofCode (op % 8)
    let d ← fin? 96 (dF w)
    let a ← Src.dec t.opT l (aF w)
    if bF w = 0 then (if op < 0x178 then chk (.vabs t d a) else chk (.vneg t d a)) else none
  else if op < 0x1C0 then do
    let t := IType.ofCode (op % 8)
    let p ← fin? 7 (dF w)
    let a ← Src.dec t.opT l (aF w)
    let b ← Src.dec t.opT l (bF w)
    chk (.vcmp (Cond.ofCode ((op - 0x180) / 8)) t p a b)
  else do
    let t := Wid.ofCode (op % 2)
    let d ← fin? 96 (dF w)
    let a ← Src.dec t.opT l (aF w)
    if bF w = 0 then (if op < 0x1C2 then chk (.vpopc t d a) else chk (.vclz t d a)) else none

/-- The unary forms 0x290 to 0x29B with field N zero; FRND takes any N (R193). -/
def fUn (k : Nat) (f : FType) (d : Fin 96) (a : Src) : Instr :=
  match k with
  | 0 => .fabs f d a
  | 1 => .fneg f d a
  | 2 => .fclass f d a
  | 4 => .frcp f d a
  | 5 => .frsq f d a
  | 6 => .fsqrt f d a
  | 7 => .fexp2 f d a
  | 8 => .flog2 f d a
  | 9 => .fsinp f d a
  | 10 => .fcosp f d a
  | _ => .ftanh f d a

/-- FADD, FSUB, FMUL, FFMA: opcode 6:4 from 0x200 (R189). -/
def fBin (k : Nat) (f : FType) (n : Rnd) (d : Fin 96) (a b : Src) : Instr :=
  match k with
  | 0 => .fadd f n d a b
  | 1 => .fsub f n d a b
  | 2 => .fmul f n d a b
  | _ => .ffma f n d a b

/-- FCMP by condition code (R190). -/
def fCmp (c : Nat) (f : FType) (p : Fin 7) (a b : Src) : Instr :=
  if c < 2 then .fcmpEqNe (FCondE.ofCode c) f p a b
  else if c < 4 then .fcmpLtLe (FCondL.ofCode (c - 2)) f p a b
  else .fcmpGtGeUnOrd (FCondG.ofCode (c - 4)) f p a b

/-- Floating point: 0x200 to 0x2B3 (R189 to R199). -/
def decFloat (op w : Nat) (l : Lits) : Option Instr :=
  if op < 0x250 then do
    let f := FType.ofCode (op / 4 % 4)
    let n := Rnd.ofCode (op % 4)
    let d ← fin? 96 (dF w)
    let a ← Src.dec f.opT l (aF w)
    let b ← Src.dec f.opT l (bF w)
    if op < 0x240 then chk (fBin ((op - 0x200) / 16) f n d a b)
    else if op % 4 = 0 then chk (.fdiv f d a b) else none
  else if op < 0x270 then do
    let f := FType.ofCode (op % 4)
    let p ← fin? 7 (dF w)
    let a ← Src.dec f.opT l (aF w)
    let b ← Src.dec f.opT l (bF w)
    chk (fCmp ((op - 0x250) / 4) f p a b)
  else if op < 0x278 then do
    let f := FType.ofCode (op % 4)
    let d ← fin? 96 (dF w)
    let a ← Src.dec f.opT l (aF w)
    let b ← Src.dec f.opT l (bF w)
    if op < 0x274 then chk (.fmin f d a b) else chk (.fmax f d a b)
  else if op < 0x290 then do
    let f := FType.ofCode (op / 4 % 4)
    let d ← fin? 96 (dF w)
    let a ← Src.dec f.opT l (aF w)
    let b ← Src.dec .i32 l (bF w)
    chk (.fscale f (Rnd.ofCode (op % 4)) d a b)
  else if op < 0x29C then do
    let f := FType.ofCode (fld w 2 2)
    let d ← fin? 96 (dF w)
    let a ← Src.dec f.opT l (aF w)
    if fld w 4 3 ≠ 0 then none
    else if op = 0x293 then chk (.frnd f (Rnd.ofCode (fld w 0 2)) d a)
    else if fld w 0 2 = 0 then chk (fUn (op - 0x290) f d a) else none
  else if op < 0x2A0 then none
  else if op < 0x2B0 then do
    let r := FType.ofCode (op / 4 % 4)
    let f := FType.ofCode (op % 4)
    let d ← fin? 96 (dF w)
    let a ← Src.dec f.opT l (aF w)
    if fld w 2 5 = 0 then chk (.cvt r f (Rnd.ofCode (fld w 0 2)) d a) else none
  else if op = 0x2B0 then do
    let f := FType.ofCode (fld w 2 2)
    let d ← fin? 96 (dF w)
    let a ← Src.dec f.opT l (aF w)
    if fld w 4 1 = 0 then chk (.cvtiF2i (JType.ofCode (fld w 5 2)) f (Rnd.ofCode (fld w 0 2)) d a) else none
  else if op = 0x2B1 then do
    let j := JType.ofCode (fld w 5 2)
    let d ← fin? 96 (dF w)
    let a ← Src.dec j.opT l (aF w)
    if fld w 4 1 = 0 then chk (.cvtiI2f j (FType.ofCode (fld w 2 2)) (Rnd.ofCode (fld w 0 2)) d a) else none
  else if op = 0x2B2 then do
    let d ← fin? 96 (dF w)
    let a ← Src.dec .f32 l (aF w)
    if fld w 6 1 = 0 && fld w 4 1 == 0 && fld w 0 2 == 0 then
      chk (.dxenc (fld w 5 1 == 1) (fld w 3 1 == 1) (fld w 2 1 == 1) d a) else none
  else do
    let d ← fin? 96 (dF w)
    let a ← Src.dec .i32 l (aF w)
    if fld w 3 4 = 0 && fld w 0 2 == 0 then chk (.dxdec (fld w 2 1 == 1) d a) else none

/-- Scans and reductions across lanes by opcode (R203). -/
def decFold (op w : Nat) (a : Fin 96) : Option Instr :=
  if fld w 0 3 ≠ 0 then none
  else if op < 0x2C8 then do
    let t ← RType.ofCode? (fld w 4 3)
    let d ← fin? 96 (dF w)
    if op = 0x2C6 then chk (.lscanAdd t (fld w 3 1 == 1) d a) else chk (.lscanMax t (fld w 3 1 == 1) d a)
  else if fld w 3 1 ≠ 0 then none
  else if op < 0x2CB then do
    let t ← RType.ofCode? (fld w 4 3)
    let d ← VSDst.dec (dF w)
    if op = 0x2C8 then chk (.lredAdd t d a)
    else if op = 0x2C9 then chk (.lredMax t d a) else chk (.lredMin t d a)
  else do
    let d ← VSDst.dec (dF w)
    if fld w 5 2 = 3 then chk (.lredOr (Wid.ofCode (fld w 4 1)) d a) else none

/-- The b operand of LBC: codes 96 to 115 or 124 (R202). -/
def LbcSrc.dec (l : Lits) (c : Nat) : Option LbcSrc :=
  if c < 96 then none
  else if c < 112 then some (.s (Fin.ofNat 16 (c - 96)))
  else if c < 116 then some (.int (Fin.ofNat 4 (c - 112)))
  else if c = 124 then some (.lit32 l.l1)
  else none

/-- Lane instructions: 0x2C0 to 0x2CD (R200 to R205). -/
def decLane (op w : Nat) (l : Lits) : Option Instr :=
  if op = 0x2CC then do
    let p ← fin? 8 (aF w)
    if bF w = 0 && 96 ≤ dF w && dF w < 110 then some (.ballot (Fin.ofNat 14 (dF w - 96)) p) else none
  else if op = 0x2CD then do
    let a ← fin? 94 (aF w)
    if dF w = 0 && bF w == 0 then some (.syncm a) else none
  else do
    let a ← fin? 96 (aF w)
    if op < 0x2C3 then do
      let t := Wid.ofCode (fld w 0 1)
      let d ← fin? 96 (dF w)
      if fld w 1 6 = 0 then
        (if op = 0x2C0 then chk (.qswx t d a) else if op = 0x2C1 then chk (.qswy t d a) else chk (.qswd t d a))
      else none
    else if op = 0x2C3 then do
      let d ← fin? 96 (dF w)
      if fld w 3 4 = 0 then chk (.qbc (Wid.ofCode (fld w 0 1)) (Fin.ofNat 4 (fld w 1 2)) d a) else none
    else if op = 0x2C4 then do
      let d ← fin? 96 (dF w)
      let b ← Src.dec .i32 l (bF w)
      chk (.lshfl d a b)
    else if op = 0x2C5 then do
      let d ← VSDst.dec (dF w)
      let b ← LbcSrc.dec l (bF w)
      some (.lbc d a b)
    else decFold op w a

/-- Sweeps: 0x2E0 to 0x2E3 (R206 to R213). -/
def decSweep (op w : Nat) : Option Instr :=
  let n := Rnd.ofCode (fld w 19 2)
  let y : Fin 64 := Fin.ofNat 64 (fld w 7 6)
  if op = 0x2E3 then (if fld w 0 21 = 0 then some .itrst else none)
  else if fld w 13 1 ≠ 0 then none
  else if op = 0x2E0 then do
    let o ← SwpOp.ofCode? (fld w 14 5)
    if fld w 6 1 = 0 then chk (.swp o n y (Fin.ofNat 64 (fld w 0 6))) else none
  else if op = 0x2E1 then do
    let o ← SwprOp.ofCode? (fld w 14 5)
    if fld w 3 4 = 0 then some (.swpr o n (fld w 2 1 == 1) (Fin.ofNat 4 (fld w 0 2)) y) else none
  else if fld w 14 5 = 0 && fld w 0 7 == 0 then some (.swpc n y)
  else none

/-- LDAC and STAC (R222). -/
def decAcRow (op w : Nat) : Option Instr := do
  let v ← fin? 96 (dF w)
  let t ← fin? 10 (fld w 10 4)
  let x ← Acc.dec w
  if fld w 9 1 = 0 && fld w 1 1 == 0 then
    (if op = 0x320 then chk (.ldac v t (Fin.ofNat 4 (fld w 7 2)) (fld w 0 1 == 1) x)
     else chk (.stac v t (Fin.ofNat 4 (fld w 7 2)) (fld w 0 1 == 1) x))
  else none

/-- The data operand of a tile or vault store (R219). -/
def tvSrc (t : TvW) (l : Lits) (c : Nat) : Option Src :=
  match t with
  | .b128 => if c < 96 then some (.v (Fin.ofNat 96 c)) else none
  | _ => Src.dec t.opT l c

/-- Memory forms other than LDAC, STAC: 0x300 to 0x325 (R220 to R226). -/
def decMem (op w : Nat) (l : Lits) : Option Instr :=
  if op = 0x320 || op == 0x321 then decAcRow op w
  else if 0x322 ≤ op then do
    let m ← CAddr.dec l (aF w) (fld w 0 2)
    let x ← Acc.dec w
    if op < 0x324 then do
      let a ← Src.dec (Wid.ofCode (op - 0x322)).opT l (dF w)
      chk (.cstore (Wid.ofCode (op - 0x322)) a m x)
    else do
      let d ← fin? 96 (dF w)
      chk (.xload (Wid.ofCode (op - 0x324)) d m x)
  else do
    let m ← MAddr.dec l (aF w) (fld w 0 2)
    let x ← Acc.dec w
    if op < 0x308 then do
      let d ← fin? 96 (dF w)
      chk (.ld (LType.ofCode (op - 0x300)) d m x)
    else if op < 0x30C then do
      let a ← Src.dec (StW.ofCode (op - 0x308)).opT l (dF w)
      chk (.st (StW.ofCode (op - 0x308)) a m x)
    else if op = 0x30C then do
      let d ← fin? 96 (dF w)
      chk (.ldq d m x)
    else if op = 0x30D then do
      let d ← fin? 96 (dF w)
      chk (.stq d m x)
    else if op = 0x30E then
      (if dF w = 0 && fld w 2 5 == 0 then some (.pref m) else none)
    else if op < 0x314 then do
      let d ← fin? 96 (dF w)
      chk (.ldt (TvW.ofCode (op - 0x310)) d m x)
    else if op < 0x318 then do
      let a ← tvSrc (TvW.ofCode (op - 0x314)) l (dF w)
      chk (.stt (TvW.ofCode (op - 0x314)) a m x)
    else if op < 0x31C then do
      let d ← fin? 96 (dF w)
      chk (.ldv (TvW.ofCode (op - 0x318)) d m x)
    else do
      let a ← tvSrc (TvW.ofCode (op - 0x31C)) l (dF w)
      chk (.stv (TvW.ofCode (op - 0x31C)) a m x)

/-- Returning atomics by opcode: 0x340 to 0x35E (R227, R228). -/
def vAtom (op : Nat) (d : Fin 96) (m : MAddr) (x : Acc) : Instr :=
  if op < 0x346 then .aadd (AType.ofCode (op - 0x340)) d m x
  else if op < 0x348 then .amin32 (AType32.ofCode (op - 0x346)) d m x
  else if op < 0x34C then .amin64Fp (AType64F.ofCode (op - 0x348)) d m x
  else if op < 0x350 then .amaxInt (ATypeInt.ofCode (op - 0x34C)) d m x
  else if op < 0x352 then .amaxFp (ATypeFp.ofCode (op - 0x350)) d m x
  else if op < 0x354 then .aand (Wid.ofCode (op - 0x352)) d m x
  else if op < 0x356 then .aor (Wid.ofCode (op - 0x354)) d m x
  else if op < 0x358 then .axor (Wid.ofCode (op - 0x356)) d m x
  else if op < 0x35A then .axchg (Wid.ofCode (op - 0x358)) d m x
  else if op < 0x35C then .acas (Wid.ofCode (op - 0x35A)) d m x
  else if op = 0x35C then .acasB128 d m x
  else if op = 0x35D then .aincwN32 d m x
  else .aincwN64 d m x

/-- Atomics and reductions: 0x340 to 0x379 (R227 to R231). -/
def decAtomic (op w : Nat) (l : Lits) : Option Instr := do
  let m ← MAddr.dec l (aF w) (fld w 0 2)
  let x ← Acc.dec w
  if op < 0x360 then do
    let d ← fin? 96 (dF w)
    chk (vAtom op d m x)
  else if op < 0x366 then do
    let t := AType.ofCode (op - 0x360)
    let a ← Src.dec t.opT l (dF w)
    chk (.redAdd t a m x)
  else if op = 0x366 then do
    let a ← Src.dec .i32 l (dF w)
    chk (.redAddPbf16 a m x)
  else if op < 0x36E then do
    let t := AType.ofCode (op - 0x368)
    let a ← Src.dec t.opT l (dF w)
    chk (.redMin t a m x)
  else if op < 0x370 then do
    let t := AType32.ofCode (op - 0x36E)
    let a ← Src.dec t.aType.opT l (dF w)
    chk (.redMax32 t a m x)
  else if op < 0x374 then do
    let t := AType64F.ofCode (op - 0x370)
    let a ← Src.dec t.aType.opT l (dF w)
    chk (.redMax64Fp t a m x)
  else do
    let t := Wid.ofCode (op % 2)
    let a ← Src.dec t.opT l (dF w)
    if op < 0x376 then chk (.redAnd t a m x)
    else if op < 0x378 then chk (.redOr t a m x) else chk (.redXor t a m x)

/-- Fences, barriers and waits: 0x380 to 0x385 (R232 to R238). -/
def decSync (op w : Nat) (l : Lits) : Option Instr :=
  if op = 0x380 then do
    let s ← Scope.ofCode? (fld w 4 3)
    let k ← FenceKind.ofCode? (fld w 2 2)
    if fld w 7 14 = 0 && fld w 0 2 == 0 then some (.fence s k) else none
  else if op = 0x381 then (if fld w 0 21 = 0 then some .fenceV else none)
  else if op = 0x382 then (if fld w 4 17 = 16 then some (.bar (Fin.ofNat 16 (fld w 0 4))) else none)
  else if op = 0x383 then (if fld w 0 21 = 0 then some .cbar else none)
  else if op = 0x384 then do
    let n := l.l1.toNat
    let s ← Scope.ofCode? (fld n 14 3)
    let t ← Target.dec n
    if fld n 17 15 = 0 && fld w 20 1 == 0 && b9F w == 0 then
      some (.waitc (Fin.ofNat 32 (fld w 15 5)) (sa w) s t) else none
  else do
    let s ← Scope.ofCode? (fld w 4 3)
    if fld w 7 2 = 2 then some (.waitq (sd w) (sa w) s (Fin.ofNat 16 (fld w 0 4))) else none

/-- The fields that MMA and MMAC share, from the word and the fixed literal (R246). -/
def decMmaF (w n : Nat) : Option MmaF := do
  let x ← fin? 96 (dF w)
  let t ← fin? 10 (fld w 0 4)
  let ta ← MType.ofCode? (fld n 28 3)
  let tb ← MType.ofCode? (fld n 25 3)
  let s ← Scope.ofCode? (fld n 11 3)
  if fld w 4 3 = 0 && fld n 31 1 == 0 && fld n 0 1 == 0 && (fld n 10 1 == 1 || fld n 6 4 == 0) then
    some { x := x, glob := fld w 13 1 == 1, sreg := Fin.ofNat 64 (fld w 7 6), t := t, ta := ta, tb := tb,
           tacc := fld n 24 1 == 1, bla := fld n 23 1 == 1, blb := fld n 22 1 == 1, keep := fld n 21 1 == 1,
           e := Fin.ofNat 128 (fld n 14 7), scope := s,
           swz := if fld n 10 1 = 1 then some ⟨Fin.ofNat 4 (fld n 8 2), Fin.ofNat 4 (fld n 6 2)⟩ else none }
  else none

/-- The fields that MRD and MWR share (R259). -/
def decMrwF (w : Nat) : Option MrwF := do
  let v ← fin? 96 (dF w)
  let t ← fin? 10 (fld w 7 4)
  if fld w 13 1 = 0 && fld w 4 1 == 0 && fld w 0 1 == 0 then
    some { v := v, g := Fin.ofNat 4 (fld w 11 2), t := t, rnd := Rnd.ofCode (fld w 5 2),
           f := FType.ofCode (fld w 2 2), tf64 := fld w 1 1 == 1 }
  else none

/-- Matrix instructions: 0x3A0 to 0x3A4 (R246, R253, R259). -/
def decMatrix (op w : Nat) (l : Lits) : Option Instr :=
  if op = 0x3A0 then do
    let f ← decMmaF w l.l1.toNat
    if fld l.l1.toNat 1 5 = 0 then chk (.mma f) else none
  else if op = 0x3A1 then do
    let f ← decMmaF w l.l1.toNat
    let h ← fin? 3 (fld l.l1.toNat 3 2)
    chk (.mmac f ⟨fld l.l1.toNat 5 1 == 1, h, Fin.ofNat 4 (fld l.l1.toNat 1 2)⟩)
  else if op = 0x3A2 then do
    let t ← fin? 10 (fld w 0 4)
    if fld w 5 16 = 0 then chk (.mzero (fld w 4 1 == 1) t) else none
  else do
    let f ← decMrwF w
    if op = 0x3A3 then chk (.mrd f) else chk (.mwr f)

/-- Prism, Zoom, counters, rings and tasks: 0x3C0 to 0x3E1 (R264 to R286). -/
def decEngine (op w : Nat) : Option Instr :=
  let y : Fin 64 := Fin.ofNat 64 (fld w 7 6)
  let x6 : Fin 64 := Fin.ofNat 64 (fld w 14 6)
  let k5 : Fin 32 := Fin.ofNat 32 (fld w 7 5)
  let q4 : Fin 16 := Fin.ofNat 16 (fld w 0 4)
  if op < 0x3C3 || op == 0x3C5 then do
    let d ← fin? 48 (fld w 15 6)
    let s ← fin? 48 (fld w 8 6)
    let dsp ← Space.ofCode? (fld w 5 2)
    let ssp ← Space.ofCode? (fld w 3 2)
    let c : Fin 8 := Fin.ofNat 8 (fld w 0 3)
    if op = 0x3C5 then some (.padd (PaddTy.ofCode (2 * fld w 14 1 + fld w 7 1)) d s dsp ssp c)
    else if fld w 7 1 = 0 then chk (.pcpy (PcpyW.ofCode (op - 0x3C0)) (fld w 14 1 == 1) d s dsp ssp c) else none
  else if op = 0x3C3 then do
    let n ← fin? 62 (fld w 7 6)
    if fld w 18 3 = 0 && fld w 13 1 == 0 && bF w == 0 then
      some (.pcpyi (fld w 17 1 == 1) (Fin.ofNat 8 (fld w 14 3)) n) else none
  else if op = 0x3C4 then do
    let n ← fin? 62 (fld w 7 6)
    if fld w 17 4 = 0 && fld w 13 1 == 0 && fld w 4 3 == 0 && fld w 15 2 == 3 then
      chk (.pcpys (Fin.ofNat 2 (fld w 14 1)) n ⟨Fin.ofNat 4 (fld w 2 2), Fin.ofNat 4 (fld w 0 2)⟩) else none
  else if op < 0x3CB then
    (if fld w 13 8 = 0 && bF w == 0 then
      (if op = 0x3C8 then some (.zrst y) else if op = 0x3C9 then some (.zprl y) else some (.zcpy y)) else none)
  else if op = 0x3CB then
    (if fld w 19 2 = 0 && fld w 13 1 == 0 && fld w 2 5 == 0 then
      some (.ztbl (Fin.ofNat 32 (fld w 14 5)) y (Fin.ofNat 4 (fld w 0 2))) else none)
  else if op = 0x3D0 then
    (if fld w 20 1 = 0 && fld w 12 2 == 0 && bF w == 0 then some (.tcrd x6 k5) else none)
  else if op = 0x3D1 then do
    let s ← Scope.ofCode? (fld w 4 3)
    if fld w 20 1 = 0 && fld w 12 2 == 0 && fld w 0 4 == 0 then some (.tcinc s k5 x6) else none
  else if op = 0x3D8 then
    (if fld w 13 1 ≠ 0 then none
     else if fld w 20 1 = 0 then (if fld w 4 3 = 0 then some (.qpubClaim x6 q4 y) else none)
     else do
       let s ← Scope.ofCode? (fld w 4 3)
       let a ← fin? 63 (fld w 7 6)
       if fld w 14 6 = 0 then some (.qpubPub s q4 a) else none)
  else if op = 0x3D9 then do
    let s ← Scope.ofCode? (fld w 4 3)
    let a ← fin? 63 (fld w 7 6)
    if fld w 13 8 = 0 then some (.qrel s q4 a) else none
  else if op = 0x3DA then
    (if fld w 14 7 = 0 && fld w 4 3 == 0 then chk (.qerr q4 (BitVec.ofNat 7 (aF w))) else none)
  else if op = 0x3DB then
    (if fld w 20 1 = 0 && fld w 10 4 == 0 && fld w 4 3 == 0 then
      some (.qstat x6 q4 (Fin.ofNat 8 (fld w 7 3))) else none)
  else if op = 0x3DC then do
    let a ← fin? 63 (fld w 7 6)
    if fld w 20 1 = 0 && fld w 13 1 == 0 && fld w 1 6 == 0 then some (.qrestart x6 a (fld w 0 1 == 1)) else none
  else if op = 0x3E0 then do
    let s ← Scope.ofCode? (fld w 4 3)
    if fld w 17 4 = 0 && fld w 13 1 == 0 then some (.temit s q4 y (Fin.ofNat 8 (fld w 14 3))) else none
  else do
    let s ← Scope.ofCode? (fld w 4 3)
    if fld w 17 4 = 0 && fld w 13 1 == 0 && fld w 0 4 == 0 then
      some (.tdone s y (Fin.ofNat 8 (fld w 14 3))) else none

/-- The instruction of an assigned opcode, from its fields (step 4 of R143). -/
def decFields (op w : Nat) (l : Lits) : Option Instr :=
  if op < 0x40 then decControl op w l
  else if op < 0x100 then decScalar op w l
  else if op < 0x200 then decVector op w l
  else if op < 0x2C0 then decFloat op w l
  else if op < 0x2E0 then decLane op w l
  else if op < 0x300 then decSweep op w
  else if op < 0x340 then decMem op w l
  else if op < 0x380 then decAtomic op w l
  else if op < 0x3A0 then decSync op w l
  else if op < 0x3C0 then decMatrix op w l
  else decEngine op w

/-- A decoded word: the instruction and how many words it takes with its literal. -/
structure Decoded where
  instr : Instr
  words : Nat
  deriving DecidableEq, Repr

/-- Decode the word w in the given slot, with the words after it, in the order of R143: packet checks, opcode,
fields. The chain bit does not matter here (R132). -/
def decode (pool : Bool) (slot : Nat) (w : Word32) (l : Lits) : Except Reject Decoded :=
  let n := w.toNat % 2 ^ 31
  let op := opOf n
  let len := litLen pool op n
  if 3 < slot + 1 + len then .error .illegalPacket
  else if !assigned op then .ok ⟨.unassignedOpcode w, 1⟩
  else if 2 ≤ (if fixedLit op then 1 else 0) + (requests op n).length || (pool && (requests op n).length != 0) then
    .error .illegalEncoding
  else match decFields op n l with
    | some i => .ok ⟨i, 1 + len⟩
    | none => .error .illegalEncoding

/-- Chain bit of a word: bit 31 (R132). -/
def chainBit (w : Word32) : Bool := w.msb

/-! ### The encoder, written from the same tables -/

/-- The code of a source operand (R138). -/
def Src.code : Src → Nat
  | .v r => r.val
  | .s r => 96 + r.val
  | .int k => 112 + k.val
  | .flt k => 116 + k.val
  | .special k => 120 + k.val
  | .lit32 _ => 124
  | .lit64 _ => 125

def Src.lits : Src → List Word32
  | .lit32 w => [w]
  | .lit64 w => [w.extractLsb' 0 32, w.extractLsb' 32 32]
  | _ => []

def SSrc.code : SSrc → Nat
  | .s r => r.val
  | .imm i => 256 + i.toNat
  | .lit32 _ => 64
  | .lit64 _ => 65

def SSrc.lits : SSrc → List Word32
  | .lit32 w => [w]
  | .lit64 w => [w.extractLsb' 0 32, w.extractLsb' 32 32]
  | _ => []

/-- Address field and mode field of an M-format word (R137). -/
def MAddr.code : MAddr → Nat
  | .s r => r.val
  | .sv b o => 16 * b.val + o.val
  | .pair k => 2 * k.val
  | .slit r _ => r.val

def MAddr.mode : MAddr → Nat
  | .s _ => 0
  | .sv _ _ => 1
  | .pair _ => 2
  | .slit _ _ => 3

def MAddr.lits : MAddr → List Word32
  | .slit _ w => [w]
  | _ => []

def CAddr.code : CAddr → Nat
  | .s r => r.val
  | .slit r _ => r.val

def CAddr.mode : CAddr → Nat
  | .s _ => 0
  | .slit _ _ => 3

def CAddr.lits : CAddr → List Word32
  | .slit _ w => [w]
  | _ => []

def LbcSrc.code : LbcSrc → Nat
  | .s r => 96 + r.val
  | .int k => 112 + k.val
  | .lit32 _ => 124

def LbcSrc.lits : LbcSrc → List Word32
  | .lit32 w => [w]
  | _ => []

def VSDst.code : VSDst → Nat
  | .v r => r.val
  | .s r => 96 + r.val

def BCond.code : BCond → Nat
  | .v r => r.val
  | .s r => 96 + r.val

def Target.bits (t : Target) : Nat := t.off.toNat * 4 + t.slot.val

def BrdLit.bits (l : BrdLit) : Nat := l.tix.toNat * 2 ^ 15 + (if l.ep then 1 else 0) * 2 ^ 14 + l.recon.bits

def b2n (b : Bool) : Nat := if b then 1 else 0

/-- A V-format word (R134). -/
def vWord (op d a b : Nat) : Word32 := BitVec.ofNat 32 (op * 2 ^ 21 + d * 2 ^ 14 + a * 2 ^ 7 + b)

/-- An S-format word (R134). -/
def sWord (op d a b : Nat) : Word32 := BitVec.ofNat 32 (op * 2 ^ 21 + d * 2 ^ 15 + a * 2 ^ 9 + b)

/-- An M-format word (R134). -/
def mWord (op d a : Nat) (x : Acc) (m : Nat) : Word32 :=
  BitVec.ofNat 32 (op * 2 ^ 21 + d * 2 ^ 14 + a * 2 ^ 7 + x.scope.code * 16 + x.order.code * 4 + m)

/-- A B-format word (R134). -/
def bWord (op c : Nat) (t : Target) : Word32 := BitVec.ofNat 32 (op * 2 ^ 21 + c * 2 ^ 14 + t.bits)

def encV (op : Nat) (d : Nat) (a b : Src) : List Word32 := vWord op d a.code b.code :: (a.lits ++ b.lits)
def encU (op : Nat) (d : Nat) (a : Src) (b : Nat) : List Word32 := vWord op d a.code b :: a.lits
def encS (op : Nat) (d a : Nat) (b : SSrc) : List Word32 := sWord op d a b.code :: b.lits
def encL (op : Nat) (d : Nat) (m : MAddr) (x : Acc) : List Word32 := mWord op d m.code x m.mode :: m.lits
def encSt (op : Nat) (a : Src) (m : MAddr) (x : Acc) : List Word32 :=
  mWord op a.code m.code x m.mode :: (a.lits ++ m.lits)

def Swz.bits (z : Swz) : Nat := 4 * z.cs.val + z.sb.val

/-- The fixed literal of MMA and MMAC but for bits 5:1 (R246). -/
def MmaF.lit (f : MmaF) (mid : Nat) : Word32 :=
  BitVec.ofNat 32 (f.ta.code * 2 ^ 28 + f.tb.code * 2 ^ 25 + b2n f.tacc * 2 ^ 24 + b2n f.bla * 2 ^ 23
    + b2n f.blb * 2 ^ 22 + b2n f.keep * 2 ^ 21 + f.e.val * 2 ^ 14 + f.scope.code * 2 ^ 11
    + (match f.swz with | none => 0 | some z => 2 ^ 10 + z.bits * 2 ^ 6) + mid * 2)

def MmaF.word (op : Nat) (f : MmaF) : Word32 :=
  vWord op f.x.val (64 * b2n f.glob + f.sreg.val) f.t.val

def MmacF.bits (c : MmacF) : Nat := 16 * b2n c.splitK + 4 * c.hm.val + c.wm.val

def MrwF.word (op : Nat) (f : MrwF) : Word32 :=
  vWord op f.v.val (16 * f.g.val + f.t.val) (32 * f.rnd.code + 4 * f.f.code + 2 * b2n f.tf64)

/-- The words of an instruction, its chain bit clear; an event has none. -/
def encode : Instr → List Word32
  | .nop => [0]
  | .br t => [bWord 1 0 t]
  | .bz c t => [bWord 2 c.code t]
  | .bnz c t => [bWord 3 c.code t]
  | .bp p t => [bWord 4 p.val t]
  | .brd p t l => [bWord 5 p.val t, BitVec.ofNat 32 l.bits]
  | .jmpi a => [sWord 6 0 a.val 0]
  | .call r t => [bWord 7 (96 + r.val) t]
  | .calli d a => [sWord 8 d.val a.val 0]
  | .ret a => [sWord 9 0 a.val 0]
  | .exit => [sWord 10 0 0 0]
  | .trap c => [sWord 11 0 0 (256 + c.toNat)]
  | .tret => [sWord 12 0 0 0]
  | .hdone => [sWord 13 0 0 0]
  | .srd d r => [sWord 14 d.val r.code 0]
  | .swr r b => encS 15 0 r.code b
  | .featq d b => encS 16 d.val 0 b
  | .physq d b => encS 17 d.val 0 b
  | .time d => [sWord 18 d.val 0 0]
  | .bkpt => [sWord 19 0 0 0]
  | .smov d b => encS 0x40 d.val 0 b
  | .sadd d a b => encS 0x41 d.val a.val b
  | .saddSat u d a b => encS (0x42 + b2n u) d.val a.val b
  | .ssub d a b => encS 0x44 d.val a.val b
  | .ssubSatS64 d a b => encS 0x45 d.val a.val b
  | .ssubSatN64 d a b => encS 0x46 d.val a.val b
  | .smul d a b => encS 0x47 d.val a.val b
  | .smulh u d a b => encS (0x48 + b2n u) d.val a.val b
  | .sdiv u d a b => encS (0x4A + b2n u) d.val a.val b
  | .srem u d a b => encS (0x4C + b2n u) d.val a.val b
  | .sand d a b => encS 0x4E d.val a.val b
  | .sor d a b => encS 0x4F d.val a.val b
  | .sxor d a b => encS 0x50 d.val a.val b
  | .sshl d a b => encS 0x51 d.val a.val b
  | .sshr d a b => encS 0x52 d.val a.val b
  | .ssra d a b => encS 0x53 d.val a.val b
  | .ssel d a b => encS 0x54 d.val a.val b
  | .sminS64 d a b => encS 0x55 d.val a.val b
  | .sminN64 d a b => encS 0x56 d.val a.val b
  | .smaxS64 d a b => encS 0x57 d.val a.val b
  | .smaxN64 d a b => encS 0x58 d.val a.val b
  | .spopc d b => encS 0x59 d.val 0 b
  | .sclz d b => encS 0x5A d.val 0 b
  | .sbfxS64 d a b => encS 0x5B d.val a.val b
  | .sbfxN64 d a b => encS 0x5C d.val a.val b
  | .sbfi d a b => encS 0x5D d.val a.val b
  | .sadda d a b => encS 0x5E d.val a.val b
  | .scmp c u d a b => encS (0x60 + 2 * c.code + b2n u) d.val a.val b
  | .sld w d a b => encS (0x70 + w.code) d.val a.val b
  | .sst w d a b => encS (0x72 + w.code) d.val a.val b
  | .sldg d b => encS 0x74 d.val 0 b
  | .sldl w d t => [BitVec.ofNat 32 (0x75 * 2 ^ 21 + d.val * 2 ^ 15 + w.code * 2 ^ 14 + t.bits)]
  | .vtos d a v => [sWord 0x76 d.val a.val (256 + v.val)]
  | .vadd t d a b => encV (0x100 + t.code) d.val a b
  | .vaddSat t d a b => encV (0x108 + t.code) d.val a b
  | .vsub t d a b => encV (0x110 + t.code) d.val a b
  | .vsubSat t d a b => encV (0x118 + t.code) d.val a b
  | .vmul t d a b => encV (0x120 + t.code) d.val a b
  | .vmulh t d a b => encV (0x128 + t.code) d.val a b
  | .vmad t d a b => encV (0x130 + t.code) d.val a b
  | .vmin t d a b => encV (0x138 + t.code) d.val a b
  | .vmax t d a b => encV (0x140 + t.code) d.val a b
  | .vshl w d a b => encV (0x148 + w.code) d.val a b
  | .vshr w d a b => encV (0x14A + w.code) d.val a b
  | .vsra w d a b => encV (0x14C + w.code) d.val a b
  | .vmov w d a => encU (0x14E + w.code) d.val a 0
  | .vand w d a b => encV (0x150 + w.code) d.val a b
  | .vor w d a b => encV (0x152 + w.code) d.val a b
  | .vxor w d a b => encV (0x154 + w.code) d.val a b
  | .vnot w d a => encU (0x156 + w.code) d.val a 0
  | .vbfx t d a b => encV (0x158 + t.code) d.val a b
  | .vbfi w d a b => encV (0x15C + w.code) d.val a b
  | .vaddc w d a b => encV (0x15E + w.code) d.val a b
  | .vsel p w d a b => encV (0x160 + 2 * p.val + w.code) d.val a b
  | .vabs t d a => encU (0x170 + t.code) d.val a 0
  | .vneg t d a => encU (0x178 + t.code) d.val a 0
  | .vcmp c t p a b => encV (0x180 + 8 * c.code + t.code) p.val a b
  | .vpopc w d a => encU (0x1C0 + w.code) d.val a 0
  | .vclz w d a => encU (0x1C2 + w.code) d.val a 0
  | .fadd f n d a b => encV (0x200 + 4 * f.code + n.code) d.val a b
  | .fsub f n d a b => encV (0x210 + 4 * f.code + n.code) d.val a b
  | .fmul f n d a b => encV (0x220 + 4 * f.code + n.code) d.val a b
  | .ffma f n d a b => encV (0x230 + 4 * f.code + n.code) d.val a b
  | .fdiv f d a b => encV (0x240 + 4 * f.code) d.val a b
  | .fcmpEqNe c f p a b => encV (0x250 + 4 * c.code + f.code) p.val a b
  | .fcmpLtLe c f p a b => encV (0x258 + 4 * c.code + f.code) p.val a b
  | .fcmpGtGeUnOrd c f p a b => encV (0x260 + 4 * c.code + f.code) p.val a b
  | .fmin f d a b => encV (0x270 + f.code) d.val a b
  | .fmax f d a b => encV (0x274 + f.code) d.val a b
  | .fscale f n d a b => encV (0x280 + 4 * f.code + n.code) d.val a b
  | .fabs f d a => encU 0x290 d.val a (4 * f.code)
  | .fneg f d a => encU 0x291 d.val a (4 * f.code)
  | .fclass f d a => encU 0x292 d.val a (4 * f.code)
  | .frnd f n d a => encU 0x293 d.val a (4 * f.code + n.code)
  | .frcp f d a => encU 0x294 d.val a (4 * f.code)
  | .frsq f d a => encU 0x295 d.val a (4 * f.code)
  | .fsqrt f d a => encU 0x296 d.val a (4 * f.code)
  | .fexp2 f d a => encU 0x297 d.val a (4 * f.code)
  | .flog2 f d a => encU 0x298 d.val a (4 * f.code)
  | .fsinp f d a => encU 0x299 d.val a (4 * f.code)
  | .fcosp f d a => encU 0x29A d.val a (4 * f.code)
  | .ftanh f d a => encU 0x29B d.val a (4 * f.code)
  | .cvt r f n d a => encU (0x2A0 + 4 * r.code + f.code) d.val a n.code
  | .cvtiF2i j f n d a => encU 0x2B0 d.val a (32 * j.code + 4 * f.code + n.code)
  | .cvtiI2f j f n d a => encU 0x2B1 d.val a (32 * j.code + 4 * f.code + n.code)
  | .dxenc scl b16 dx4 d a => encU 0x2B2 d.val a (32 * b2n scl + 8 * b2n b16 + 4 * b2n dx4)
  | .dxdec dx4 d a => encU 0x2B3 d.val a (4 * b2n dx4)
  | .qswx w d a => [vWord 0x2C0 d.val a.val w.code]
  | .qswy w d a => [vWord 0x2C1 d.val a.val w.code]
  | .qswd w d a => [vWord 0x2C2 d.val a.val w.code]
  | .qbc w k d a => [vWord 0x2C3 d.val a.val (2 * k.val + w.code)]
  | .lshfl d a b => vWord 0x2C4 d.val a.val b.code :: b.lits
  | .lbc d a b => vWord 0x2C5 d.code a.val b.code :: b.lits
  | .lscanAdd t e d a => [vWord 0x2C6 d.val a.val (16 * t.code + 8 * b2n e)]
  | .lscanMax t e d a => [vWord 0x2C7 d.val a.val (16 * t.code + 8 * b2n e)]
  | .lredAdd t d a => [vWord 0x2C8 d.code a.val (16 * t.code)]
  | .lredMax t d a => [vWord 0x2C9 d.code a.val (16 * t.code)]
  | .lredMin t d a => [vWord 0x2CA d.code a.val (16 * t.code)]
  | .lredOr w d a => [vWord 0x2CB d.code a.val (96 + 16 * w.code)]
  | .ballot d p => [vWord 0x2CC (96 + d.val) p.val 0]
  | .syncm a => [vWord 0x2CD 0 a.val 0]
  | .swp op n y z => [vWord 0x2E0 (32 * n.code + op.code) y.val z.val]
  | .swpr op n acc ax y => [vWord 0x2E1 (32 * n.code + op.code) y.val (4 * b2n acc + ax.val)]
  | .swpc n y => [vWord 0x2E2 (32 * n.code) y.val 0]
  | .itrst => [vWord 0x2E3 0 0 0]
  | .ld t d m x => encL (0x300 + t.code) d.val m x
  | .st w a m x => encSt (0x308 + w.code) a m x
  | .ldq d m x => encL 0x30C d.val m x
  | .stq d m x => encL 0x30D d.val m x
  | .pref m => encL 0x30E 0 m ⟨.core, .rlx⟩
  | .ldt w d m x => encL (0x310 + w.code) d.val m x
  | .stt w a m x => encSt (0x314 + w.code) a m x
  | .ldv w d m x => encL (0x318 + w.code) d.val m x
  | .stv w a m x => encSt (0x31C + w.code) a m x
  | .ldac v t g f x => [mWord 0x320 v.val (8 * t.val + g.val) x (b2n f)]
  | .stac v t g f x => [mWord 0x321 v.val (8 * t.val + g.val) x (b2n f)]
  | .cstore w a m x => mWord (0x322 + w.code) a.code m.code x m.mode :: (a.lits ++ m.lits)
  | .xload w d m x => mWord (0x324 + w.code) d.val m.code x m.mode :: m.lits
  | .aadd t d m x => encL (0x340 + t.code) d.val m x
  | .amin32 t d m x => encL (0x346 + t.code) d.val m x
  | .amin64Fp t d m x => encL (0x348 + t.code) d.val m x
  | .amaxInt t d m x => encL (0x34C + t.code) d.val m x
  | .amaxFp t d m x => encL (0x350 + t.code) d.val m x
  | .aand w d m x => encL (0x352 + w.code) d.val m x
  | .aor w d m x => encL (0x354 + w.code) d.val m x
  | .axor w d m x => encL (0x356 + w.code) d.val m x
  | .axchg w d m x => encL (0x358 + w.code) d.val m x
  | .acas w d m x => encL (0x35A + w.code) d.val m x
  | .acasB128 d m x => encL 0x35C d.val m x
  | .aincwN32 d m x => encL 0x35D d.val m x
  | .aincwN64 d m x => encL 0x35E d.val m x
  | .redAdd t a m x => encSt (0x360 + t.code) a m x
  | .redAddPbf16 a m x => encSt 0x366 a m x
  | .redMin t a m x => encSt (0x368 + t.code) a m x
  | .redMax32 t a m x => encSt (0x36E + t.code) a m x
  | .redMax64Fp t a m x => encSt (0x370 + t.code) a m x
  | .redAnd w a m x => encSt (0x374 + w.code) a m x
  | .redOr w a m x => encSt (0x376 + w.code) a m x
  | .redXor w a m x => encSt (0x378 + w.code) a m x
  | .fence s k => [vWord 0x380 0 0 (16 * s.code + 4 * k.code)]
  | .fenceV => [vWord 0x381 0 0 0]
  | .bar n => [sWord 0x382 0 0 (256 + n.val)]
  | .cbar => [sWord 0x383 0 0 0]
  | .waitc k a s t => [sWord 0x384 k.val a.val 0, BitVec.ofNat 32 (s.code * 2 ^ 14 + t.bits)]
  | .waitq d a s k => [sWord 0x385 d.val a.val (256 + 16 * s.code + k.val)]
  | .mma f => [f.word 0x3A0, f.lit 0]
  | .mmac f c => [f.word 0x3A1, f.lit c.bits]
  | .mzero f t => [vWord 0x3A2 0 0 (16 * b2n f + t.val)]
  | .mrd f => [f.word 0x3A3]
  | .mwr f => [f.word 0x3A4]
  | .pcpy w r d s dsp ssp c =>
    [vWord (0x3C0 + w.code) (2 * d.val + b2n r) (2 * s.val) (32 * dsp.code + 8 * ssp.code + c.val)]
  | .pcpyi dir c n => [vWord 0x3C3 (8 * b2n dir + c.val) n.val 0]
  | .pcpys c n z => [vWord 0x3C4 (6 + c.val) n.val z.bits]
  | .padd ty d s dsp ssp c =>
    [vWord 0x3C5 (2 * d.val + ty.code / 2) (2 * s.val + ty.code % 2) (32 * dsp.code + 8 * ssp.code + c.val)]
  | .zrst n => [vWord 0x3C8 0 n.val 0]
  | .zprl n => [vWord 0x3C9 0 n.val 0]
  | .zcpy n => [vWord 0x3CA 0 n.val 0]
  | .ztbl k n s => [vWord 0x3CB k.val n.val s.val]
  | .tcrd d k => [vWord 0x3D0 d.val k.val 0]
  | .tcinc s k a => [vWord 0x3D1 a.val k.val (16 * s.code)]
  | .qpubClaim d k a => [vWord 0x3D8 d.val a.val k.val]
  | .qpubPub s k a => [vWord 0x3D8 64 a.val (16 * s.code + k.val)]
  | .qrel s k a => [vWord 0x3D9 0 a.val (16 * s.code + k.val)]
  | .qerr k c => [vWord 0x3DA 0 c.toNat k.val]
  | .qstat d k w => [vWord 0x3DB d.val w.val k.val]
  | .qrestart d a h => [vWord 0x3DC d.val a.val (b2n h)]
  | .temit s k a p => [vWord 0x3E0 p.val a.val (16 * s.code + k.val)]
  | .tdone s a p => [vWord 0x3E1 p.val a.val (16 * s.code)]
  | _ => []

/-- The i-th word of a packet of three words held as one number, least significant word first. -/
def tableWord (w i : Nat) : Word32 := BitVec.ofNat 32 (w / 2 ^ (32 * i))

/-- The instruction that the decoder reads from a word of the opcode table, in slot 0 of a packet whose remaining
bits are zero. -/
def decodeTableWord (nbits w : Nat) : Option Instr :=
  let n := w % 2 ^ nbits
  match decode false 0 (tableWord n 0) ⟨tableWord n 1, tableWord n 2⟩ with
  | .ok d => some d.instr
  | .error _ => none

end Sys2Proof
end

