-- ==== Sys2Proof/Machine/Sweep.lean ====
section
/-! DEFINITION. Sweeps over tensors in memory (R206 to R213). -/

namespace Sys2Proof.Machine

/-! ### Iterator records (R206, R207) -/

/-- Element types of a record: a floating-point format, or an integer type's signedness and width. -/
inductive ElTy
  | fp (f : Fmt)
  | int (signed : Bool) (w : Nat)
  deriving DecidableEq, Repr

def ElTy.width : ElTy → Nat
  | .fp f => f.width
  | .int _ w => w

def ElTy.ofCode : Nat → Option ElTy
  | 0 => some (.fp .f16)
  | 1 => some (.fp .bf16)
  | 2 => some (.fp .f32)
  | 3 => some (.fp .f64)
  | 4 => some (.int true 32)
  | 5 => some (.int false 32)
  | 6 => some (.int true 64)
  | 7 => some (.int false 64)
  | _ => none

/-- A tensor iterator record (R206). -/
structure Iter where
  base : Word64
  sp : Space
  ty : ElTy
  rank : Nat
  scope : Scope
  ext : List Nat
  str : List Word64
  deriving DecidableEq, Repr

/-- Space of a record (R206). -/
def recSpace : Nat → Option Space
  | 0 => some .tile
  | 1 => some .glob
  | 2 => some .vault
  | _ => none

/-- Parse a record's 64 bytes; none where a field is invalid (R207). -/
def Iter.parse (x : Nat) : Option Iter :=
  let ext := (List.range 4).map fun k => x / 2 ^ (128 + 16 * k) % 2 ^ 16
  let rank := x / 2 ^ 80 % 256
  match ElTy.ofCode (x / 2 ^ 72 % 256), recSpace (x / 2 ^ 64 % 256), Scope.ofCode? (x / 2 ^ 88 % 8) with
  | some ty, some sp, some sc =>
    if x / 2 ^ 320 = 0 && x / 2 ^ 91 % 2 ^ 37 == 0 && 1 ≤ rank && rank ≤ 4
        && (ext.all fun e => e != 0) && ((ext.drop rank).all fun e => e == 1) && ext.foldl (· * ·) 1 < 2 ^ 32 then
      some { base := BitVec.ofNat 64 x, sp := sp
             ty := ty, rank := rank, scope := sc, ext := ext
             str := (List.range 4).map fun k => (BitVec.ofNat 32 (x / 2 ^ (192 + 32 * k))).signExtend 64 }
    else none
  | _, _, _ => none

/-- Number of elements. -/
def Iter.count (t : Iter) : Nat := t.ext.foldl (· * ·) 1

/-- Coordinates of a linear index, dimension 0 fastest. -/
def coords : List Nat → Nat → List Nat
  | [], _ => []
  | e :: t, i => i % e :: coords t (i / e)

/-- Address of an element (R206). -/
def Iter.addr (t : Iter) (cs : List Nat) : Word64 :=
  (cs.zip t.str).foldl (fun a p => a + BitVec.ofNat 64 p.1 * p.2) t.base

/-- Bytes of record k of the set at a tile address, as a number: none outside the block's own tile memory. -/
def State.recordAt (s : State) (a : Word64) (k : Nat) : Option Nat :=
  (s.ownTile (a + BitVec.ofNat 64 (64 * k)) 64).map ofBytes

/-- Record k of the set at a tile address; none of it where a field is invalid. -/
def State.iterAt (s : State) (a : Word64) (k : Nat) : Option (Option Iter) := (s.recordAt a k).map Iter.parse

/-! ### Elements -/

/-- What stops an element. -/
inductive ElStop
  | addr (va : Word64) (r : LRes)
  | bad (line : Nat)
  deriving DecidableEq, Repr

/-- Read an element. -/
def State.readEl (s : State) (t : Iter) (cs : List Nat) : State × Except ElStop Nat :=
  let va := t.addr cs
  let n := t.ty.width / 8
  match s.locate t.sp va n .load with
  | (s, .ok l) =>
    (match s.badLine [(0, va, .ok l)] with
    | some line => (s, .error (.bad line))
    | none =>
      let (s, bs) := s.readLoc l n false
      (s, .ok (ofBytes bs)))
  | (s, r) => (s, .error (.addr va r))

/-- Read the elements at a list of coordinates, in order. -/
def State.readEls (s : State) (t : Iter) : List (List Nat) → State × Except ElStop (List Nat)
  | [] => (s, .ok [])
  | c :: cs =>
    match s.readEl t c with
    | (s, .error e) => (s, .error e)
    | (s, .ok x) =>
      match s.readEls t cs with
      | (s, .error e) => (s, .error e)
      | (s, .ok xs) => (s, .ok (x :: xs))

/-- Write an element. -/
def State.writeEl (s : State) (t : Iter) (cs : List Nat) (x : Nat) : State × Except ElStop Unit :=
  let va := t.addr cs
  let n := t.ty.width / 8
  match s.locate t.sp va n .store with
  | (s, .ok l) => (s.writeLoc l t.scope (toBytes n x), .ok ())
  | (s, r) => (s, .error (.addr va r))

/-- Process one element: read the sources, compute, write (R208). srcs are the records read, with coordinates. -/
def State.element (s : State) (srcs : List (Iter × List (List Nat))) (d : Iter) (cs : List Nat)
    (f : List (List Nat) → Nat × Flags) : State × Except ElStop Flags :=
  let rec go : List (Iter × List (List Nat)) → State → State × Except ElStop (List (List Nat))
    | [], s => (s, .ok [])
    | (t, c) :: rest, s =>
      match s.readEls t c with
      | (s, .error e) => (s, .error e)
      | (s, .ok x) =>
        match go rest s with
        | (s, .error e) => (s, .error e)
        | (s, .ok xs) => (s, .ok (x :: xs))
  match go srcs s with
  | (s, .error e) => (s, .error e)
  | (s, .ok xs) =>
    let r := f xs
    match s.writeEl d cs r.1 with
    | (s, .error e) => (s, .error e)
    | (s, .ok _) => (s, .ok r.2)

/-- Set the sweep index state (R209). -/
def State.setIx (s : State) (v : Bool) (pc : PC) (i : Nat) : State := s.setG { s.g with sweep := ⟨v, pc, i⟩ }

/-- Elements i to i + n - 1, each followed by IDX := i + 1 (R209). -/
def sweepGo (pc : PC) (el : Nat → State → State × Except ElStop Flags) :
    Nat → Nat → State → State × Option ElStop
  | 0, _, s => (s, none)
  | n + 1, i, s =>
    match el i s with
    | (s, .error e) => (s, some e)
    | (s, .ok fl) => sweepGo pc el n (i + 1) ((s.orFlags fl).setIx true pc (i + 1))

/-- The group has writes of its own that are not yet performed or, for global stores, accepted (R208). -/
def State.writing (s : State) : Bool :=
  (s.vq.any fun w => w.gid == s.cur.gid && !w.performed) || s.wtq.any fun w => w.gid == s.cur.gid

/-- A sweep of count elements (R208, R209): from the saved index up to the boundary at which it is to stop, if there is
one, where it keeps what it has read; then it holds its pipe until its writes are done. -/
def State.sweepRun (s : State) (k : SweepKeep) (count : Nat) (el : Nat → State → State × Except ElStop Flags) : Eff :=
  let pc := s.wordPc
  let x := s.g.sweep
  let start := if x.valid && x.pc == pc then x.idx else 0
  let left := count - start
  let n := Nat.min left (s.cuts.headD left)
  match sweepGo pc el n start (({ s with cuts := s.cuts.drop 1 } : State).setIx true pc start) with
  | (s, none) =>
    if n < left then .wait (.sweep k) s.flag
    else if s.writing then .wait .stores s.flag
    else .ok (s.setIx false pc s.g.sweep.idx)
  | (s, some (.bad line)) => .done (s.uncorrectable line)
  | (s, some (.addr va r)) => scalarStop va s.flag r

/-- What a sweep reads before its elements: records D and those of a list, the scalar, the mode; none where the set does
not lie in the block's own tile memory (R207). A sweep that goes on from an element boundary has read them. -/
def State.sweepSet (s : State) (y z : Fin 64) (ks : List Nat) : Option SweepKeep := match s.e.wait with
  | .sweep k => some k
  | _ =>
    let a := s.readS y.val
    if aligned a 64 then ((0 :: ks).mapM (s.recordAt a)).map fun rs => ⟨rs, s.readS z.val, s.ftz⟩ else none

/-- A sweep checks the records that it uses (R207); one that only waits for its writes retires (R208). The spec gives no
order of the two traps: a record outside the tile allocation decides before an invalid field of another (log entry
66). -/
def State.records (s : State) (y z : Fin 64) (ks : List Nat) (f : SweepKeep → Iter → List Iter → Option Eff) : Eff :=
  if s.e.wait = .stores then .ok (s.setIx false s.wordPc s.g.sweep.idx)
  else
    match s.sweepSet y z ks with
    | none => .trap (tProt 0 none (some (s.readS y.val))) s
    | some k =>
      match k.recs.mapM Iter.parse with
      | some (d :: ts) =>
        (match f k d ts with
        | none => .trap tEncoding s
        | some e => if d.sp = .tile && s.g.inSave then .trap (tSaveWrite none (some d.base)) s else e)
      | _ => .trap tEncoding s

/-! ### SWP (R210) -/

/-- Source records of an operation: A is 1, B is 2. -/
def SwpOp.srcs : SwpOp → List Nat
  | .fill => []
  | .copy | .abs | .neg | .scale => [1]
  | .add | .sub | .mul | .fma | .min | .max | .axpy => [1, 2]

/-- The value of D(i) from A, B, D and the scalar. -/
def swpVal (op : SwpOp) (ty : ElTy) (n : Rnd) (ftz : Bool) (a b d x : Nat) : Nat × Flags :=
  match ty with
  | .fp f =>
    (match op with
    | .copy => (a, 0)
    | .add => f.add n ftz a b
    | .sub => f.sub n ftz a b
    | .mul => f.mul n ftz a b
    | .fma => f.fma n ftz a b d
    | .min => f.minmax false a b
    | .max => f.minmax true a b
    | .abs => f.signOp false a
    | .neg => f.signOp true a
    | .scale => f.mul n ftz a x
    | .axpy => f.fma n ftz x a b
    | .fill => (x, 0))
  | .int sg w =>
    ((match op with
      | .copy => a
      | .add => a + b
      | .sub => a + 2 ^ w - b
      | .mul => a * b
      | .fma => a * b + d
      | .min => iminmax false sg w a b
      | .max => iminmax true sg w a b
      | .abs => (ival sg w a).natAbs
      | .neg => 2 ^ w - a
      | .scale => a * x
      | .axpy => x * a + b
      | .fill => x) % 2 ^ w, 0)

def execSwp (op : SwpOp) (n : Rnd) (y : Fin 64) (z : Fin 64) (s : State) : Host.Outcome State Fault Refusal :=
  commit (s.groupOnly fun s =>
    s.records y z (SwpOp.srcs op) fun k d ts =>
      if ts.all fun t => t.ty == d.ty && t.rank == d.rank && t.ext == d.ext then
        let x := k.x.toNat % 2 ^ d.ty.width
        some (s.sweepRun k d.count fun i s =>
          let cs := coords d.ext i
          let srcs := (ts.map fun t => (t, [cs])) ++ (if op = .fma then [(d, [cs])] else [])
          s.element srcs d cs fun v =>
            let at' := fun (j : Nat) => (v.getD j []).headD 0
            swpVal op d.ty n k.ftz (at' 0) (at' 1) (at' 2) x)
      else none)

/-! ### SWPR (R211) -/

/-- The operator, with FADD rounded by N. -/
def swprStep (op : SwprOp) (ty : ElTy) (n : Rnd) (ftz : Bool) (a b : Nat) : Nat × Flags :=
  match ty, op with
  | .fp f, .add => f.add n ftz a b
  | .fp f, .max => f.minmax true a b
  | .fp f, .min => f.minmax false a b
  | .int _ w, .add => ((a + b) % 2 ^ w, 0)
  | .int sg w, .max => (iminmax true sg w a b, 0)
  | .int sg w, .min => (iminmax false sg w a b, 0)

/-- A left fold, with its flags. -/
def leftFold (st : Nat → Nat → Nat × Flags) : List Nat → Nat × Flags
  | [] => (0, 0)
  | a :: t => t.foldl (fun p x => let q := st p.1 x; (q.1, p.2 ||| q.2)) (a, 0)

/-- One piece of the quad part: four elements in pairs, fewer by a left fold. -/
def quadPart (st : Nat → Nat → Nat × Flags) : List Nat → Nat × Flags
  | [a, b, c, d] =>
    let x := st a b
    let y := st c d
    let z := st x.1 y.1
    (z.1, x.2 ||| y.2 ||| z.2)
  | l => leftFold st l

/-- One output: the quad partials folded in order, after D(j) where it accumulates. -/
def swprVal (st : Nat → Nat → Nat × Flags) (acc : Option Nat) (xs : List Nat) : Nat × Flags :=
  let qs := (pieces 4 ((xs.length + 3) / 4) xs).map (quadPart st)
  let r := leftFold st (acc.toList ++ qs.map Prod.fst)
  (r.1, qs.foldl (fun fl q => fl ||| q.2) r.2)

def execSwpr (op : SwprOp) (n : Rnd) (acc : Bool) (axis : Fin 4) (y : Fin 64) (s : State) :
    Host.Outcome State Fault Refusal :=
  commit (s.groupOnly fun s =>
    s.records y y [1] fun k d ts =>
      match ts with
      | [a] =>
        if axis.val < a.rank && d.ty == a.ty && d.rank == a.rank && d.ext == a.ext.set axis.val 1 then
          let len := a.ext.getD axis.val 1
          some (s.sweepRun k d.count fun i s =>
            let cs := coords d.ext i
            let line := (a, (List.range len).map fun j => cs.set axis.val j)
            s.element (if acc then [line, (d, [cs])] else [line]) d cs fun v =>
              swprVal (swprStep op d.ty n k.ftz) (if acc then some ((v.getD 1 []).headD 0) else none) (v.headD []))
        else none
      | _ => none)

/-! ### SWPC (R212) -/

/-- Conversion of one element. -/
def swpcVal (dt st : ElTy) (n : Rnd) (ftz : Bool) (a : Nat) : Nat × Flags :=
  match dt, st with
  | .fp f, .fp g => f.cvt g n ftz a
  | .int sg w, .fp g => g.toInt sg w n ftz a
  | .fp f, .int sg w => f.ofInt n (ival sg w a)
  | .int _ w, .int sg w' => (wrap w (ival sg w' a), 0)

/-- SWPC, of the experimental class (R147, R169). -/
def execSwpc (n : Rnd) (y : Fin 64) (s : State) : Host.Outcome State Fault Refusal :=
  commit (s.groupOnly fun s =>
    if !s.feature 24 then .trap tInstruction s
    else s.records y y [1] fun k d ts =>
      match ts with
      | [a] =>
        if d.rank == a.rank && d.ext == a.ext then
          some (s.sweepRun k d.count fun i s =>
            let cs := coords d.ext i
            s.element [(a, [cs])] d cs fun v => swpcVal d.ty a.ty n k.ftz ((v.headD []).headD 0))
        else none
      | _ => none)

/-- ITRST (R213). -/
def execItrst (s : State) : Host.Outcome State Fault Refusal :=
  commit (s.groupOnly fun s => .ok (s.setG { s.g with sweep := { s.g.sweep with valid := false } }))

end Sys2Proof.Machine
end

