-- ==== Sys2Proof/Machine/System.lean ====
section
/-! DEFINITION. System registers, feature and stepping queries, and package time (R50 to R52, R115, R116, R126,
R164 to R171, R225, R340, R341). -/

namespace Sys2Proof.Machine

/-- sr.ejst as read (R7, R52), ACT being write-only: the records that are live, and the lanes on the Loupe of record
REC. -/
def Group.ejst (g : Group) : Word64 :=
  let r := g.recs.get Rec.free g.sr.recNo.toNat
  let live := (List.range 4).foldl (fun a n => a + ofBool (g.recs.get Rec.free n).valid * 2 ^ (52 + n)) 0
  BitVec.ofNat 64 (g.sr.recNo.toNat * 2 ^ 56 + live + g.sr.tout.toNat * 2 ^ 48
    + Mask.count r.onl % 16 * 2 ^ 40 + ((Mask.low r.onl).getD 0x7F) * 2 ^ 32)

/-- sr.place of a group (R167). -/
def placeWord (gid : Nat) (sr : SysRegs) : Word64 :=
  let c := coreOf gid
  BitVec.ofNat 64 (sr.vcore.toNat * 2 ^ 32 + dieOf c * 2 ^ 28 + c % 64 * 2 ^ 22 + cluOf c % 8 * 2 ^ 19
    + cicOf c * 2 ^ 16 + slotOf gid * 2 ^ 8)

/-- The group whose registers SRD reads: before the chain (R133), and the group's own for a Loupe thread (R164). -/
def State.srGroup (s : State) : Group := if s.g.isLoupe then s.hg else s.rg

/-- Value of a system register (R164, R165, R340); none for a number that the party does not have. -/
def State.readSr (s : State) (r : SysReg) : Option Word64 :=
  let g := s.srGroup
  let agent := fun (x : Word64) => if s.g.isAgent then some x else none
  match r with
  | .ctxsave => some g.sr.ctxsave
  | .gotb => some (g.sr.gotb &&& ~~~ 7)
  | .trapvec => some g.sr.trapvec
  | .ejt => some (g.sr.ejt.zeroExtend 64)
  | .ejto => some (g.sr.ejto.zeroExtend 64)
  | .ejst => some g.ejst
  | .fault => some (g.sr.fault &&& 0xFFFFFE03000000FF)
  | .faddr => some g.sr.faddr
  | .fidx => some (BitVec.ofNat 64 g.sr.fidx)
  | .mstat => some (BitVec.ofNat 64 g.sr.mstat)
  | .fpstat => some ((if s.g.isLoupe then g.sr.fpstat ||| s.rg.sr.fpstat else g.sr.fpstat).zeroExtend 64)
  | .mode => some (BitVec.ofNat 64 (ofBool g.sr.ftz))
  | .place => some (placeWord s.homeGid g.sr)
  | .agid => agent (BitVec.ofNat 64 (g.sr.ifn.toNat * 2 ^ 24 + ofBool g.sr.agOut * 2 ^ 16 + s.core))
  | .fwbase => agent (g.sr.fwbase &&& ~~~ 0xFFF)
  | .apoll => agent (g.sr.apoll.zeroExtend 64)
  | .aasid => agent (BitVec.ofNat 64 (ofBool g.sr.aasidV * 512 + g.sr.aasid.toNat))

/-- The registers that only slot 16 has (R340, R341). -/
def SysReg.agentOnly : SysReg → Bool
  | .agid | .fwbase | .apoll | .aasid => true
  | _ => false

/-- A write of a system register: RW fields, and W1C bits by R7; RO fields and reserved bits are ignored (R164). -/
def SysRegs.put (r : SysRegs) (n : SysReg) (x : Word64) : SysRegs := match n with
  | .ejt => { r with ejt := if 8 < bits x 0 4 then 8 else x.truncate 4 }
  | .ejto => { r with ejto := x.truncate 32 }
  | .ejst => { r with act := x.getLsbD 63, recNo := x.extractLsb' 56 2, tout := r.tout &&& ~~~ (x.extractLsb' 48 4) }
  | .fidx => { r with fidxV := x.getLsbD 63, fidxIx := x.extractLsb' 32 7, fidxPc := x.truncate 32 }
  | .mstat => { r with mnv := r.mnv && !x.getLsbD 1, mov := r.mov && !x.getLsbD 0 }
  | .fpstat => { r with fpstat := r.fpstat &&& ~~~ (x.truncate 5) }
  | .mode => { r with ftz := x.getLsbD 0 }
  | .apoll => { r with apoll := if bits x 0 13 < 64 then 64 else x.truncate 13 }
  | .aasid => { r with aasid := x.truncate 9, aasidV := x.getLsbD 9 }
  | .ctxsave | .gotb | .trapvec | .fault | .faddr | .place | .agid | .fwbase => r

/-- SRD and SWR of a register of flags wait until every earlier word of the group that sets flags is complete (R116, R126,
R164). -/
def State.flagWait (s : State) (r : SysReg) : Bool := (r == .fpstat || r == .mstat) && s.flagging s.cur.gid s.cur.ent

def execSrd (d : Fin 64) (r : SysReg) (s : State) : Host.Outcome State Fault Refusal :=
  commit (match s.readSr r with
    | none => .trap tEncoding s
    | some x => if s.flagWait r then .park .flags s else .ok (s.writeS d.val x))

/-- SWR; a Loupe thread is recalled (R60). -/
def execSwr (r : SysReg) (b : SSrc) (s : State) : Host.Outcome State Fault Refusal :=
  commit (s.groupOnly fun s =>
    if SysReg.agentOnly r && !s.g.isAgent then .trap tEncoding s
    else if s.flagWait r then .park .flags s
    else .ok (s.setG { s.g with sr := s.g.sr.put r (s.readB b) }))

/-- FEATQ (R168). Words 0 and 1 of an agent, which has no contracted set, are free values (log entry 14). -/
def execFeatq (d : Fin 64) (b : SSrc) (s : State) : Host.Outcome State Fault Refusal :=
  let i := s.readB b
  commit (.ok (
    if i = 0 ∨ i = 1 then
      (if s.g.isAgent then { s.writeS d.val (Config.freeWord s.free) with free := s.free + 1 }
       else s.writeS d.val (if i = 0 then s.myCtx.feat0 else s.myCtx.feat1))
    else s.writeS d.val 0))

/-- PHYSQ (R170): word 0 returns and clears MIG of the group. -/
def execPhysq (d : Fin 64) (b : SSrc) (s : State) : Host.Outcome State Fault Refusal :=
  let i := s.readB b
  commit (.ok (
    if i = 0 then
      let x : Word64 := BitVec.ofNat 64 (ofBool s.hg.mig * 2 ^ 63 + Config.stepping.toNat)
      (s.setGroup s.homeGid { s.hg with mig := false }).writeS d.val x
    else if i = 1 then s.writeS d.val (BitVec.ofNat 64 (Config.lclk * 2 ^ 16 + Config.aclk))
    else s.writeS d.val 0))

/-- Package time at the issuing party's die (R108, R171). -/
def execTime (d : Fin 64) (s : State) : Host.Outcome State Fault Refusal :=
  commit (.ok (s.writeS d.val (s.times.get 0 (s.clu / 8))))

end Sys2Proof.Machine
end

