-- ==== Sys2Proof/Machine/Task.lean ====
section
/-! DEFINITION. Task records: TEMIT and TDONE (R284 to R286). -/

namespace Sys2Proof.Machine

/-- Lanes whose records an instruction takes: non-helper lanes with the predicate set (R285, R286). -/
def State.recLanes (s : State) (p : Fin 8) : List Nat :=
  (Mask.list (s.readP p.val &&& ~~~ s.rg.helper)).map Fin.val

/-- Address of a lane's record. -/
def recVa (a : Word64) (l : Nat) : Word64 := a + BitVec.ofNat 64 (64 * l)

/-- Bytes of tile memory at an address of the executing party. -/
def State.tileBytes (s : State) (va : Word64) (n : Nat) : List Byte :=
  (List.range n).map fun k => match s.tileAt s.g.bid (va.toNat + k) 1 with
    | some (b, o) => (s.block b).tile.get 0 o
    | none => 0

/-- The first record that lies outside tile memory (R285). -/
def State.recStop (s : State) (a : Word64) (ls : List Nat) : Option Trap :=
  (ls.filterMap fun l => (s.rangeAt .tile (recVa a l) 64).map fun k => tProt k (some l) (some (recVa a l))).head?

/-- Write lines of 64 bytes at located addresses, at a scope. -/
def State.putRecs (x : Scope) : List (LRes × List Byte) → State → State
  | (.ok (.glob pa asid), bs) :: t, s => State.putRecs x t (s.writeFrom s.clu x asid pa bs)
  | _ :: t, s => State.putRecs x t s
  | [], s => s

/-- TEMIT (R285): checks, the release, then claim, copies and publication as one ring step. -/
def State.temit (s : State) (x : Scope) (q : Fin 16) (r : Nat) (a : Word64) (p : Fin 8) : Eff :=
  let c := s.ring r
  let ls := s.recLanes p
  let n := ls.length
  if c.lsize ≠ 6 ∨ !aligned a 64 then .trap (tProt 0 none (some a)) s
  else match s.recStop a ls with
    | some t => .trap t s
    | none =>
      if c.count < n then .trap (tProt 0 none none) s
      else
        let s := s.relScope x
        if n = 0 then .ok s
        else
          let c := (s.ring r).produces s.g.bid s.g.gix
          let s := s.setRing r c
          if c.st == .error then .park (.emit r n) (s.sendRingErr s.g.bid s.g.gix c.ecode q.val)
          else if !c.canClaim n then .park (.emit r n) s
          else
            let dst := fun (k : Nat) => c.slotVa (c.fill + BitVec.ofNat 32 k)
            let (s1, rs) := locateAll .glob dst 64 .store (List.range n) s
            match decideAcc (fun _ => true) rs s1 s with
            | some e => e
            | none =>
              let s1 := s1.setRing r { c with fill := c.fill + BitVec.ofNat 32 n }
              let s1 := State.putRecs x ((rs.map fun t => t.2.2).zip (ls.map fun l => s.tileBytes (recVa a l) 64)) s1
              match (s1.ring r).publish c.fill n with
              | some c => .ok (s1.setRing r c)
              | none => .ok (s1.ringError r 0x80)

def execTemit (x : Scope) (q : Fin 16) (a : Fin 64) (p : Fin 8) (s : State) : Host.Outcome State Fault Refusal :=
  commit (s.onRing q fun r s => s.temit x q r (s.readS a.val) p)

/-- COMPL and SUCC of a task record (R284). -/
def recCompl (bs : List Byte) : Word64 := BitVec.ofNat 64 (ofBytes ((bs.drop 32).take 8))
def recSucc (bs : List Byte) : Word64 := BitVec.ofNat 64 (ofBytes ((bs.drop 24).take 8))

/-- Increment the located completion words in order and send the decrements (R286). -/
def State.doneRecs (x : Scope) : List (LRes × Word64) → State → State
  | [], s => s
  | (l, succ) :: t, s =>
    let s := match l with
      | .ok (.glob pa asid) => (s.rmw x asid pa 8 fun bs => toBytes 8 ((ofBytes bs + 1) % 2 ^ 64)).1
      | _ => s
    let b := s.blk
    let s := if succ = 0 then s
      else { s with decs := s.decs ++ [{ vi := b.vi, q := s.queueNo b, asid := b.asid, ctxn := b.ctx, addr := succ, qdec := false }] }
    State.doneRecs x t s

/-- TDONE (R286). -/
def State.tdone (s : State) (x : Scope) (a : Word64) (p : Fin 8) : Eff :=
  let ls := s.recLanes p
  if !aligned a 64 then .trap (tProt 0 none (some a)) s
  else match s.recStop a ls with
    | some t => .trap t s
    | none =>
      let recs := ls.map fun l => (l, s.tileBytes (recVa a l) 64)
      let some' := recs.filter fun r => recCompl r.2 != 0
      let va := fun (l : Nat) => ((recs.find? fun r => r.1 == l).map fun r => recCompl r.2).getD 0
      let (s1, rs) := locateAll .glob va 8 .both (some'.map Prod.fst) s
      match decideAcc (fun _ => true) rs s1 s with
      | some e => e
      | none =>
        let at' := fun (l : Nat) => ((rs.find? fun r => r.1 == l).map fun r => r.2.2).getD .mis
        .ok (State.doneRecs x (recs.map fun r => (at' r.1, recSucc r.2)) (s1.relScope x))

def execTdone (x : Scope) (a : Fin 64) (p : Fin 8) (s : State) : Host.Outcome State Fault Refusal :=
  commit (s.groupOnly fun s =>
    if s.partialMask then .trap tPartial s else s.tdone x (s.readS a.val) p)

end Sys2Proof.Machine
end

