-- ==== Sys2Proof/Machine/Dispatch.lean ====
section
/-! DEFINITION. One arm per row of spec/opcode_table.json: the meaning of each instruction and event. -/

namespace Sys2Proof.Machine

def exec (i : Instr) (s : State) : Host.Outcome State Fault Refusal :=
  match i with
  | .nop => Sys2Proof.Machine.execNop s
  | .br t => Sys2Proof.Machine.execBr t s
  | .bz c t => Sys2Proof.Machine.execBz c t s
  | .bnz c t => Sys2Proof.Machine.execBnz c t s
  | .bp p t => Sys2Proof.Machine.execBp p t s
  | .brd p t l => Sys2Proof.Machine.execBrd p t l s
  | .jmpi a => Sys2Proof.Machine.execJmpi a s
  | .call l t => Sys2Proof.Machine.execCall l t s
  | .calli d a => Sys2Proof.Machine.execCalli d a s
  | .ret a => Sys2Proof.Machine.execRet a s
  | .exit => Sys2Proof.Machine.execExit s
  | .trap code => Sys2Proof.Machine.execTrap code s
  | .tret => Sys2Proof.Machine.execTret s
  | .hdone => Sys2Proof.Machine.execHdone s
  | .srd d r => Sys2Proof.Machine.execSrd d r s
  | .swr r b => Sys2Proof.Machine.execSwr r b s
  | .featq d b => Sys2Proof.Machine.execFeatq d b s
  | .physq d b => Sys2Proof.Machine.execPhysq d b s
  | .time d => Sys2Proof.Machine.execTime d s
  | .bkpt => Sys2Proof.Machine.execBkpt s
  | .smov d b => Sys2Proof.Machine.execSmov d b s
  | .sadd d a b => Sys2Proof.Machine.execSadd d a b s
  | .saddSat u d a b => Sys2Proof.Machine.execSaddSat u d a b s
  | .ssub d a b => Sys2Proof.Machine.execSsub d a b s
  | .ssubSatS64 d a b => Sys2Proof.Machine.execSsubSatS64 d a b s
  | .ssubSatN64 d a b => Sys2Proof.Machine.execSsubSatN64 d a b s
  | .smul d a b => Sys2Proof.Machine.execSmul d a b s
  | .smulh u d a b => Sys2Proof.Machine.execSmulh u d a b s
  | .sdiv u d a b => Sys2Proof.Machine.execSdiv u d a b s
  | .srem u d a b => Sys2Proof.Machine.execSrem u d a b s
  | .sand d a b => Sys2Proof.Machine.execSand d a b s
  | .sor d a b => Sys2Proof.Machine.execSor d a b s
  | .sxor d a b => Sys2Proof.Machine.execSxor d a b s
  | .sshl d a b => Sys2Proof.Machine.execSshl d a b s
  | .sshr d a b => Sys2Proof.Machine.execSshr d a b s
  | .ssra d a b => Sys2Proof.Machine.execSsra d a b s
  | .ssel d a b => Sys2Proof.Machine.execSsel d a b s
  | .sminS64 d a b => Sys2Proof.Machine.execSminS64 d a b s
  | .sminN64 d a b => Sys2Proof.Machine.execSminN64 d a b s
  | .smaxS64 d a b => Sys2Proof.Machine.execSmaxS64 d a b s
  | .smaxN64 d a b => Sys2Proof.Machine.execSmaxN64 d a b s
  | .spopc d b => Sys2Proof.Machine.execSpopc d b s
  | .sclz d b => Sys2Proof.Machine.execSclz d b s
  | .sbfxS64 d a b => Sys2Proof.Machine.execSbfxS64 d a b s
  | .sbfxN64 d a b => Sys2Proof.Machine.execSbfxN64 d a b s
  | .sbfi d a b => Sys2Proof.Machine.execSbfi d a b s
  | .sadda d a b => Sys2Proof.Machine.execSadda d a b s
  | .scmp c u d a b => Sys2Proof.Machine.execScmp c u d a b s
  | .sld w d a b => Sys2Proof.Machine.execSld w d a b s
  | .sst w d a b => Sys2Proof.Machine.execSst w d a b s
  | .sldg d b => Sys2Proof.Machine.execSldg d b s
  | .sldl w d t => Sys2Proof.Machine.execSldl w d t s
  | .vtos d a v => Sys2Proof.Machine.execVtos d a v s
  | .vadd t d a b => Sys2Proof.Machine.execVadd t d a b s
  | .vaddSat t d a b => Sys2Proof.Machine.execVaddSat t d a b s
  | .vsub t d a b => Sys2Proof.Machine.execVsub t d a b s
  | .vsubSat t d a b => Sys2Proof.Machine.execVsubSat t d a b s
  | .vmul t d a b => Sys2Proof.Machine.execVmul t d a b s
  | .vmulh t d a b => Sys2Proof.Machine.execVmulh t d a b s
  | .vmad t d a b => Sys2Proof.Machine.execVmad t d a b s
  | .vmin t d a b => Sys2Proof.Machine.execVmin t d a b s
  | .vmax t d a b => Sys2Proof.Machine.execVmax t d a b s
  | .vshl w d a b => Sys2Proof.Machine.execVshl w d a b s
  | .vshr w d a b => Sys2Proof.Machine.execVshr w d a b s
  | .vsra w d a b => Sys2Proof.Machine.execVsra w d a b s
  | .vmov w d a => Sys2Proof.Machine.execVmov w d a s
  | .vand w d a b => Sys2Proof.Machine.execVand w d a b s
  | .vor w d a b => Sys2Proof.Machine.execVor w d a b s
  | .vxor w d a b => Sys2Proof.Machine.execVxor w d a b s
  | .vnot w d a => Sys2Proof.Machine.execVnot w d a s
  | .vbfx t d a b => Sys2Proof.Machine.execVbfx t d a b s
  | .vbfi w d a b => Sys2Proof.Machine.execVbfi w d a b s
  | .vaddc w d a b => Sys2Proof.Machine.execVaddc w d a b s
  | .vsel p w d a b => Sys2Proof.Machine.execVsel p w d a b s
  | .vabs t d a => Sys2Proof.Machine.execVabs t d a s
  | .vneg t d a => Sys2Proof.Machine.execVneg t d a s
  | .vcmp c t p a b => Sys2Proof.Machine.execVcmp c t p a b s
  | .vpopc w d a => Sys2Proof.Machine.execVpopc w d a s
  | .vclz w d a => Sys2Proof.Machine.execVclz w d a s
  | .fadd f n d a b => Sys2Proof.Machine.execFadd f n d a b s
  | .fsub f n d a b => Sys2Proof.Machine.execFsub f n d a b s
  | .fmul f n d a b => Sys2Proof.Machine.execFmul f n d a b s
  | .ffma f n d a b => Sys2Proof.Machine.execFfma f n d a b s
  | .fdiv f d a b => Sys2Proof.Machine.execFdiv f d a b s
  | .fcmpEqNe c f p a b => Sys2Proof.Machine.execFcmpEqNe c f p a b s
  | .fcmpLtLe c f p a b => Sys2Proof.Machine.execFcmpLtLe c f p a b s
  | .fcmpGtGeUnOrd c f p a b => Sys2Proof.Machine.execFcmpGtGeUnOrd c f p a b s
  | .fmin f d a b => Sys2Proof.Machine.execFmin f d a b s
  | .fmax f d a b => Sys2Proof.Machine.execFmax f d a b s
  | .fscale f n d a b => Sys2Proof.Machine.execFscale f n d a b s
  | .fabs f d a => Sys2Proof.Machine.execFabs f d a s
  | .fneg f d a => Sys2Proof.Machine.execFneg f d a s
  | .fclass f d a => Sys2Proof.Machine.execFclass f d a s
  | .frnd f n d a => Sys2Proof.Machine.execFrnd f n d a s
  | .frcp f d a => Sys2Proof.Machine.execFrcp f d a s
  | .frsq f d a => Sys2Proof.Machine.execFrsq f d a s
  | .fsqrt f d a => Sys2Proof.Machine.execFsqrt f d a s
  | .fexp2 f d a => Sys2Proof.Machine.execFexp2 f d a s
  | .flog2 f d a => Sys2Proof.Machine.execFlog2 f d a s
  | .fsinp f d a => Sys2Proof.Machine.execFsinp f d a s
  | .fcosp f d a => Sys2Proof.Machine.execFcosp f d a s
  | .ftanh f d a => Sys2Proof.Machine.execFtanh f d a s
  | .cvt r f n d a => Sys2Proof.Machine.execCvt r f n d a s
  | .cvtiF2i j f n d a => Sys2Proof.Machine.execCvtiF2i j f n d a s
  | .cvtiI2f j f n d a => Sys2Proof.Machine.execCvtiI2f j f n d a s
  | .dxenc scl b16 dx4 d a => Sys2Proof.Machine.execDxenc scl b16 dx4 d a s
  | .dxdec dx4 d a => Sys2Proof.Machine.execDxdec dx4 d a s
  | .qswx w d a => Sys2Proof.Machine.execQswx w d a s
  | .qswy w d a => Sys2Proof.Machine.execQswy w d a s
  | .qswd w d a => Sys2Proof.Machine.execQswd w d a s
  | .qbc w k d a => Sys2Proof.Machine.execQbc w k d a s
  | .lshfl d a b => Sys2Proof.Machine.execLshfl d a b s
  | .lbc d a b => Sys2Proof.Machine.execLbc d a b s
  | .lscanAdd t exc d a => Sys2Proof.Machine.execLscanAdd t exc d a s
  | .lscanMax t exc d a => Sys2Proof.Machine.execLscanMax t exc d a s
  | .lredAdd t d a => Sys2Proof.Machine.execLredAdd t d a s
  | .lredMax t d a => Sys2Proof.Machine.execLredMax t d a s
  | .lredMin t d a => Sys2Proof.Machine.execLredMin t d a s
  | .lredOr w d a => Sys2Proof.Machine.execLredOr w d a s
  | .ballot d p => Sys2Proof.Machine.execBallot d p s
  | .syncm a => Sys2Proof.Machine.execSyncm a s
  | .swp op n y z => Sys2Proof.Machine.execSwp op n y z s
  | .swpr op n acc axis y => Sys2Proof.Machine.execSwpr op n acc axis y s
  | .swpc n y => Sys2Proof.Machine.execSwpc n y s
  | .itrst => Sys2Proof.Machine.execItrst s
  | .ld t d m x => Sys2Proof.Machine.execLd t d m x s
  | .st w a m x => Sys2Proof.Machine.execSt w a m x s
  | .ldq d m x => Sys2Proof.Machine.execLdq d m x s
  | .stq d m x => Sys2Proof.Machine.execStq d m x s
  | .pref m => Sys2Proof.Machine.execPref m s
  | .ldt w d m x => Sys2Proof.Machine.execLdt w d m x s
  | .stt w a m x => Sys2Proof.Machine.execStt w a m x s
  | .ldv w d m x => Sys2Proof.Machine.execLdv w d m x s
  | .stv w a m x => Sys2Proof.Machine.execStv w a m x s
  | .ldac v t g f64 x => Sys2Proof.Machine.execLdac v t g f64 x s
  | .stac v t g f64 x => Sys2Proof.Machine.execStac v t g f64 x s
  | .cstore w a m x => Sys2Proof.Machine.execCstore w a m x s
  | .xload w d m x => Sys2Proof.Machine.execXload w d m x s
  | .aadd t d m x => Sys2Proof.Machine.execAadd t d m x s
  | .amin32 t d m x => Sys2Proof.Machine.execAmin32 t d m x s
  | .amin64Fp t d m x => Sys2Proof.Machine.execAmin64Fp t d m x s
  | .amaxInt t d m x => Sys2Proof.Machine.execAmaxInt t d m x s
  | .amaxFp t d m x => Sys2Proof.Machine.execAmaxFp t d m x s
  | .aand w d m x => Sys2Proof.Machine.execAand w d m x s
  | .aor w d m x => Sys2Proof.Machine.execAor w d m x s
  | .axor w d m x => Sys2Proof.Machine.execAxor w d m x s
  | .axchg w d m x => Sys2Proof.Machine.execAxchg w d m x s
  | .acas w d m x => Sys2Proof.Machine.execAcas w d m x s
  | .acasB128 d m x => Sys2Proof.Machine.execAcasB128 d m x s
  | .aincwN32 d m x => Sys2Proof.Machine.execAincwN32 d m x s
  | .aincwN64 d m x => Sys2Proof.Machine.execAincwN64 d m x s
  | .redAdd t a m x => Sys2Proof.Machine.execRedAdd t a m x s
  | .redAddPbf16 a m x => Sys2Proof.Machine.execRedAddPbf16 a m x s
  | .redMin t a m x => Sys2Proof.Machine.execRedMin t a m x s
  | .redMax32 t a m x => Sys2Proof.Machine.execRedMax32 t a m x s
  | .redMax64Fp t a m x => Sys2Proof.Machine.execRedMax64Fp t a m x s
  | .redAnd w a m x => Sys2Proof.Machine.execRedAnd w a m x s
  | .redOr w a m x => Sys2Proof.Machine.execRedOr w a m x s
  | .redXor w a m x => Sys2Proof.Machine.execRedXor w a m x s
  | .fence sx k => Sys2Proof.Machine.execFence sx k s
  | .fenceV => Sys2Proof.Machine.execFenceV s
  | .bar n => Sys2Proof.Machine.execBar n s
  | .cbar => Sys2Proof.Machine.execCbar s
  | .waitc k a sx t => Sys2Proof.Machine.execWaitc k a sx t s
  | .waitq d a sx k => Sys2Proof.Machine.execWaitq d a sx k s
  | .mma f => Sys2Proof.Machine.execMma f s
  | .mmac f c => Sys2Proof.Machine.execMmac f c s
  | .mzero f64 t => Sys2Proof.Machine.execMzero f64 t s
  | .mrd f => Sys2Proof.Machine.execMrd f s
  | .mwr f => Sys2Proof.Machine.execMwr f s
  | .pcpy w ring d sx dsp ssp ch => Sys2Proof.Machine.execPcpy w ring d sx dsp ssp ch s
  | .pcpyi dir ch n => Sys2Proof.Machine.execPcpyi dir ch n s
  | .pcpys ch n z => Sys2Proof.Machine.execPcpys ch n z s
  | .padd ty d sx dsp ssp ch => Sys2Proof.Machine.execPadd ty d sx dsp ssp ch s
  | .zrst n => Sys2Proof.Machine.execZrst n s
  | .zprl n => Sys2Proof.Machine.execZprl n s
  | .zcpy n => Sys2Proof.Machine.execZcpy n s
  | .ztbl k n slot => Sys2Proof.Machine.execZtbl k n slot s
  | .tcrd d k => Sys2Proof.Machine.execTcrd d k s
  | .tcinc sx k a => Sys2Proof.Machine.execTcinc sx k a s
  | .qpubClaim d k a => Sys2Proof.Machine.execQpubClaim d k a s
  | .qpubPub sx k a => Sys2Proof.Machine.execQpubPub sx k a s
  | .qrel sx k a => Sys2Proof.Machine.execQrel sx k a s
  | .qerr k code => Sys2Proof.Machine.execQerr k code s
  | .qstat d k w => Sys2Proof.Machine.execQstat d k w s
  | .qrestart d a h => Sys2Proof.Machine.execQrestart d a h s
  | .temit sx k a p => Sys2Proof.Machine.execTemit sx k a p s
  | .tdone sx a p => Sys2Proof.Machine.execTdone sx a p s
  | .unassignedOpcode w => Sys2Proof.Machine.execUnassignedOpcode w s
  | .registerWrite r v => Sys2Proof.Machine.execRegisterWrite r v s
  | .functionReady f => Sys2Proof.Machine.execFunctionReady f s
  | .functionMarkedFailed f => Sys2Proof.Machine.execFunctionMarkedFailed f s
  | .deferredDataArrival page => Sys2Proof.Machine.execDeferredDataArrival page s
  | .secondTierTimeout page => Sys2Proof.Machine.execSecondTierTimeout page s
  | .parkedResume gid ent => Sys2Proof.Machine.execParkedResume gid ent s
  | .fragmentFusion gid tag => Sys2Proof.Machine.execFragmentFusion gid tag s
  | .deferralAdvance gid ent => Sys2Proof.Machine.execDeferralAdvance gid ent s
  | .asyncEventTaken gid => Sys2Proof.Machine.execAsyncEventTaken gid s
  | .preemption vi n => Sys2Proof.Machine.execPreemption vi n s
  | .forcedSave bid => Sys2Proof.Machine.execForcedSave bid s
  | .resume coh pcore => Sys2Proof.Machine.execResume coh pcore s
  | .recall tid => Sys2Proof.Machine.execRecall tid s
  | .rejoin tid => Sys2Proof.Machine.execRejoin tid s
  | .recordFusion gid r => Sys2Proof.Machine.execRecordFusion gid r s
  | .rejoinTimeout gid => Sys2Proof.Machine.execRejoinTimeout gid s
  | .heldLaneSend gid r => Sys2Proof.Machine.execHeldLaneSend gid r s
  | .vownWrite vault v => Sys2Proof.Machine.execVownWrite vault v s
  | .vaultScrubDone vault => Sys2Proof.Machine.execVaultScrubDone vault s
  | .vaultAccess gid vault => Sys2Proof.Machine.execVaultAccess gid vault s
  | .vaultWriteAck gid vault => Sys2Proof.Machine.execVaultWriteAck gid vault s
  | .twctlEnable win => Sys2Proof.Machine.execTwctlEnable win s
  | .twctlDisable win => Sys2Proof.Machine.execTwctlDisable win s
  | .twFlushDone win => Sys2Proof.Machine.execTwFlushDone win s
  | .llcEviction line => Sys2Proof.Machine.execLlcEviction line s
  | .clusterCacheEviction clu line => Sys2Proof.Machine.execClusterCacheEviction clu line s
  | .wt core => Sys2Proof.Machine.execWt core s
  | .rds clu line => Sys2Proof.Machine.execRds clu line s
  | .rdx clu line sx => Sys2Proof.Machine.execRdx clu line sx s
  | .upg clu line sx => Sys2Proof.Machine.execUpg clu line sx s
  | .fwd unit line => Sys2Proof.Machine.execFwd unit line s
  | .inv unit line => Sys2Proof.Machine.execInv unit line s
  | .inva unit line => Sys2Proof.Machine.execInva unit line s
  | .pub unit line => Sys2Proof.Machine.execPub unit line s
  | .puba unit line => Sys2Proof.Machine.execPuba unit line s
  | .drq q => Sys2Proof.Machine.execDrq q s
  | .dra q => Sys2Proof.Machine.execDra q s
  | .ath clu pa op t x => Sys2Proof.Machine.execAth clu pa op t x s
  | .data clu line => Sys2Proof.Machine.execData clu line s
  | .engineOpComplete bid k num => Sys2Proof.Machine.execEngineOpComplete bid k num s
  | .engineFaultStall bid k num => Sys2Proof.Machine.execEngineFaultStall bid k num s
  | .ringPcpyPublish ring ix => Sys2Proof.Machine.execRingPcpyPublish ring ix s
  | .dependencyDecrement vi n addr => Sys2Proof.Machine.execDependencyDecrement vi n addr s
  | .remainDecrement lrec => Sys2Proof.Machine.execRemainDecrement lrec s
  | .readyListPush vi l => Sys2Proof.Machine.execReadyListPush vi l s
  | .queueEnable vi q => Sys2Proof.Machine.execQueueEnable vi q s
  | .queueReset vi q => Sys2Proof.Machine.execQueueReset vi q s
  | .quiesceToken isCtx vi n => Sys2Proof.Machine.execQuiesceToken isCtx vi n s
  | .quiesceTokenTimeout vi q die => Sys2Proof.Machine.execQuiesceTokenTimeout vi q die s
  | .queueDoorbell vi q v => Sys2Proof.Machine.execQueueDoorbell vi q v s
  | .packetAdmission vi q => Sys2Proof.Machine.execPacketAdmission vi q s
  | .qdecWrite vi q addr => Sys2Proof.Machine.execQdecWrite vi q addr s
  | .ringCreate vi => Sys2Proof.Machine.execRingCreate vi s
  | .ringDestroy vi n => Sys2Proof.Machine.execRingDestroy vi n s
  | .ringRestart vi n => Sys2Proof.Machine.execRingRestart vi n s
  | .signalExecute pkt => Sys2Proof.Machine.execSignalExecute pkt s
  | .fenceqComplete pkt => Sys2Proof.Machine.execFenceqComplete pkt s
  | .startRecordTake pcore => Sys2Proof.Machine.execStartRecordTake pcore s
  | .agentClaimPass pcore => Sys2Proof.Machine.execAgentClaimPass pcore s
  | .agentReset pcore code => Sys2Proof.Machine.execAgentReset pcore code s
  | .blockKill bid => Sys2Proof.Machine.execBlockKill bid s
  | .waitCycleExchange => Sys2Proof.Machine.execWaitCycleExchange s
  | .ctxCreate vi n => Sys2Proof.Machine.execCtxCreate vi n s
  | .ctxStop vi n => Sys2Proof.Machine.execCtxStop vi n s
  | .ctxResume vi n => Sys2Proof.Machine.execCtxResume vi n s
  | .ctxEnd vi n => Sys2Proof.Machine.execCtxEnd vi n s
  | .ctxReplay vi n => Sys2Proof.Machine.execCtxReplay vi n s
  | .ctxInvalidate vi n => Sys2Proof.Machine.execCtxInvalidate vi n s
  | .atsInvalidateRequest vi pasid va lg => Sys2Proof.Machine.execAtsInvalidateRequest vi pasid va lg s
  | .invalidationComplete vi n => Sys2Proof.Machine.execInvalidationComplete vi n s
  | .fltrdWrite vi n v => Sys2Proof.Machine.execFltrdWrite vi n v s
  | .powerGood => Sys2Proof.Machine.execPowerGood s
  | .baseDieRelease sx img cfg body => Sys2Proof.Machine.execBaseDieRelease sx img cfg body s
  | .linkTrained f => Sys2Proof.Machine.execLinkTrained f s
  | .computeDieRelease d die vault agent => Sys2Proof.Machine.execComputeDieRelease d die vault agent s
  | .keyInstall asid => Sys2Proof.Machine.execKeyInstall asid s
  | .keyDestroy asid => Sys2Proof.Machine.execKeyDestroy asid s
  | .keySeal asid => Sys2Proof.Machine.execKeySeal asid s
  | .keyctlComplete => Sys2Proof.Machine.execKeyctlComplete s
  | .dieQuiesce d => Sys2Proof.Machine.execDieQuiesce d s
  | .dieDrainComplete d => Sys2Proof.Machine.execDieDrainComplete d s
  | .dieQuiesceDeadline d => Sys2Proof.Machine.execDieQuiesceDeadline d s
  | .rebuildComplete d => Sys2Proof.Machine.execRebuildComplete d s
  | .dieReturn d die vault agent => Sys2Proof.Machine.execDieReturn d die vault agent s
  | .getVersion => Sys2Proof.Machine.execGetVersion s
  | .getCapabilities => Sys2Proof.Machine.execGetCapabilities s
  | .negotiateAlgorithms req => Sys2Proof.Machine.execNegotiateAlgorithms req s
  | .getDigests => Sys2Proof.Machine.execGetDigests s
  | .getCertificate slot off len => Sys2Proof.Machine.execGetCertificate slot off len s
  | .challenge slot nonce => Sys2Proof.Machine.execChallenge slot nonce s
  | .getMeasurements idx sign nonce => Sys2Proof.Machine.execGetMeasurements idx sign nonce s
  | .keyExchange req => Sys2Proof.Machine.execKeyExchange req s
  | .finish req => Sys2Proof.Machine.execFinish req s
  | .hostMemoryAccess write pa size v => Sys2Proof.Machine.execHostMemoryAccess write pa size v s
  | .backInvalidate line => Sys2Proof.Machine.execBackInvalidate line s
  | .peerRequest link op pa size v => Sys2Proof.Machine.execPeerRequest link op pa size v s
  | .mirror addr lg => Sys2Proof.Machine.execMirror addr lg s
  | .logack seq => Sys2Proof.Machine.execLogack seq s
  | .logrd seq n => Sys2Proof.Machine.execLogrd seq n s
  | .ckpt seq => Sys2Proof.Machine.execCkpt seq s
  | .telem => Sys2Proof.Machine.execTelem s
  | .pwrcap w => Sys2Proof.Machine.execPwrcap w s
  | .logAppend typ loc data => Sys2Proof.Machine.execLogAppend typ loc data s
  | .droopSag clu k => Sys2Proof.Machine.execDroopSag clu k s
  | .droopStepDown clu => Sys2Proof.Machine.execDroopStepDown clu s
  | .powerCapLoop k => Sys2Proof.Machine.execPowerCapLoop k s
  | .thermalThrottle loc temp k => Sys2Proof.Machine.execThermalThrottle loc temp k s
  | .thermalTrip loc temp => Sys2Proof.Machine.execThermalTrip loc temp s
  | .packageReset cause => Sys2Proof.Machine.execPackageReset cause s
  | .patrolScrub e => Sys2Proof.Machine.execPatrolScrub e s
  | .cxlCacheSnoop line invalidate => Sys2Proof.Machine.execCxlCacheSnoop line invalidate s
  | .powerLoss => Sys2Proof.Machine.execPowerLoss s
  | .liveMigration vi incoming stop => Sys2Proof.Machine.execLiveMigration vi incoming stop s
  | .reservedDoeRequest code => Sys2Proof.Machine.execReservedDoeRequest code s

end Sys2Proof.Machine
end

