-- ==== Sys2Proof/Machine/Fetch.lean ====
section
/-! DEFINITION. Fetching the words of a chain, the checks of R143, and the order in which the words of a chain take
effect (R130 to R133, R140, R143, R148, R154). -/

namespace Sys2Proof.Machine

/-- Pipe of an assigned opcode (R146); NOP and an unassigned opcode use none. -/
def pipeOf (op : Nat) : Option Pipe :=
  if op = 0 || !assigned op then none
  else if op ≤ 0x00D || op == 0x013 || (0x382 ≤ op && op ≤ 0x385) then some .b
  else if op ≤ 0x06B || op == 0x075 then some .s
  else if op ≤ 0x074 || (0x300 ≤ op && op ≤ 0x381) then some .m
  else if op ≤ 0x2CD then some .v
  else some .x

/-- The opcodes of the lane instructions (R200). -/
def laneOp (op : Nat) : Bool := decide (0x2C0 ≤ op ∧ op ≤ 0x2CD)

/-! ### What a word writes (R132): registers as numbers, v from 0, s from 100, p from 200, accumulator tiles from 300 -/

def vDst (r n : Nat) : List Nat := (List.range n).map (r + ·)

/-- A register or, for a 64-bit result, a pair. -/
def wDst (r : Nat) (wide : Bool) : List Nat := vDst r (if wide then 2 else 1)

def sDst (r : Nat) : List Nat := [100 + r]

/-- A destination operand code (R139): a v-register, its pair for a 64-bit result, or s0 to s15. -/
def codeDst (c : Nat) (wide : Bool) : List Nat :=
  if c < 96 then wDst c wide else if c < 112 then sDst (c - 96) else []

/-- A predicate as a destination (R139). -/
def predDst (c : Nat) : List Nat := if c < 8 then [200 + c] else []

/-- Destination of the S format (R134): 0x007, 0x008, 0x00E to 0x012 and 0x040 to 0x076. -/
def scalarDests (op w : Nat) : List Nat :=
  if op = 0x007 then codeDst (dF w) false
  else if op = 0x008 || op == 0x00E || (0x010 ≤ op && op ≤ 0x012) || (0x040 ≤ op && op ≤ 0x071)
      || (0x074 ≤ op && op ≤ 0x076) then sDst (fld w 15 6)
  else []

/-- A 64-bit type of R145 and R182, by its code among I and among J. -/
def wideI (c : Nat) : Bool := 6 ≤ c % 8
def wideJ (c : Nat) : Bool := 2 ≤ c % 4

/-- A 64-bit type of a fold or an atomic (R203, R227): s64, n64, f64. -/
def wideR (c : Nat) : Bool := c == 2 || c == 3 || c == 5

/-- Destination of a vector instruction, 0x100 to 0x1C3 (R182 to R188). -/
def vectorDests (op w : Nat) : List Nat :=
  let d := dF w
  if op < 0x148 then codeDst d (wideI op)
  else if op < 0x158 then codeDst d (op % 2 == 1)
  else if op < 0x15C then codeDst d (wideJ op)
  else if op < 0x170 then (if op / 2 = 0xAF then 206 :: codeDst d (op % 2 == 1) else codeDst d (op % 2 == 1))
  else if op < 0x180 then codeDst d (wideI op)
  else if op < 0x1C0 then predDst d
  else codeDst d (op % 2 == 1)

/-- Destination of a floating-point instruction, 0x200 to 0x2B3 (R189 to R199). -/
def floatDests (op w : Nat) : List Nat :=
  let d := dF w
  if op < 0x250 || (0x280 ≤ op && op < 0x290) || (0x2A0 ≤ op && op < 0x2B0) then codeDst d (op / 4 % 4 == 3)
  else if op < 0x270 then predDst d
  else if op < 0x278 then codeDst d (op % 4 == 3)
  else if op = 0x292 || op == 0x2B2 || op == 0x2B3 then codeDst d false
  else if op = 0x2B0 then codeDst d (wideJ (fld w 5 2))
  else codeDst d (fld w 2 2 == 3)

/-- Destination of a lane instruction, 0x2C0 to 0x2CD (R200 to R205). -/
def laneDests (op w : Nat) : List Nat :=
  let d := dF w
  if op < 0x2C4 then codeDst d (fld w 0 1 == 1)
  else if op < 0x2C6 then codeDst d false
  else if op < 0x2CB then codeDst d (wideR (fld w 4 3))
  else if op = 0x2CB then codeDst d (fld w 4 1 == 1)
  else if op = 0x2CC then (if 96 ≤ d && d < 112 then (List.range 3).map (4 + d + ·) else [])
  else []

/-- Destination of a memory instruction or a returning atomic, 0x300 to 0x35E (R220 to R228). -/
def memDests (op w : Nat) : List Nat :=
  let d := dF w
  let v := fun (n : Nat) => if d < 96 then vDst d n else []
  if op < 0x306 then v (if op = 0x305 then 2 else 1)
  else if op = 0x30C then v 4
  else if 0x310 ≤ op && op < 0x313 then v (2 ^ (op - 0x310))
  else if 0x318 ≤ op && op < 0x31B then v (2 ^ (op - 0x318))
  else if op = 0x320 then v (if fld w 0 1 = 1 then 32 else 16)
  else if op = 0x321 then accDst (fld w 10 4) (fld w 0 1 == 1)
  else if op = 0x324 || op == 0x325 then v (op - 0x323)
  else if op < 0x340 then []
  else if op < 0x346 then v (if wideR (op - 0x340) then 2 else 1)
  else if op < 0x348 then v 1
  else if op < 0x34C then v (if op = 0x34A then 1 else 2)
  else if op < 0x350 then v (if op < 0x34E then 1 else 2)
  else if op < 0x35C then v (op % 2 + 1)
  else if op = 0x35C then v 4
  else if op < 0x35F then v (op - 0x35C)
  else []

/-- Destination of a matrix instruction, 0x3A0 to 0x3A4, with the literal of MMA and MMAC (R246, R259). -/
def matrixDests (op w lit : Nat) : List Nat :=
  if op < 0x3A2 then accDst (fld w 0 4) (fld lit 24 1 == 1)
  else if op = 0x3A2 then accDst (fld w 0 4) (fld w 4 1 == 1)
  else if op = 0x3A3 then vDst (dF w) (FType.rowSpan (FType.ofCode (fld w 2 2)))
  else accDst (fld w 7 4) (fld w 1 1 == 1)

/-- Registers, predicates and accumulator tiles that a word writes, whatever its other fields hold (R132); two words on
the X pipe never share a chain, so that counters and ring handles need no list. A system register is none of the
registers that R132 compares: SWR with another word that writes the same one is no conflict (log entry 65). -/
def destsOf (op w lit : Nat) : List Nat :=
  if !assigned op then []
  else if op < 0x100 then scalarDests op w
  else if op < 0x200 then vectorDests op w
  else if op < 0x2C0 then floatDests op w
  else if op < 0x2E0 then laneDests op w
  else if 0x300 ≤ op && op < 0x360 then memDests op w
  else if op = 0x385 then sDst (fld w 15 6)
  else if 0x3A0 ≤ op && op < 0x3A5 then matrixDests op w lit
  else if op = 0x3D0 || (op == 0x3D8 && fld w 20 1 == 0) || op == 0x3DB || op == 0x3DC then sDst (fld w 14 6)
  else []

/-! ### Fetching a chain -/

/-- A word of a chain: where it stands, its bits, the words after it in its packet. -/
structure Item where
  pc : PC
  w : Word32
  l : Lits
  deriving DecidableEq, Repr

/-- Opcode and literal length of an item. -/
def Item.op (i : Item) : Nat := opOf (i.w.toNat % 2 ^ 31)

def Item.lits (pool : Bool) (i : Item) : Nat := litLen pool i.op (i.w.toNat % 2 ^ 31)

/-- Fetch n words from a program counter on; zeros stand for words that are not needed. -/
def State.codeWords (s : State) : Nat → PC → State × Except (PC × LRes) (List Word32)
  | 0, _ => (s, .ok [])
  | n + 1, pc =>
    match s.codeWord pc with
    | (s, .error r) => (s, .error (pc, r))
    | (s, .ok w) =>
      match s.codeWords n (pcAdd pc 1) with
      | (s, .error r) => (s, .error r)
      | (s, .ok t) => (s, .ok (w :: t))

/-- Fetch the words of the chain that starts at a program counter with their literals (R132, R140); of a word that is
issued alone, that word. -/
def State.fetchChain (pool one : Bool) : Nat → PC → State → State × Except (PC × LRes) (List Item)
  | 0, _, s => (s, .ok [])
  | n + 1, pc, s =>
    match s.codeWord pc with
    | (s, .error r) => (s, .error (pc, r))
    | (s, .ok w) =>
      let k := litLen pool (opOf (w.toNat % 2 ^ 31)) (w.toNat % 2 ^ 31)
      let room := 2 - pcSlot pc
      match s.codeWords (if k ≤ room then k else room) (pcAdd pc 1) with
      | (s, .error r) => (s, .error r)
      | (s, .ok ls) =>
        let i : Item := ⟨pc, w, ⟨ls.getD 0 0, ls.getD 1 0⟩⟩
        if chainBit w && !one && k == 0 && pcSlot pc < 2 then
          match State.fetchChain pool one n (pcAdd pc 1) s with
          | (s, .error r) => (s, .error r)
          | (s, .ok t) => (s, .ok (i :: t))
        else (s, .ok [i])

/-! ### The checks of R143 -/

/-- The instruction of an item, where it decodes. -/
def Item.instr (pool : Bool) (i : Item) : Except Reject Decoded := decode pool (pcSlot i.pc) i.w i.l

/-- What an item writes. -/
def Item.dests (i : Item) : List Nat := destsOf i.op (i.w.toNat % 2 ^ 31) i.l.l1.toNat

/-- Two words of a chain conflict: one pipe, or one destination (R132). -/
def Item.clash (i j : Item) : Bool :=
  i.pc != j.pc && ((pipeOf i.op).isSome && pipeOf i.op == pipeOf j.op || i.dests.any j.dests.contains)

/-- Step 1 of R143 fails for a word. -/
def Item.badPacket (pool one : Bool) (is : List Item) (i : Item) : Bool :=
  decide (3 < pcSlot i.pc + 1 + i.lits pool)
    || !one && (chainBit i.w && (pcSlot i.pc == 2 || i.lits pool != 0) || is.any i.clash)

/-- SRD or SWR of a register that only slot 16 has (R164, R340). -/
def agentReg : Instr → Bool
  | .srd _ r | .swr r _ => SysReg.agentOnly r
  | _ => false

/-- Step 4 of R143 fails for a word. -/
def Item.badEncoding (pool agent : Bool) (i : Item) : Bool := match i.instr pool with
  | .ok d => !agent && agentReg d.instr
  | .error _ => true

/-- Steps 1 to 4 of R143 over the words of a chain: the trap and the slot of the word that decides. -/
def checkChain (pool one agent : Bool) (is : List Item) : Option (Trap × Nat) :=
  let at' := fun (t : Trap) (f : Item → Bool) => (is.find? f).map fun i => (t, pcSlot i.pc)
  (at' tPacket (Item.badPacket pool one is)).or <|
  (at' tInstruction fun i => !assigned i.op).or <|
  (at' (tProt 6 none none) fun i => i.op == 0x3DC && !agent).or <|
  at' tEncoding (Item.badEncoding pool agent)

/-! ### Issuing a chain -/

/-- The signature of a meaning of an instruction. -/
abbrev Meaning := Instr → State → Host.Outcome State Fault Refusal

/-- The outcome is a next state in which the word ended without its effect. -/
def stopped (s : State) : Host.Outcome State Fault Refusal → Bool
  | .next t => t.stops != s.stops
  | _ => true

/-- The outcome is a next state in which the word failed a check of its fields: step 4 of R143. -/
def misfielded (s : State) : Host.Outcome State Fault Refusal → Bool
  | .next t => t.fails != s.fails
  | _ => false

/-- Continue with a next state. -/
def andThen (o : Host.Outcome State Fault Refusal) (f : State → Host.Outcome State Fault Refusal) :
    Host.Outcome State Fault Refusal := match o with
  | .next t => f t
  | o => o

/-- The issuing fragment still stands in its group, and is not parked. -/
def State.running (s : State) : Bool := s.g.live && s.e.valid && (s.e.st == .ready || s.e.st == .recalled)

/-- A word that may park while the rest of its chain takes effect (R154, R205, R208, R255). -/
def waits (op : Nat) : Bool := op == 0x2CD || op == 0x3A1 || (0x2E0 ≤ op && op ≤ 0x2E2)

/-- Execute one word of a chain. -/
def runItem (ex : Meaning) (pool : Bool) (s : State) (i : Item) : Host.Outcome State Fault Refusal :=
  match i.instr pool, s.chain with
  | .ok d, some c => ex d.instr { s with chain := some { c with slot := pcSlot i.pc } }
  | _, _ => .next s

/-- Execute words in order while the fragment runs. -/
def runItems (ex : Meaning) (pool : Bool) : List Item → State → Host.Outcome State Fault Refusal
  | [], s => .next s
  | i :: t, s => andThen (runItem ex pool s i) fun s' => if s'.running then runItems ex pool t s' else .next s'

/-- What the sources of the chain being issued are read from. -/
def State.snapOf (s : State) : Snap := ⟨s.rg.v, s.rg.p, s.rg.s, s.re.mask⟩

/-- The words of a chain that take effect: those of the pipes S, X, M and V, then a word that may wait, then the word
on the B pipe (R133, R154), which is left for later while the fragment waits. -/
def runChain (ex : Meaning) (pool : Bool) (is : List Item) (s : State) : Host.Outcome State Fault Refusal :=
  let b := is.filter fun i => pipeOf i.op == some .b
  let w := is.filter fun i => waits i.op
  let rest := is.filter fun i => pipeOf i.op != some .b && !waits i.op
  if w.isEmpty then runItems ex pool (rest ++ b) s
  else
    andThen (runItems ex pool (rest ++ w) s) fun t =>
      if t.running then runItems ex pool b t
      else match b with
        | i :: _ => if t.g.live && t.e.valid && t.e.cont.isSome then
            .next (t.setE { t.e with after := some i.pc, pre := some t.snapOf }) else .next t
        | [] => .next t

/-- Destinations of a word that a save handler writes, as bits of the copy-on-write bitmap (R371). -/
def cowBit (d : Nat) : Option Nat :=
  if d < 96 then some d else if 104 ≤ d ∧ d < 164 then some (d - 1) else if 200 ≤ d ∧ d < 207 then some (d - 104) else none

/-- Copy-on-write before the words of a chain that write some registers (R372): the frozen value of each register that
the save handler has not written goes to its image, and its bit to the bitmap. With an empty mask a word writes scalar
registers alone (R27, R154). -/
def State.cowCopy (s : State) (ds : List Nat) : Hw State :=
  let g := s.g
  let ks := ((ds.filterMap cowBit).filter fun k => !g.cow.getLsbD k && (s.e.mask != 0 || decide (103 ≤ k))).eraseDups
  if !g.inSave || ks.isEmpty then .ok s
  else
    let g := { g with cow := ks.foldl (fun m k => m ||| (1#163 <<< k)) g.cow }
    let b := s.blk
    (s.saveFlds b.pcore b.vi b.ctx g ((imageFlds.filter fun p => ks.contains p.1).map Prod.snd ++ [cowFld])).bind
      fun s => .ok (s.setG { s.g with cow := g.cow })

/-- After a word that was issued alone: the chain's word on the B pipe is still to come, or the fragment still waits
(R154). -/
def State.settleAlone (s : State) (c : Cur) (e : Entry) : State :=
  let g := s.group c.gid
  let n := g.ent c.ent
  if e.cont.isNone || (e.after.isNone && e.pre.isNone) || !g.live || !n.valid then s
  else if n.cont.isSome then s.setGroup c.gid (g.setEnt c.ent { n with after := e.after, pre := e.pre })
  else match e.after with
    | some b => s.setGroup c.gid (g.setEnt c.ent { n with pc := b, cont := some n.pc, pre := e.pre })
    | none => s

/-- The chain of a word on the B pipe that is issued alone: its sources are those of before its chain. -/
def State.aloneChain (s : State) (pc : PC) : Option Chain := match s.e.pre with
  | some p => if s.e.after.isSome then none else
      some ⟨pc, pcSlot pc, { s.g with v := p.v, p := p.p, s := p.s }.setEnt s.cur.ent { s.e with mask := p.mask }⟩
  | none => none

/-- Code objects in literal-pool mode (R142). -/
def State.pool (s : State) : Bool := !s.g.isAgent && s.blk.kern.lpool

/-- A word of a party of which a vault die that is not ready holds writes: one that has them acknowledged, a release or a
fence, waits for the die (R20, R79). -/
def State.afterVaults (s : State) (o : Host.Outcome State Fault Refusal) : Host.Outcome State Fault Refusal :=
  match s.vaultWaits s.cur.gid, o with
  | w :: ws, .next t =>
    if t.g.live && decide ((t.vaultWaits s.cur.gid).length ≤ ws.length) then commit (.park (Wait.join (w :: ws)) s) else o
  | _, o => o

/-- Program counters of the words of some items, with their literals in the packet. -/
def itemPcs (pool : Bool) (is : List Item) : List PC :=
  is.flatMap fun i => (List.range (1 + Nat.min (i.lits pool) (2 - pcSlot i.pc))).map (pcAdd i.pc)

/-- Issue the word or chain at the fragment's program counter (R131 to R133, R143). Of the words of a chain that would
stop, one that fails a check of its fields decides, else the lowest. A fetch that meets an uncorrectable error ends the
context (R414). -/
def issueChain (ex : Meaning) (s : State) : Host.Outcome State Fault Refusal :=
  let pc := s.e.pc
  let one := s.e.cont.isSome
  match State.fetchChain s.pool one 3 pc s with
  | (_, .error (p, r)) => commit (scalarStop (s.codeVa p) s r)
  | (s1, .ok is) =>
    match (if s.g.isAgent then none else s1.badCode (itemPcs s.pool is)) with
    | some line => .next (s1.uncorrectable line).stop
    | none =>
    match checkChain s.pool one s.g.isAgent is with
    | some (t, k) => .next ((s1.takeTrap ⟨s.cur.gid, s.cur.ent, pc, k⟩ t).stop)
    | none =>
      match s1.cowCopy (is.flatMap Item.dests) with
      | .wait w => commit (.park w s)
      | .fault => .next (s.saveFail s.g.bid 0x42)
      | .bad line => .next (s.blockBad s.g.bid line)
      | .ok s1 =>
      match is with
      | [i] => match i.instr s.pool with
        | .ok d =>
          andThen (ex d.instr { s1 with chain := s.aloneChain pc, next := s.e.cont.getD (pcAdd pc d.words) }) fun t =>
            .next (t.settleAlone s.cur s.e)
        | .error _ => .next s1
      | is =>
        let last := is.getLastD ⟨pc, 0, ⟨0, 0⟩⟩
        let n := match last.instr s.pool with | .ok d => d.words | .error _ => 1
        let s2 : State := { s1 with chain := some ⟨pc, pcSlot pc, s1.g⟩, next := pcAdd last.pc n }
        let os := is.map (runItem ex s.pool s2)
        match (os.find? (misfielded s2)).or (os.find? (stopped s2)) with
        | some o => o
        | none => runChain ex s.pool is s2

/-- The same, once the party's vault writes allow it. -/
def issueWith (ex : Meaning) (s : State) : Host.Outcome State Fault Refusal := s.afterVaults (issueChain ex s)

end Sys2Proof.Machine
end

