-- ==== Sys2Proof/Machine/Place.lean ====
section
/-! DEFINITION. A program placed from outside the machine: one block of one group on core 0, its code page and the words
of one packet (log entry 15). -/

namespace Sys2Proof.Machine

/-- Kernel of a placed block: code base 0x1000, the largest register and tile allocation. -/
def placedKernel : Kernel := { regs := 96, accn := 10, tile4k := 128, cbase := 0x1000 }

/-- A block of one group on core 0 with a packet of code at virtual address 0x1000, mapped to physical 0x1000, in
context 0 of interface 0, with every word of the packet that w does not give zero. -/
def State.place (s : State) (nbits w : Nat) : State :=
  let g : Group :=
    { live := true, bid := 1, tab := [(0, { valid := true, mask := Mask.all, dom := Mask.all, since := s.clock })] }
  let b : Block := { live := true, slots := [0], kern := placedKernel, tileSize := 0x80000 }
  let t : TlbEntry := { unit := 0, asid := 0, va := 0x1000, lg := 12, pa := 0x1000, r := true, w := true, x := true }
  ({ s with
    off := false
    agenda := []
    sched := []
    decA := none
    groups := [(0, g)]
    blocks := [(1, b)]
    ctxs := [(0, { cstate := .live, feat0 := 0x3FF0101, feat1 := 1 })]
    coh := []
    l1 := []
    wtq := []
    tlb := [t]
    rdymap := s.rdymap ||| (0xFF <<< 20) ||| 0xFFFF } : State).setMemBytes 0x1000 (toBytes 12 (w % 2 ^ nbits))

end Sys2Proof.Machine
end

