-- ==== Sys2Proof/Machine/Sched.lean ====
section
/-! DEFINITION. What the machine does next: the actions of hardware that need no instruction, the choice of the fragment
that issues, and the passing of time (R30, R33, R55, R108; log entries 7 and 10). -/

namespace Sys2Proof.Machine

/-! ### Actions of groups and Loupe threads -/

/-- The first element of a list that meets a condition, and what is done for it. -/
def firstOf {α : Type} (xs : List α) (p : α → Bool) (f : α → Host.Outcome State Fault Refusal) :
    Option (Host.Outcome State Fault Refusal) := (xs.find? p).map f

/-- An enabled action of one entry: a step of its deferral record, waiting at its RPC, resuming (R31, R33, R35). -/
def State.entryAct (s : State) (gid i : Nat) : Option (Host.Outcome State Fault Refusal) :=
  let g := s.group gid
  if g.live && g.atDefer i then some (execDeferralAdvance gid i s)
  else if g.atRpc i then some (.next (s.waitAt gid i))
  else if s.canResume gid i then some (execParkedResume gid i s)
  else none

/-- An enabled action of a group: an event, its entries, fusion, its records. -/
def State.groupAct (s : State) (gid : Nat) : Option (Host.Outcome State Fault Refusal) :=
  let g := s.group gid
  if s.canTake gid then some (execAsyncEventTaken gid s)
  else (g.tab.findSome? fun c => s.entryAct gid c.1).or <|
    (firstOf (List.range 8) (fun t => g.live && g.canFuse t) fun t => execFragmentFusion gid t s).or <|
    (firstOf (List.range 4) (fun r => g.live && g.canFuseRec r) fun r => execRecordFusion gid r s).or <|
    (firstOf (List.range 4) (fun r => s.canSend gid r) fun r => execHeldLaneSend gid r s).or <|
    if g.expired.isEmpty then none else some (execRejoinTimeout gid s)

/-- An enabled action of a Loupe thread: resuming, recall, rejoin. -/
def State.threadAct (s : State) (tid : Nat) : Option (Host.Outcome State Fault Refusal) :=
  if s.canRecall tid then some (execRecall tid s)
  else if s.canRejoin tid then some (execRejoin tid s)
  else if s.canResume tid 0 then some (execParkedResume tid 0 s)
  else none

/-- An action of a party that needs no instruction, if one is enabled. -/
def State.partyAct (s : State) (gid : Nat) : Option (Host.Outcome State Fault Refusal) := match (s.group gid).kind with
  | .loupe _ _ _ => s.threadAct gid
  | .user | .agent => s.groupAct gid

/-- The next action of the hardware: a directory message in flight, else an action of a party. -/
def State.internal (s : State) : Option (Host.Outcome State Fault Refusal) :=
  if s.net.isEmpty then s.groups.findSome? fun c => s.partyAct c.1 else some (.next (s.deliverFirst fun _ => true))

/-! ### Work of the units -/

/-- Work of the memory system: buffered stores, vault accesses and scrubs, window flushes (R77, R79, R83, R90). -/
def State.memWork (s : State) : List (State → State) :=
  ((s.wtq.map (·.core)).eraseDups.map fun c s => State.wtOne s c)
    ++ (s.vq.map fun w s => if w.performed then { s with vq := s.vq.erase w } else State.vaultOne s w.gid w.vault)
    ++ ((s.vown.filter fun c => c.2.scrub).map fun c s =>
      { s with vown := s.vown.upd Vown.reset c.1 fun o => { o with scrub := false } })
    ++ ((s.win.filter fun c => c.2.busy).map fun c s => s.windowFlush c.1)

/-- Work of the engines and ring units (R105, R263, R268). -/
def State.engineWork (s : State) : List (State → State) :=
  (s.blocks.flatMap fun b => (b.2.tc.flatMap fun t => t.2.pend.flatMap fun p =>
      [fun s => s.engineRun b.1 t.1 p.num, fun s => s.engineFault b.1 t.1 p.num]) ++ [fun s => s.engineIdle b.1])
    ++ s.rings.flatMap fun r => r.2.pend.map fun i s => s.ringPublish r.1 i

/-- A decrement is taken from the list and applied; one that must wait stays. -/
def State.takeDec (s : State) (d : Dec) : State := (({ s with decs := s.decs.erase d } : State).applyDec d).getD s

/-- Work of the completion engine and of admission (R328 to R334, R337, R343, R350). -/
def State.queueWork (s : State) : List (State → State) :=
  (s.decs.map fun d s => s.takeDec d)
    ++ (s.ends.map fun r s => (({ s with ends := s.ends.erase r } : State).remain r).getD s)
    ++ (s.pkts.flatMap fun p =>
      [fun s => if s.fenceDone p.1 && p.2.st == .fence then (s.fenceq p.1).getD s else s,
       fun s => if s.pktIs p.1 3 && p.2.st == .running then (s.signal p.1).getD s else s])
    ++ (s.rlists.map fun l s => s.setRlist (l.1 / 4) (l.1 % 4) (RList.flush l.2.waiting.length l.2))
    ++ (s.queues.flatMap fun q =>
      [fun s => s.admitNext (q.1 / 32) (q.1 % 32), fun s => s.token false (q.1 / 32) (q.1 % 32)])

/-- A bit of a bitmap whose word waited is cleared (R369). -/
def State.retryFree (s : State) (x : Nat × Nat) : State :=
  ({ s with frees := s.frees.erase x } : State).returnArea 576 (x.1 / 256) (x.1 % 256) x.2

/-- Work of the start mailboxes, of resuming contexts, of ending ones, and accesses that waited (R348, R362, R363, R367,
R369, R378). -/
def State.ctxWork (s : State) : List (State → State) :=
  (s.mail.map fun m s => s.takeStarts m.1)
    ++ (s.cohorts.map fun c s => s.resumeCohort c.1 ((s.partCores (s.block c.1).vi).headD 0))
    ++ (s.ctxs.flatMap fun c => [fun s => s.flushRecords (c.1 / 256) (c.1 % 256),
        fun s => s.token true (c.1 / 256) (c.1 % 256)])
    ++ (s.frees.map fun x s => s.retryFree x)
    ++ s.invs.map fun i s => s.invDone i.1 i.2

/-- Work of the management plane (R20, R388, R392, R395, R416). -/
def State.planeWork (s : State) : List (State → State) :=
  [State.keyDone, State.endFailed] ++ ((List.range 8).flatMap fun d => [fun s => s.drained d, fun s => s.rebuilt d])
    ++ s.power.droop.map fun c s => s.closeDroop c.1

/-- Claim passes of the agents. -/
def State.agentWork (s : State) : List (State → State) :=
  (s.groups.filter fun c => c.2.kind == .agent).map fun c s => s.agentPass (coreOf c.1)

/-- The first piece of work that changes something. -/
def firstChange (s : State) : List (State → State) → Option State
  | [] => none
  | f :: t => if f s = s then firstChange s t else some (f s)

/-- Work of the units, from the k-th kind on. -/
def State.background (s : State) (k : Nat) : Option State :=
  let kinds := [State.memWork, State.engineWork, State.queueWork, State.ctxWork, State.planeWork, State.agentWork]
  (kinds.drop k ++ kinds.take k).findSome? fun w => firstChange s (w s)

/-- Every sixteenth step the units come first. -/
def State.unitsFirst (s : State) : Option State := if s.clock % 16 = 15 then s.background (s.clock / 16 % 6) else none

/-- Nothing can issue: work of the units; where there is none, the detectors' exchange (R358). -/
def State.idle (s : State) : State := match s.background 0 with
  | some s => s
  | none => if s.nodes.isEmpty && s.wnodes.isEmpty then s else s.exchange

/-! ### The choice of a fragment (R29, R30) -/

/-- A fragment of the group that is not parked, waiting or held. -/
def Group.canIssue (g : Group) (i : Nat) : Bool :=
  g.live && !g.frozen && (g.ent i).valid && ((g.ent i).st == .ready || (g.ent i).st == .recalled)

/-- Party c is a Loupe thread, which issues on the Loupe and not on its group's core. -/
def Cur.onLoupe (c : Cur) : Bool := decide (8704 ≤ c.gid)

/-- The fragment whose sweep holds a core's X pipe (R208). -/
def State.sweeper (s : State) (core : Nat) : Option Cur :=
  s.groups.findSome? fun g =>
    if g.1 / 17 = core ∧ g.1 < 8704 then
      (g.2.tab.find? fun e => e.2.valid && e.2.wait.holdsPipe).map fun e => ⟨g.1, e.1⟩
    else none

/-- Opcodes of the word or chain at which a fragment stands (R132). -/
def State.opsAt (s : State) (c : Cur) : List Nat :=
  let t := { s with cur := c }
  match State.fetchChain t.pool t.e.cont.isSome 3 t.e.pc t with
  | (_, .ok is) => is.map Item.op
  | _ => []

/-- Pipes that it needs. -/
def State.pipesAt (s : State) (c : Cur) : List Pipe := (s.opsAt c).filterMap pipeOf

/-- Its pipe accepts what the fragment would issue: no sweep holds the X pipe (R30). -/
def State.accepted (s : State) (c : Cur) : Bool := match s.sweeper (c.gid / 17) with
  | some h => h == c || c.onLoupe || !(s.pipesAt c).contains .x
  | none => true

/-- Fragments that can issue, with the time since which each is ready. -/
def State.readyList (s : State) : List (Nat × Cur) :=
  (s.groups.flatMap fun c => c.2.tab.filterMap fun t =>
    if c.2.canIssue t.1 then some (t.2.since, (⟨c.1, t.1⟩ : Cur)) else none).filter fun p => s.accepted p.2

/-- The oldest of the ready fragments. -/
def oldest : List (Nat × Cur) → Option (Nat × Cur)
  | [] => none
  | a :: t => match oldest t with
    | none => some a
    | some b => some (if a.1 ≤ b.1 then a else b)

/-- What decoder A of a core takes (R30): the slot-16 agent where four cycles have passed or nothing else is ready, else
the oldest ready fragment. -/
def State.decoderA (s : State) (ready : List (Nat × Cur)) (core : Nat) : Option Cur :=
  let mine := ready.filter fun p => p.2.gid / 17 == core && !p.2.onLoupe
  let others := mine.filter fun p => p.2.gid % 17 != 16
  match mine.find? fun p => p.2.gid % 17 == 16 with
  | some a => if s.cool.get 0 core = 0 || others.isEmpty then some a.2 else (oldest others).map Prod.snd
  | none => (oldest others).map Prod.snd

/-- Two masks have beats whose active physical lanes are disjoint (R24, R29). -/
def beatsApart (m n : Mask) : Bool :=
  m == 0 || n == 0 || (List.range 3).any fun i => (List.range 3).any fun j =>
    let a := m.extractLsb' (32 * i) 32
    let b := n.extractLsb' (32 * j) 32
    a != 0 && b != 0 && a &&& b == 0

/-- Decoder B may issue a fragment in the cycle in which decoder A has just issued one (R29); neither of the two may be
at a lane instruction (R200). -/
def State.beside (s : State) (c : Cur) : Bool := match s.decA with
  | some (a, pc, m) =>
    let e := (s.group a.gid).ent a.ent
    let at' := s.setGroup a.gid ((s.group a.gid).setEnt a.ent { e with pc := pc, cont := none })
    a.gid / 17 == c.gid / 17 && a != c && beatsApart m ((s.group c.gid).ent c.ent).mask
      && ((at'.pipesAt a).all fun p => p == .v || !(s.pipesAt c).contains p)
      && (at'.opsAt a ++ s.opsAt c).all fun op => !laneOp op
  | none => false

/-- A ready fragment that may issue now: of a Loupe, or what decoder A or B takes. -/
def State.mayIssue (s : State) (ready : List (Nat × Cur)) (c : Cur) : Bool :=
  ready.any (fun p => p.2 == c) && (c.onLoupe || s.decoderA ready (c.gid / 17) == some c || s.beside c)

/-- The fragment that issues: the head of the given order while it may, else the oldest that decoder A of a core or a
Loupe takes (log entry 7). -/
def State.pick (s : State) : Option (Cur × List Cur) :=
  let ready := s.readyList
  let next := (oldest (ready.filter fun p => p.2.onLoupe || s.decoderA ready (p.2.gid / 17) == some p.2)).map Prod.snd
  match s.sched with
  | c :: t => if s.mayIssue ready c then some (c, t) else next.map fun p => (p, t)
  | [] => next.map fun p => (p, [])

/-- The decoders take note of what issues (R29, R30). -/
def State.issuing (s : State) (c : Cur) (rest : List Cur) : State :=
  let core := c.gid / 17
  let s := { s with cur := c, sched := rest }
  if c.onLoupe then { s with decA := none }
  else if s.decoderA s.readyList core = some c then
    { s with
      decA := some (c, s.e.pc, s.e.mask)
      cool := if c.gid % 17 = 16 then s.cool.set 0 core 3 else s.cool.upd 0 core (· - 1) }
  else { s with decA := none }

/-! ### Time (R55, R108, R418; log entry 10) -/

/-- Step to which a cluster's clock is stretched (R416, R417). -/
def Power.step (p : Power) (clu : Nat) : Nat := 
  Nat.max (Nat.max (p.droop.get {} clu).k p.capS.k) ((p.therm.map Prod.snd).foldl Nat.max 0)

/-- Time spent at each step above 0. -/
def Power.passTime (n : Nat) (p : Power) : Power :=
  let ks := ((List.range 64).map fun c => (c, p.step c)).filter fun c => c.2 != 0
  if ks.isEmpty then p else { p with atK := ks.foldl (fun m c => m.upd 0 (16 * c.1 + c.2) (· + n)) p.atK }

/-- Nanoseconds pass at every counter. -/
def State.passTime (s : State) (n : Nat) : State :=
  { s with
    times := (timeKeys.map fun k => (k, s.times.get 0 k + BitVec.ofNat 64 n)).filter fun c => c.2 != 0
    power := s.power.passTime n }

/-- Cycles pass for a running record of a resident group. -/
def Rec.passCycles (n : Nat) (c : Rec) : Rec :=
  if c.valid && !c.stopped then { c with timer := c.timer + BitVec.ofNat 32 n } else c

def State.passCycles (s : State) (n : Nat) : State :=
  { s with groups := s.groups.map fun c => (c.1, { c.2 with recs := c.2.recs.map fun r => (r.1, r.2.passCycles n) }) }

/-- Events that take place without module power: its return, and the host's accesses to its own memory (log entry 6). -/
def happensOff : Instr → Bool
  | .powerGood | .hostMemoryAccess _ _ _ _ => true
  | _ => false

/-! ### Capacities (R10, R16, R376; log entry 35) -/

/-- Lines, or entries, that a cache holds beyond its size, where it does: the numbers of the units over their size. -/
def overfull (units : List Nat) (cap : Nat → Nat) : Option Nat :=
  units.eraseDups.find? fun u => decide (cap u < units.count u)

/-- Lines of a core's L1, of a cluster cache, of an LLC (R10, R16). -/
def lineCap (u : Nat) : Nat := if u < 64 then 65536 else 2 ^ 20

/-- Entries of a core's and of a cluster's TLB (R376). -/
def tlbCap (u : Nat) : Nat := if u < 512 then 256 else 4096

/-- One of a list, by a free value. -/
def State.victim {α : Type} (s : State) (xs : List α) : Option α := xs[(Config.freeWord s.free).toNat % xs.length]?

/-- A cache that holds more than its size gives up a line or an entry, a free one; none where none does. -/
def State.evictOne (s : State) : Option State :=
  let s' : State := { s with free := s.free + 1 }
  match overfull (s.l1.map fun c => c.1 / 2 ^ 41) (fun _ => 1024),
      overfull ((s.coh.map fun c => c.1 / 2 ^ 41).filter fun u => decide (u < 64 ∨ 80 ≤ u)) lineCap,
      overfull (s.tlb.map (·.unit)) tlbCap with
  | some core, _, _ => (s.victim (s.l1.filter fun c => c.1 / 2 ^ 41 == core)).map fun v =>
      { s' with l1 := s.l1.filter fun c => c.1 != v.1 }
  | none, some u, _ => (s.victim (s.coh.filter fun c => c.1 / 2 ^ 41 == u)).map fun v =>
      if u < 64 then s'.evictCluster u (v.1 % 2 ^ 41) else s'.evictLlc (v.1 % 2 ^ 41)
  | none, none, some u => (s.victim (s.tlb.filter fun e => e.unit == u)).map fun v => { s' with tlb := s.tlb.erase v }
  | none, none, none => none

/-- Evict until every cache is within its size. -/
def State.evictAll : Nat → State → State
  | 0, s => s
  | f + 1, s => match s.evictOne with
    | none => s
    | some s => State.evictAll f s

/-- What has outgrown its caches leaves them. -/
def State.trim (s : State) : State :=
  if s.l1.length ≤ 1024 ∧ s.coh.length ≤ 65536 ∧ s.tlb.length ≤ 256 then s
  else State.evictAll (s.l1.length + s.coh.length + s.tlb.length) s

/-! ### Errors of SRAM (R413, R414; log entry 53) -/

/-- The executing party's accesses use the SRAM of a place. -/
def State.uses (s : State) : EccPlace → Bool
  | .hbm _ => false
  | .sram part unit _ => match part.val with
    | 0 | 1 | 2 | 3 => !s.g.isLoupe && unit % 512 == s.core
    | 4 => unit % 64 == s.clu
    | 8 => s.g.isLoupe && unit % 64 == s.clu
    | 5 => unit % 4 == s.clu / 16
    | 6 => if unit < 8 then unit == s.clu / 8 else unit % 4 == s.clu / 16
    | 7 => unit % 8 == s.clu / 8
    | _ => false

/-- Standing errors that the accesses of the party that issues meet; which words they touch is a free value. -/
def State.sramMet (s : State) : List (EccPlace × Nat) :=
  ((s.latent.zip (List.range s.latent.length)).filter fun x => s.uses x.1.1 && Config.touches s.clock x.2).map Prod.fst

/-- The word or chain is issued by f; an uncorrectable error that it meets ends the context with code 0x41 (R414), and an
agent has none. -/
def State.withSram (s : State) (f : State → Host.Outcome State Fault Refusal) : Host.Outcome State Fault Refusal :=
  match s.sramMet with
  | [] => f s
  | es => match (if s.g.isAgent then none else es.find? fun e => !correctable e) with
    | none => f { s with met := s.met ++ es }
    | some e => .next ((s.logEcc e s.blk.asid).endContext s.blk.vi s.blk.ctx s.core 0x41)

/-- The end of a step: what errors have been met is logged, the chain is over, the caches are within their sizes, and
time has passed. -/
def State.finish (s : State) : State :=
  let n := s.clock
  { (((({ s.reportMet with chain := none } : State).trim).passTime (Config.tick n)).passCycles (Config.cycles n)) with clock := n + 1 }

end Sys2Proof.Machine
end

