-- ==== Sys2Proof/Machine/Step.lean ====
section
/-! DEFINITION. One step of the package: the next event of the agenda, an action of the hardware, work of a unit, or the
issue of one fragment's next word or chain. -/

namespace Sys2Proof.Machine

/-- What happens in a step, before time passes. -/
def State.act (s : State) : Host.Outcome State Fault Refusal :=
  match s.agenda with
  | e :: t => exec e { s with agenda := t }
  | [] =>
    match s.internal with
    | some o => o
    | none =>
      match s.unitsFirst with
      | some s => .next s
      | none =>
        match s.pick with
        | some (c, t) => (s.issuing c t).withSram (issueWith exec)
        | none => .next s.idle

/-- A step without module power: the next event, which passes without effect unless it takes place so. -/
def State.offAct (s : State) : Host.Outcome State Fault Refusal :=
  match s.agenda with
  | [] => .fault .powerOff
  | e :: t => if happensOff e then exec e { s with agenda := t } else .next { s with agenda := t }

/-- One step. -/
def step (s : State) : Host.Outcome State Fault Refusal :=
  andThen (if s.off then s.offAct else s.act) fun t => .next t.finish

/-- The state in which the next step fetches and runs the given instruction. -/
def State.withFetchWord (s : State) (nbits w : Nat) : State := s.place nbits w

end Sys2Proof.Machine
end

