-- ==== Sys2Proof/Safety.lean ====
section
/-! DEFINITION. What the statements call a good state and a safe run, and the words in which they say what an
instruction changes and what it leaves alone. -/

namespace Sys2Proof.Machine

/-- A state's memories are in canonical form: physical memory and the vaults. -/
def State.memWf (s : State) : Bool := s.mem.wf memDefault && s.vault.wf 0

/-- The instruction completes in a next state of which P holds. -/
def Completes (i : Instr) (s : State) (P : State → Prop) : Prop := ∃ t, exec i s = .next t ∧ P t

/-- Every byte of memory reads as before: home memory, every unit's copy of every line, every core's L1, the stores and
vault writes in flight, the vaults, and every block's tile memory. -/
structure SameMemory (s t : State) : Prop where
  home : ∀ a, t.memByte a = s.memByte a
  copies : ∀ u line, t.copy u line = s.copy u line
  l1 : ∀ core line, t.l1Line core line = s.l1Line core line
  stores : t.wtq = s.wtq
  vaults : ∀ a, t.vault.get 0 a = s.vault.get 0 a
  vaultWrites : t.vq = s.vq
  tile : ∀ b a, (t.block b).tile.get 0 a = (s.block b).tile.get 0 a

/-- Nothing differs outside the executing party's group: no other group, block, counter, ring, context, queue,
register of a unit, or byte of memory. -/
structure OnlyGroup (s t : State) : Prop where
  rest : t = { s with groups := t.groups }
  groups : ∀ i, i ≠ s.cur.gid → t.group i = s.group i
  memory : SameMemory s t

/-- The instructions that recall a Loupe thread (R60), and the two that leave a handler, which a Loupe thread never runs. -/
def recallsThread : Instr → Bool
  | .qswx _ _ _ | .qswy _ _ _ | .qswd _ _ _ | .qbc _ _ _ _ | .lshfl _ _ _ | .lbc _ _ _ | .lscanAdd _ _ _ _
  | .lscanMax _ _ _ _ | .lredAdd _ _ _ | .lredMax _ _ _ | .lredMin _ _ _ | .lredOr _ _ _ | .ballot _ _ | .syncm _
  | .vtos _ _ _ | .dxenc _ _ _ _ _ | .bar _ | .cbar | .swp _ _ _ _ | .swpr _ _ _ _ _ | .swpc _ _ | .itrst
  | .mma _ | .mmac _ _ | .mzero _ _ | .mrd _ | .mwr _ | .ldac _ _ _ _ _ | .stac _ _ _ _ _
  | .pcpy _ _ _ _ _ _ _ | .pcpyi _ _ _ | .pcpys _ _ _ | .padd _ _ _ _ _ _ | .zrst _ | .zprl _ | .zcpy _ | .ztbl _ _ _
  | .tcinc _ _ _ | .qpubClaim _ _ _ | .qpubPub _ _ _ | .qrel _ _ _ | .qerr _ _ | .qstat _ _ _ | .qrestart _ _ _
  | .waitq _ _ _ _ | .temit _ _ _ _ | .tdone _ _ _ | .swr _ _ | .trap _ | .bkpt | .tret | .hdone => true
  | _ => false

/-- The Zoom instructions, which a context without their feature does not have (R169, R272). -/
def zoomClass : Instr → Bool
  | .zrst _ | .zprl _ | .zcpy _ | .ztbl _ _ _ => true
  | _ => false

/-- An entry as the fragment in it goes on at a program counter, its masks and the rest as they were. -/
def Entry.onAt (e : Entry) (pc : PC) (now : Nat) : Entry :=
  { e with pc := pc, st := .ready, wait := .none, flagged := false, cont := none, after := none, pre := none, since := now }

/-- The executing fragment goes on at a program counter; every other entry is as before. -/
structure Went (s t : State) (pc : PC) : Prop where
  ent : t.e = s.e.onAt pc s.clock
  others : ∀ i, i ≠ s.cur.ent → t.g.ent i = s.g.ent i

/-- The instruction only moves the fragment to a program counter. -/
def Moves (i : Instr) (s : State) (pc : PC) : Prop :=
  Completes i s fun t => OnlyGroup s t ∧ Went s t pc ∧ t.g = { s.g with tab := t.g.tab }

/-- Scalar register d took a value, and the fragment went on at a program counter: for s0 to s60 the register's file
takes it; for s61 to s63 the fragment's visible mask does (R27). Every other scalar register, and everything else, is as
before. -/
structure SetS (s t : State) (d : Nat) (x : Word64) (pc : PC) : Prop where
  file : d < 61 → t.g.s.get 0 d = x ∧ Went s t pc
  mask : 61 ≤ d → t.e = (s.e.writeMask (d - 61) x).onAt pc s.clock ∧ ∀ i, i ≠ s.cur.ent → t.g.ent i = s.g.ent i
  others : ∀ r, r ≠ d ∨ 61 ≤ d → t.g.s.get 0 r = s.g.s.get 0 r
  group : t.g = { s.g with s := t.g.s, tab := t.g.tab }

/-- The instruction sets scalar register d and goes on at the next word. -/
def SetsS (i : Instr) (s : State) (d : Nat) (x : Word64) : Prop :=
  Completes i s fun t => OnlyGroup s t ∧ SetS s t d x s.next

/-- The instruction gives the group's system registers new values and goes on; nothing else changes. -/
def SetsSr (i : Instr) (s : State) (sr : SysRegs) : Prop :=
  Completes i s fun t => OnlyGroup s t ∧ Went s t s.next ∧ t.g = { s.g with sr := sr, tab := t.g.tab }

/-- Opcode of the first word of an instruction's encoding: bits 30 to 21 (R134). -/
def opcodeOf (i : Instr) : Nat := ((encode i).headD 0).toNat / 2 ^ 21 % 1024

/-- Word k of a w-bit pattern as v-registers hold it (R110): a pair for 64 bits, else the value extended by its type. -/
def regWord (signed : Bool) (w x k : Nat) : Word32 :=
  if w = 64 then BitVec.ofNat 32 (x / 2 ^ (32 * k)) else BitVec.ofNat 32 (extend signed w x)

/-- v-registers a w-bit result takes. -/
def regCount (w : Nat) : Nat := if w = 64 then 2 else 1

/-- v-registers d to d + n - 1 took f in the lanes of m and kept their lanes outside m; flags were ORed into
sr.fpstat; every other register is as before. -/
structure SetV (s t : State) (m : Mask) (d n : Nat) (f : Nat → Nat → Word32) (fl : Flags) : Prop where
  value : ∀ k < n, ∀ l < 96, (t.g.v.get Row.zero (d + k)).at l =
    if Mask.has m l then f k l else (s.g.v.get Row.zero (d + k)).at l
  others : ∀ r, r < d ∨ d + n ≤ r → t.g.v.get Row.zero r = s.g.v.get Row.zero r
  flags : t.g.sr = { s.g.sr with fpstat := s.g.sr.fpstat ||| fl }

/-- The instruction sets v-registers in the lanes of m, raises flags and goes on; nothing else changes. -/
def SetsV (i : Instr) (s : State) (m : Mask) (d n : Nat) (f : Nat → Nat → Word32) (fl : Flags) : Prop :=
  Completes i s fun t =>
    OnlyGroup s t ∧ Went s t s.next ∧ SetV s t m d n f fl ∧
      t.g = { s.g with v := t.g.v, tab := t.g.tab, sr := t.g.sr }

/-- A lane-wise result of w bits in the active lanes, with the flags of the active non-helper lanes (R116, R180). -/
def SetsLanes (i : Instr) (s : State) (signed : Bool) (w : Nat) (d : Fin 96) (f : Nat → Nat × Flags) : Prop :=
  SetsV i s s.active d.val (regCount w) (fun k l => regWord signed w (f l).1 k) (s.laneFlags fun l => (f l).2)

/-- The same without flags. -/
def SetsInts (i : Instr) (s : State) (signed : Bool) (w : Nat) (d : Fin 96) (f : Nat → Nat) : Prop :=
  SetsV i s s.active d.val (regCount w) (fun k l => regWord signed w (f l) k) 0

/-- The instruction sets predicate p in the active lanes, raises flags and goes on; nothing else changes. -/
def SetsP (i : Instr) (s : State) (p : Nat) (f : Nat → Bool) (fl : Flags) : Prop :=
  Completes i s fun t =>
    OnlyGroup s t ∧ Went s t s.next ∧
      (∀ l < 96, Mask.has (t.g.p.get 0 p) l = if Mask.has s.active l then f l else Mask.has (s.g.p.get 0 p) l) ∧
      (∀ r, r ≠ p → t.g.p.get 0 r = s.g.p.get 0 r) ∧
      t.g.sr = { s.g.sr with fpstat := s.g.sr.fpstat ||| fl } ∧
      t.g = { s.g with p := t.g.p, tab := t.g.tab, sr := t.g.sr }

/-- The instruction raises a synchronous trap at its word, and has none of its effect. -/
def Traps (i : Instr) (s : State) (t : Trap) : Prop := exec i s = .next ((s.takeTrap s.here t).failed t)

/-- The executing party is a group in slots 0 to 15, outside a handler, and its word is issued alone. -/
structure Plain (s : State) : Prop where
  user : s.g.kind = .user
  noHandler : s.g.hnd = none
  alone : s.chain = none

/-- Every address of a list has passed its checks, and none lies on a line that holds an uncorrectable error. -/
def AllOk (s : State) (rs : List (Nat × Word64 × LRes)) : Prop :=
  (∀ r ∈ rs, ∃ loc, r.2.2 = .ok loc) ∧ s.badLine rs = none

/-- Memory may have been translated, cached, buffered or drained, a vault scrub may have ended, and a constant cache may
have been read: nothing else differs, but for the structures of the firmware region and the context tables, which an
agent's accesses reach. -/
def MemOnly (s t : State) : Prop :=
  t = { s with
    mem := t.mem, coh := t.coh, l1 := t.l1, wtq := t.wtq, net := t.net, vault := t.vault, vq := t.vq, vown := t.vown
    pred := t.pred, tlb := t.tlb, lastAth := t.lastAth, dqs := t.dqs, bad := t.bad, latent := t.latent, met := t.met
    times := t.times, log := t.log
    consts := t.consts, free := t.free
    rlists := t.rlists, lrecs := t.lrecs, batches := t.batches, mail := t.mail, occ := t.occ, ctxs := t.ctxs } ∧
  (s.g.isAgent = false → t.rlists = s.rlists ∧ t.lrecs = s.lrecs ∧ t.batches = s.batches ∧ t.mail = s.mail ∧
    t.occ = s.occ ∧ t.ctxs = s.ctxs)

/-- The same, beside the executing group's own changes. -/
def MemAndGroup (s t : State) : Prop :=
  MemOnly { s with groups := t.groups } t ∧ ∀ i, i ≠ s.cur.gid → t.group i = s.group i

/-- The instruction sets v-registers in the lanes of m from memory and goes on; tile memory, registers, blocks and
everything else outside the memory system stand. -/
def LoadsV (i : Instr) (s : State) (m : Mask) (d n : Nat) (f : Nat → Nat → Word32) : Prop :=
  Completes i s fun t =>
    MemAndGroup s t ∧ Went s t s.next ∧ SetV s t m d n f 0 ∧
      t.g = { s.g with v := t.g.v, tab := t.g.tab }

/-- The instruction sets a scalar register from memory and goes on. -/
def LoadsS (i : Instr) (s : State) (d : Nat) (x : Word64) : Prop :=
  Completes i s fun t => MemAndGroup s t ∧ SetS s t d x s.next

/-! ### Sweeps in tile memory -/

/-- The elements of a record lie in the block's own tile memory, aligned. -/
def State.inTile (s : State) (t : Iter) : Prop :=
  t.sp = .tile ∧ ∀ cs, List.Forall₂ (· < ·) cs t.ext →
    (t.addr cs).toNat % (t.ty.width / 8) = 0 ∧ (t.addr cs).toNat + t.ty.width / 8 ≤ s.blk.tileSize

/-- The element of a record at some coordinates, from tile memory. -/
def State.tileEl (s : State) (t : Iter) (cs : List Nat) : Nat :=
  ofBytes ((List.range (t.ty.width / 8)).map fun k => s.blk.tile.get 0 ((t.addr cs).toNat + k))

/-- Byte k of tile memory belongs to an element. -/
def Iter.covers (t : Iter) (cs : List Nat) (k : Nat) : Prop :=
  (t.addr cs).toNat ≤ k ∧ k < (t.addr cs).toNat + t.ty.width / 8

/-- No element of a record overlaps one of another record. -/
def Iter.apart (t u : Iter) : Prop :=
  ∀ cs cs' k, List.Forall₂ (· < ·) cs t.ext → List.Forall₂ (· < ·) cs' u.ext → t.covers cs k → ¬u.covers cs' k

/-- No two elements of a record overlap. -/
def Iter.distinct (t : Iter) : Prop :=
  ∀ cs cs' k, List.Forall₂ (· < ·) cs t.ext → List.Forall₂ (· < ·) cs' t.ext → cs ≠ cs' → t.covers cs k →
    ¬t.covers cs' k

/-- A sweep into tile memory is done: the fragment went on with VALID 0; flags may have been raised; no byte outside the
elements of its destination, and nothing else, has changed. -/
structure Swept (s t : State) (d : Iter) : Prop where
  went : Went s t s.next
  valid : t.g.sweep.valid = false
  flags : t.g.sr = { s.g.sr with fpstat := t.g.sr.fpstat } ∧ s.g.sr.fpstat &&& ~~~ t.g.sr.fpstat = 0
  group : t.g = { s.g with sweep := t.g.sweep, sr := t.g.sr, tab := t.g.tab }
  groups : ∀ i, i ≠ s.cur.gid → t.group i = s.group i
  blocks : ∀ i, i ≠ s.g.bid → t.block i = s.block i
  block : t.blk = { s.blk with tile := t.blk.tile }
  rest : t = { s with groups := t.groups, blocks := t.blocks }
  tile : ∀ k, (∀ cs, List.Forall₂ (· < ·) cs d.ext → ¬d.covers cs k) → t.blk.tile.get 0 k = s.blk.tile.get 0 k

/-- The instruction acts on memory alone and goes on. -/
def Stores (i : Instr) (s : State) (P : State → Prop) : Prop :=
  Completes i s fun t => MemAndGroup s t ∧ Went s t s.next ∧ t.g = { s.g with tab := t.g.tab } ∧ P t

end Sys2Proof.Machine

namespace Sys2Proof

/-- A run of k steps ends in a state: no fault and no refusal on the way. -/
def Safe (k : Nat) (s : Machine.State) : Prop := ∀ n ≤ k, ∃ t, core.run n s = .next t

end Sys2Proof
end

