-- ==== Sys2Proof/Certificates/Slice0/Obligations.lean ====
section
/-! DEFINITION. The statements about this model, each a proposition that formalises rules of spec/. A value or behaviour
that the model chose is named with its log entry. -/

open Sys2Proof Sys2Proof.Machine


/-! ### Control transfers -/

/-- R144, R155, R156: NOP goes on; BR, and BZ, BNZ and BP on a uniform condition, go to the target where the condition
holds and to the next word where it does not; with no active non-helper lane a lane condition falls through, and bp p7
is taken with any mask. R37, R156: a lane condition that differs between two active non-helper lanes raises the
non-uniform-branch trap at the branch. R144, R147: an unassigned opcode raises the illegal-instruction trap. R159:
JMPI and RET go to the program counter that a scalar holds, CALL to its target, CALLI to a scalar's value read before
the link is written; the link takes the return point, zero-extended. A value with upper bits set or with slot 3 raises
the protection trap with the value, and nothing else happens. -/
def Obligations.ControlTransfers : Prop :=
  (∀ (s : State) (t : Target) (r : Fin 16) (v : Fin 96) (p : Fin 8),
    let there := t.pc s.wordPc
    Moves .nop s s.next ∧ Moves (.br t) s there ∧
    Moves (.bz (.s r) t) s (if s.readS r.val = 0 then there else s.next) ∧
    Moves (.bnz (.s r) t) s (if s.readS r.val = 0 then s.next else there) ∧
    Moves (.bp 7 t) s there ∧
    (s.actNH = 0 → Moves (.bz (.v v) t) s s.next ∧ Moves (.bnz (.v v) t) s s.next ∧
      (p ≠ 7 → Moves (.bp p t) s s.next)) ∧
    (s.actNH ≠ 0 → (∀ l < 96, Mask.has s.actNH l → s.readV v.val l = 0) →
      Moves (.bz (.v v) t) s there ∧ Moves (.bnz (.v v) t) s s.next) ∧
    (s.actNH ≠ 0 → (∀ l < 96, Mask.has s.actNH l → s.readV v.val l ≠ 0) →
      Moves (.bz (.v v) t) s s.next ∧ Moves (.bnz (.v v) t) s there) ∧
    (s.actNH ≠ 0 → (∀ l < 96, Mask.has s.actNH l → Mask.has (s.readP p.val) l) → Moves (.bp p t) s there) ∧
    (s.actNH ≠ 0 → p ≠ 7 → (∀ l < 96, Mask.has s.actNH l → !Mask.has (s.readP p.val) l) → Moves (.bp p t) s s.next)) ∧
  (∀ (s : State) (t : Target) (v : Fin 96) (p : Fin 8) (w : Word32) (j k : Nat),
    Traps (.unassignedOpcode w) s tInstruction ∧
    (j < 96 → k < 96 → Mask.has s.actNH j → Mask.has s.actNH k →
      (s.readV v.val j = 0 → s.readV v.val k ≠ 0 →
        Traps (.bz (.v v) t) s tNonUniform ∧ Traps (.bnz (.v v) t) s tNonUniform) ∧
      (p ≠ 7 → Mask.has (s.readP p.val) j → !Mask.has (s.readP p.val) k → Traps (.bp p t) s tNonUniform))) ∧
  (∀ (s : State) (a d : Fin 64) (l : Fin 16) (t : Target),
    let v := s.readS a.val
    Completes (.call l t) s (fun u => OnlyGroup s u ∧ SetS s u l.val (s.next.zeroExtend 64) (t.pc s.wordPc)) ∧
    (v.toNat < 2 ^ 32 → v.toNat / 2 ^ 30 ≠ 3 →
      Moves (.jmpi a) s (BitVec.ofNat 32 v.toNat) ∧ Moves (.ret a) s (BitVec.ofNat 32 v.toNat) ∧
      Completes (.calli d a) s fun u =>
        OnlyGroup s u ∧ SetS s u d.val (s.next.zeroExtend 64) (BitVec.ofNat 32 v.toNat)) ∧
    (2 ^ 32 ≤ v.toNat ∨ v.toNat / 2 ^ 30 % 4 = 3 →
      Traps (.jmpi a) s (tProt 0 none (some v)) ∧ Traps (.ret a) s (tProt 0 none (some v)) ∧
      Traps (.calli d a) s (tProt 0 none (some v))))

/-! ### Divergence, ejection, EXIT -/

/-- R33, R35, R158: a BRD without ejection. With no lane taken, or none active, the fragment goes on; with every lane
taken it goes to the target. Else, with an allocatable split-table entry, the taken side starts there and the
executing entry keeps the other side; with none, a deferral record takes the taken side; with a full deferral stack
the split-overflow trap is raised. A Loupe thread goes one way. -/
def Obligations.BrdDiverges : Prop :=
  ∀ (s : State) (p : Fin 8) (t : Target) (l : BrdLit), l.ep = false →
    let tk := s.active &&& s.readP p.val
    let nt := s.active &&& ~~~ s.readP p.val
    let there := t.pc s.wordPc
    let x := l.recon.pc s.wordPc
    let rest : Entry := { s.e.onAt s.next s.clock with mask := nt }
    (tk = 0 → Moves (.brd p t l) s s.next) ∧
    (tk ≠ 0 → nt = 0 ∨ s.g.isLoupe → Moves (.brd p t l) s there) ∧
    (tk ≠ 0 → nt ≠ 0 → s.g.isLoupe = false → s.e.valid →
      (∀ f, s.g.alloc = some f → Completes (.brd p t l) s fun u =>
        OnlyGroup s u ∧ u.g = { s.g with tab := u.g.tab } ∧
        u.e = { rest with dom := s.e.dom &&& ~~~ tk, rpc := x, join := f } ∧
        u.g.ent f = { (s.g.ent f).onAt there s.clock with
          valid := true, mask := tk, dom := s.e.dom &&& tk, rpc := x, join := f, srpc := s.e.rpc, sjoin := s.e.join } ∧
        ∀ i, i ≠ s.cur.ent → i ≠ f → u.g.ent i = s.g.ent i) ∧
      (s.g.alloc = none → s.g.defer.length < 8 → Completes (.brd p t l) s fun u =>
        OnlyGroup s u ∧ u.g = { s.g with tab := u.g.tab, defer := u.g.defer } ∧ u.e = rest ∧
        (∀ i, i ≠ s.cur.ent → u.g.ent i = s.g.ent i) ∧
        u.g.defer =
          { owner := s.cur.ent, rpc := x, pc := there, mask := tk, arrived := 0, phase := false } :: s.g.defer) ∧
      (s.g.alloc = none → 8 ≤ s.g.defer.length → Traps (.brd p t l) s tSplit))

/-- R53, R56, R58, R158: a BRD with the eject permit whose index is past the ejection table, or whose entry is not
valid, raises the illegal-encoding trap. With a valid entry, a side qualifies when it has 1 to sr.ejt non-helper lanes;
of two the smaller, or the taken one where they are equal, is ejected, where no handler runs, a record is free, the
Loupe has contexts for its lanes, and its helper lanes find an entry: the record holds the side, the other side goes
on, each ejected lane has a thread at the side's program counter, and the helpers wait there in an entry of the
record's tag. Where one of these fails, or a side is empty, the word does what it does without the permit. Where the
entry's bytes cannot be read, which R53 leaves open, it ends as a scalar load (log entry 68). Other points that the
rules leave open here are the model's own: log entry 24. -/
def Obligations.BrdEjects : Prop :=
  ∀ (s s1 : State) (p : Fin 8) (t : Target) (l : BrdLit),
    let tk := s.active &&& s.readP p.val
    let nt := s.active &&& ~~~ s.readP p.val
    let there := t.pc s.wordPc
    let x := l.recon.pc s.wordPc
    let va := s.blk.kern.ejta + BitVec.ofNat 64 (32 * l.tix.toNat)
    let n := fun (m : Mask) => Mask.count (m &&& ~~~ s.g.helper)
    let ok := fun (m : Mask) => 1 ≤ n m ∧ n m ≤ s.rg.sr.ejt.toNat
    l.ep → s.g.isLoupe = false → s.cur.gid < 16384 → s.active ≠ 0 → s.e.valid →
    (s.blk.kern.ejtn.toNat ≤ l.tix.toNat → Traps (.brd p t l) s tEncoding) ∧
    (l.tix.toNat < s.blk.kern.ejtn.toNat → ∀ r, State.fetchBytes .load 32 va s = (s1, .error r) →
      exec (.brd p t l) s = commit (scalarStop va s r)) ∧
    (∀ bs, l.tix.toNat < s.blk.kern.ejtn.toNat → State.fetchBytes .load 32 va s = (s1, .ok bs) →
      (ejParse s.blk.kern.regs (ofBytes bs) = none → Traps (.brd p t l) s tEncoding) ∧
      ∀ c, ejParse s.blk.kern.regs (ofBytes bs) = some c →
        (tk = 0 ∨ nt = 0 ∨ s.feature 19 = false ∨ ¬ok tk ∧ ¬ok nt ∨ s.g.hnd.isSome ∨ s.g.freeRec = none ∨
            s.freeThreads s.clu = 0 →
          exec (.brd p t l) s = exec (.brd p t { l with ep := false }) s1) ∧
        ∀ (r : Nat) (out rest : Mask) (pcE pcS : PC),
          tk ≠ 0 → nt ≠ 0 → s.feature 19 → s.g.hnd = none → s.g.freeRec = some r →
          (out = tk ∧ rest = nt ∧ pcE = there ∧ pcS = s.next ∧ ok tk ∧ (ok nt → n tk ≤ n nt) ∨
            out = nt ∧ rest = tk ∧ pcE = s.next ∧ pcS = there ∧ ok nt ∧ (ok tk → n nt < n tk)) →
          (s.freeThreads s.clu < n out ∨ out &&& s.g.helper ≠ 0 ∧ s.g.alloc = none →
            exec (.brd p t l) s = exec (.brd p t { l with ep := false }) s1) ∧
          (n out ≤ s.freeThreads s.clu → (out &&& s.g.helper ≠ 0 → s.g.alloc ≠ none) →
            Completes (.brd p t l) s fun u =>
              u.g.recs.get Rec.free r =
                { valid := true, tix := l.tix, rpc := x, srpc := s.e.rpc, sjoin := s.e.join
                  onl := out &&& ~~~ s.g.helper, lin := c.lin, lout := c.lout, pin := c.pin, pout := c.pout } ∧
              u.e = { s.e.onAt pcS s.clock with dom := s.e.dom &&& ~~~ out, mask := rest, rpc := x, join := 8 + r } ∧
              (∀ h, out &&& s.g.helper ≠ 0 → s.g.alloc = some h →
                u.g.ent h = { (s.g.ent h).onAt pcE s.clock with
                  valid := true, mask := out &&& s.g.helper, dom := out &&& s.g.helper, rpc := x, join := 8 + r }) ∧
              ∀ j, Mask.has (out &&& ~~~ s.g.helper) j →
                ∃ tid, (u.group tid).live ∧ (u.group tid).kind = .loupe s.cur.gid r j ∧
                  ((u.group tid).ent 0).pc = pcE ∧ ((u.group tid).ent 0).mask = Mask.one j))

/-- R36, R46, R59, R160: EXIT with no active lane goes on. Otherwise the fragment's active lanes have exited, and the
group goes on while a lane of it is left, and is gone from its slot with its last lane; an entry whose domain is empty
is freed and owns no deferral record; in a handler the context ends with the served event's code; on the Loupe, while
no SYNCM of its group waits, the thread is gone. Points that the rules leave open here are the model's
own: log entry 24. -/
def Obligations.ExitLeaves : Prop :=
  ∀ (s : State),
    (s.active = 0 → Moves .exit s s.next) ∧
    (s.active ≠ 0 → s.g.isLoupe → s.hg.syncm = [] → Completes .exit s fun t => t.g.live = false) ∧
    (s.active ≠ 0 → s.g.isLoupe = false → ∀ h, s.g.hnd = some h →
      exec .exit s = .next (s.endContext s.blk.vi s.blk.ctx s.core h.code)) ∧
    (s.active ≠ 0 → s.g.isLoupe = false → s.g.hnd = none → s.g.syncm = [] →
      let g := s.g.exitLanes s.cur.ent s.active s.next s.clock
      g.exited = s.g.exited ||| s.active ∧
      (s.e.dom &&& ~~~ s.active = 0 → g.ent s.cur.ent = { Entry.free with srpc := s.e.srpc, sjoin := s.e.sjoin } ∧
        ∀ d ∈ g.defer, d.owner ≠ s.cur.ent) ∧
      (s.e.dom &&& ~~~ s.active ≠ 0 → s.g.defer = [] → (g.ent s.cur.ent) =
        { s.e.onAt s.next s.clock with dom := s.e.dom &&& ~~~ s.active, mask := s.e.mask &&& ~~~ s.active }) ∧
      (g.over = false → exec .exit s = .next (s.setG g)) ∧
      (g.over → s.g.live → Completes .exit s fun t => t.g.live = false))

/-! ### Handlers -/

/-- R45, R161, R162, R366, R372: outside a handler TRAP enters the handler of trap vector entry 5, with code 0x20, its
operand and its packet slot in the syndrome, over all the lanes of the group, whose fragments are held and whose
registers stand. In a handler it ends the context; an agent is reset; a missing entry ends the context, and so does a
save area that faults, with code 0x42; while an access to the save area waits, the fragment waits at the word. R61,
R161, R338, R365 to R367: any other synchronous trap goes to the driver: sr.fault takes its code, INFO, lane and packet
slot, sr.faddr its address where it has one; a record of kind 0 with both, the program counter and the places of the
group goes to the context's fault ring, whose write index rises and whose vector is raised, or is held behind a full
ring; the fragments are held; and the context ends with the code as ENDC, at once in a handler, unless its HOLD is set
or the trap is a breakpoint: then it stops, with the group's saving forced. A trap of a Loupe thread recalls its lane;
an agent starts again. Points that the rules leave open here are the model's own: log entry 24. -/
def Obligations.TrapEntersHandler : Prop :=
  (∀ (i : Instr) (s : State) (t : Trap), Traps i s t →
    (s.g.isLoupe → exec i s = .next ((s.recallAt s.cur.gid).failed t)) ∧
    (s.g.isAgent → s.cur.gid = s.core * 17 + 16 → Completes i s fun u =>
      u.g = agentStart s.core { ifn := s.g.sr.ifn, agOut := s.g.sr.agOut, fwbase := s.g.sr.fwbase } s.clock) ∧
    (s.g.kind = .user → s.myCtx.cstate ≠ .free → s.myCtx.cstate ≠ .ending →
      let vi := s.blk.vi
      let n := s.blk.ctx
      let sr := { s.g.sr with
        fault := BitVec.ofNat 64 (t.info.toNat * 2 ^ 48 + t.lane.getD 0x7F * 2 ^ 41 + s.slot % 4 * 2 ^ 32 + t.code.toNat)
        faddr := t.addr.getD s.g.sr.faddr }
      let bytes := toBytes 64 (s.blk.att.toNat * 2 ^ 232 + slotOf s.cur.gid % 32 * 2 ^ 242
        + s.blk.pcore % 512 * 2 ^ 247 + s.blk.area.getD 0 % 2 ^ 16 * 2 ^ 256 + n % 2 ^ 16 * 2 ^ 272
        + s.e.pc.toNat * 2 ^ 288 + sr.faddr.toNat * 2 ^ 320 + sr.fault.toNat * 2 ^ 384
        + (s.times.get 0 (dieOf s.blk.pcore)).toNat * 2 ^ 448)
      let slot := s.myCtx.fltring + BitVec.ofNat 64 (64 * (s.myCtx.fltwr.toNat % 2 ^ s.myCtx.fltlog.toNat))
      let g := { s.g with sr := sr }.setEnt s.cur.ent s.e
      let v := s.setGroup s.cur.gid (if g.hnd.isSome then g else { g.freeze with frozen := true })
      let u := State.trapAt t s s.here
      let done := fun (u : State) =>
        u.g.sr = sr ∧ (s.g.hnd.isSome → u.g.frozen = s.g.frozen ∧ ∀ k, u.g.ent k = s.g.ent k) ∧
        (s.g.hnd = none → u.g.frozen ∧ ∀ k < 8, u.g.ent k = (s.g.ent k).freeze)
      exec i s = .next ((u.trapDone s.blk t.code [s.cur.gid]).failed t) ∧
      ((s.myCtx.recs ≠ [] ∨ s.myCtx.ringFull) →
        done u ∧ u.ctx vi n = { s.myCtx with recs := s.myCtx.recs ++ [bytes] } ∧ u.msix = s.msix) ∧
      (∀ w, s.myCtx.recs = [] → s.myCtx.ringFull = false → v.ctxWrite s.blk.pcore vi n slot bytes = .ok w →
        done u ∧ u.ctx vi n = { s.myCtx with fltwr := s.myCtx.fltwr + 1 } ∧
          u.msix = s.msix ++ [(vi, s.myCtx.vec.toNat)] ∧ ∀ a, u.memByte a = w.memByte a) ∧
      (s.myCtx.recs = [] → s.myCtx.ringFull = false → v.ctxWrite s.blk.pcore vi n slot bytes = .fault →
        (u.ctx vi n).cstate = .ending ∧ (u.ctx vi n).endc = 0x42))) ∧
  (∀ (u : State) (b : Block) (code : BitVec 8) (gid : Nat),
    let c := u.ctx b.vi b.ctx
    (c.cstate = .ending → u.trapDone b code [gid] = u) ∧
    (c.cstate ≠ .free → c.cstate ≠ .ending →
      ((u.group gid).hnd.isSome ∨ c.hold = false ∧ code ≠ 0x0B →
        u.trapDone b code [gid] = u.endContext b.vi b.ctx b.pcore code ∧
        ((u.trapDone b code [gid]).ctx b.vi b.ctx).cstate = .ending ∧
        ((u.trapDone b code [gid]).ctx b.vi b.ctx).endc = code) ∧
      ((u.group gid).hnd = none → (u.group gid).live → (u.group gid).hdone = false → u.threadsOf gid = [] →
        c.hold ∨ code = 0x0B → u.blocksOf b.vi b.ctx = [(u.group gid).bid] →
        (u.block (u.group gid).bid).idle = false → u.liveGids (u.block (u.group gid).bid) = [gid] →
        (u.block (u.group gid).bid).saved = false → (u.block (u.group gid).bid).killed = false →
        let v := u.trapDone b code [gid]
        (v.group gid).forced ∧ (v.group gid).sr = (u.group gid).sr ∧ (v.ctx b.vi b.ctx).cstate = .stopping ∧
          (v.ctx b.vi b.ctx).busy))) ∧
  ∀ (s s1 : State) (code : BitVec 8), s.g.isLoupe = false →
    (s.g.isAgent → exec (.trap code) s = .next (s.resetAgent s.core 0x20)) ∧
    (s.g.isAgent = false → s.g.hnd.isSome →
      exec (.trap code) s = .next (s.endContext s.blk.vi s.blk.ctx s.core 0x20)) ∧
    (s.g.isAgent = false → s.g.hnd = none →
      let u := s.advance s.next
      let g := u.g.freeze
      let pc := (s.blk.kern.tvec)[5]?.getD noPc
      (pc = noPc → exec (.trap code) s = .next (u.endContext s.blk.vi s.blk.ctx s.blk.pcore 0x20)) ∧
      (pc ≠ noPc → ∀ w, (u.setG g).saveFlds s.blk.pcore s.blk.vi s.blk.ctx g headerFlds = .wait w →
        exec (.trap code) s = .next (s.waitHere w)) ∧
      (pc ≠ noPc → (u.setG g).saveFlds s.blk.pcore s.blk.vi s.blk.ctx g headerFlds = .fault →
        exec (.trap code) s = .next (s.endContext s.blk.vi s.blk.ctx s.blk.pcore 0x42)) ∧
      (pc ≠ noPc → (u.setG g).saveFlds s.blk.pcore s.blk.vi s.blk.ctx g headerFlds = .ok s1 →
        Completes (.trap code) s fun t =>
          t.g.hnd = some { code := 0x20, save := false, restore := false } ∧
          t.g.sr = { s.g.sr with fault := BitVec.ofNat 64 (code.toNat * 2 ^ 48 + 0x7F * 2 ^ 41 + s.slot % 4 * 2 ^ 32 + 0x20) } ∧
          t.g.ent 8 = { valid := true, st := .ready, pc := pc, mask := g.allDom, dom := g.allDom, since := s.clock } ∧
          (∀ i < 8, t.g.ent i = (if i = s.cur.ent then s.e.onAt s.next s.clock else s.g.ent i).freeze) ∧
          (∀ k < 4, t.g.hdr.get 0 k = s.g.s.get 0 k) ∧ t.g.s = s.g.s ∧ t.g.v = s.g.v ∧ t.g.p = s.g.p))

/-- R46, R48, R161, R366: TRET by the handler fragment, outside the save handler, leaves the handler: s0 to s3 take
their values of its entry, every held fragment its saved state; otherwise it raises the illegal-instruction trap. BKPT
raises the breakpoint trap, at the next word, when the context's debug flag is set, and otherwise goes on. R52, R66:
a TRET that finds sr.ejst's TOUT bit of its REC set applies the course that ACT gives: 0 starts the record's timer
again, 1 recalls its lanes, each to an entry of its own, or parked while none is allocatable; the bit is cleared, and
the records left in TOUT are delivered again. R45, R46, R47, R79, R263, R362, R372: HDONE by the save handler's own
fragment waits while an engine operation of its block is outstanding, a vault that holds its writes is not ready, or an
access to the save area waits, and then has the group saved: the group leaves its slot, which is free again, also while
another group of the block is still to save; with the last one the block is saved, and a context that stops is stopped
once no other block of it is left. Points that the rules leave open here are the model's own: log entries 24 and
25. -/
def Obligations.HandlersEnd : Prop :=
  (∀ (s : State), s.g.isLoupe = false →
    (s.atHandler → s.g.inSave = false → s.rg.sr.tout = 0 → s.g.sr.tout = 0 → Completes .tret s fun t =>
      OnlyGroup s t ∧ t.g.hnd = none ∧
      (∀ k < 4, t.g.s.get 0 k = s.g.hdr.get 0 k) ∧ (∀ r, 4 ≤ r → t.g.s.get 0 r = s.g.s.get 0 r) ∧
      (∀ i < 8, (s.g.ent i).st = .held →
        t.g.ent i = { s.g.ent i with st := (s.g.ent i).thawed, saved := .ready, since := s.clock }) ∧
      (∀ i < 8, (s.g.ent i).st ≠ .held → t.g.ent i = s.g.ent i) ∧
      t.g = { s.g with
        s := t.g.s, tab := t.g.tab, hdr := t.g.hdr, hnd := t.g.hnd, cow := t.g.cow, sweep := s.g.sweep0
        sweep0 := {}, onRings := [], recs := (if s.g.hnd.any (·.restore) then s.g.askHeld s.clock else s.g).recs }) ∧
    (∀ h, s.atHandler → s.g.hnd = some h → h.save = false → h.restore = false →
      let r := s.rg.sr.recNo.toNat
      let left := s.g.sr.tout &&& ~~~ (1#4 <<< r)
      let back := fun (t : State) =>
        t.g.hnd = none ∧ t.g.sr = { s.g.sr with tout := left } ∧
        (left ≠ 0 → ∃ p ∈ t.g.pend, p.code = 0x33) ∧ (left = 0 → t.g.pend = s.g.pend)
      s.rg.sr.tout.getLsbD r →
      (s.rg.sr.act = false → Completes .tret s fun t =>
        back t ∧ (∀ k, k ≠ r → t.g.recs.get Rec.free k = s.g.recs.get Rec.free k) ∧
        t.g.recs.get Rec.free r =
          let c := s.g.recs.get Rec.free r
          if c.valid then { c with timer := 0, stopped := false } else c) ∧
      (∀ tid l, s.rg.sr.act → s.threadsOf s.cur.gid = [tid] → (s.group tid).kind = .loupe s.cur.gid r l →
        tid ≠ s.cur.gid → s.g.forced = false → s.g.frozen = false →
        (∀ f, (s.g.unfreeze s.clock).alloc = some f → Completes .tret s fun t =>
          t.g.hnd = none ∧ t.g.sr.tout = left ∧ (t.group tid).live = false ∧
          (t.g.recs.get Rec.free r).onl = (s.g.recs.get Rec.free r).onl &&& ~~~ Mask.one l ∧
          t.g.ent f = { Entry.free with
            valid := true, st := .recalled, pc := ((s.group tid).ent 0).pc, mask := ((s.group tid).ent 0).mask
            dom := Mask.one l, rpc := (s.g.recs.get Rec.free r).rpc, join := 8 + r, srpc := (s.g.ent f).srpc
            sjoin := (s.g.ent f).sjoin, since := s.clock, cont := ((s.group tid).ent 0).cont }) ∧
        ((s.g.unfreeze s.clock).alloc = none → Completes .tret s fun t =>
          back t ∧ (t.group tid).ent 0 = ((s.group tid).ent 0).parked .entry s.clock))) ∧
    (s.atHandler = false ∨ s.g.inSave → Traps .tret s tInstruction) ∧
    (s.atHandler = false ∨ s.g.inSave = false → Traps .hdone s tInstruction) ∧
    (s.g.isAgent ∨ s.myCtx.debug = false → Moves .bkpt s s.next) ∧
    (s.g.isAgent = false → s.myCtx.debug → exec .bkpt s =
      .next ((s.advance s.next).takeTrap ⟨s.cur.gid, s.cur.ent, s.next, s.slot⟩ tBreak))) ∧
  (∀ (s s1 : State), s.g.isLoupe = false → s.atHandler → s.g.inSave →
    (s.blk.idle = false → exec .hdone s = .next (s.waitHere .engines)) ∧
    (s.blk.idle → s.vaultWaits s.cur.gid ≠ [] →
      exec .hdone s = .next (s.waitHere (Wait.join (s.vaultWaits s.cur.gid)))) ∧
    (s.blk.idle → s.vaultWaits s.cur.gid = [] → s.g.live →
      let u := s.relScope .pkg
      let g := { s.g with hdone := true, hnd := none, tab := s.g.tab.erase 8 }
      (∀ w, (u.setG g).saveFlds s.blk.pcore s.blk.vi s.blk.ctx g lateFlds = .wait w →
        exec .hdone s = .next (s.waitHere w)) ∧
      ((u.setG g).saveFlds s.blk.pcore s.blk.vi s.blk.ctx g lateFlds = .ok s1 →
        (∃ k i, k ≠ s.g.gix ∧ s.blk.gids[k]? = some i ∧ i ≠ s.cur.gid ∧ (s.group i).live ∧ (s.group i).forced = false) →
        Completes .hdone s fun t =>
          t.g.live = false ∧ t.savedG.get Group.empty (16 * s.g.bid + s.g.gix) = g ∧
          t.occOf s.blk.pcore = s.occOf s.blk.pcore ||| (1#64 <<< (32 + slotOf s.cur.gid))) ∧
      ∀ s2, (u.setG g).saveFlds s.blk.pcore s.blk.vi s.blk.ctx g lateFlds = .ok s1 →
        (∀ i ∈ s.blk.gids, i ≠ s.cur.gid → (s.group i).live = false) → s.blk.gids[s.g.gix]? = some s.cur.gid →
        (s.group (s.blk.pcore * 17 + noSlot)).live = false → s.blk.live → s.blk.saved = false →
        (s1.parkGroup s.cur.gid).saveNow s.g.bid = .ok s2 →
        Completes .hdone s fun t =>
          (t.block s.g.bid).saved ∧ (t.block s.g.bid).stopping = false ∧
          (s.myCtx.cstate = .stopping → s.starting s.blk.vi s.blk.ctx = false →
            (∀ i ∈ s.blocksOf s.blk.vi s.blk.ctx, i ≠ s.g.bid → (s.block i).saved ∨ (s.block i).killed) →
            (t.ctx s.blk.vi s.blk.ctx).cstate = .stopped)))

/-! ### System registers and queries -/

/-- R7, R8, R52, R59, R133, R164 to R167, R340: SRD reads each system register, as it stood before the chain, and a
Loupe thread its group's; reserved bits read zero; a register of the agents raises the illegal-encoding trap
elsewhere. R168, R170, R171: FEATQ gives the context's contracted feature words, and 0 past them; PHYSQ gives the
stepping with MIG, which it clears, then the clocks, then 0; TIME gives the package time of the party's die. The
feature words of an agent are values that the spec leaves open (log entry 14). The flag registers wait behind an earlier
word of the group that sets flags and is not complete (R116, R126). -/
def Obligations.SystemReads : Prop :=
  (∀ (s : State) (d : Fin 64),
    let g := if s.g.isLoupe then s.hg else s.rg
    SetsS (.srd d .ctxsave) s d.val g.sr.ctxsave ∧
    SetsS (.srd d .gotb) s d.val (g.sr.gotb &&& ~~~ 7) ∧
    SetsS (.srd d .trapvec) s d.val g.sr.trapvec ∧
    SetsS (.srd d .ejt) s d.val (g.sr.ejt.zeroExtend 64) ∧
    SetsS (.srd d .ejto) s d.val (g.sr.ejto.zeroExtend 64) ∧
    SetsS (.srd d .ejst) s d.val g.ejst ∧
    SetsS (.srd d .fault) s d.val (g.sr.fault &&& 0xFFFFFE03000000FF) ∧
    SetsS (.srd d .faddr) s d.val g.sr.faddr ∧
    SetsS (.srd d .fidx) s d.val (BitVec.ofNat 64
      (g.sr.fidxV.toNat * 2 ^ 63 + g.sr.fidxIx.toNat * 2 ^ 32 + g.sr.fidxPc.toNat)) ∧
    (s.flagging s.cur.gid s.cur.ent = false →
      SetsS (.srd d .mstat) s d.val (BitVec.ofNat 64 (g.sr.mnv.toNat * 2 + g.sr.mov.toNat)) ∧
      SetsS (.srd d .fpstat) s d.val
        ((if s.g.isLoupe then g.sr.fpstat ||| s.rg.sr.fpstat else g.sr.fpstat).zeroExtend 64)) ∧
    (s.flagging s.cur.gid s.cur.ent → ∀ r ∈ [SysReg.fpstat, .mstat],
      exec (.srd d r) s = .next (s.parkHere .flags).stop) ∧
    SetsS (.srd d .mode) s d.val (if g.sr.ftz then 1 else 0) ∧
    SetsS (.srd d .place) s d.val (placeWord s.homeGid g.sr) ∧
    (s.g.isAgent →
      SetsS (.srd d .agid) s d.val (BitVec.ofNat 64
        (g.sr.ifn.toNat * 2 ^ 24 + g.sr.agOut.toNat * 2 ^ 16 + s.core)) ∧
      SetsS (.srd d .fwbase) s d.val (g.sr.fwbase &&& ~~~ 0xFFF) ∧
      SetsS (.srd d .apoll) s d.val (g.sr.apoll.zeroExtend 64) ∧
      SetsS (.srd d .aasid) s d.val (BitVec.ofNat 64
        (g.sr.aasidV.toNat * 2 ^ 9 + g.sr.aasid.toNat))) ∧
    (s.g.isAgent = false → ∀ r, SysReg.agentOnly r → Traps (.srd d r) s tEncoding)) ∧
  (∀ (s : State) (d : Fin 64) (b : SSrc),
    let x := s.readB b
    SetsS (.time d) s d.val (s.times.get 0 (s.clu / 8)) ∧
    (1 < x.toNat → SetsS (.featq d b) s d.val 0 ∧ SetsS (.physq d b) s d.val 0) ∧
    (x = 0 → s.g.isAgent = false → SetsS (.featq d b) s d.val s.myCtx.feat0) ∧
    (x = 1 → s.g.isAgent = false → SetsS (.featq d b) s d.val s.myCtx.feat1) ∧
    (x.toNat ≤ 1 → s.g.isAgent → d.val < 61 → Completes (.featq d b) s fun t =>
      Went s t s.next ∧ t.g.s.get 0 d.val = Config.freeWord s.free ∧ t.free = s.free + 1) ∧
    (x = 1 → SetsS (.physq d b) s d.val (BitVec.ofNat 64 (Config.lclk * 2 ^ 16 + Config.aclk))) ∧
    (x = 0 → s.g.isLoupe = false → d.val < 61 → Completes (.physq d b) s fun t =>
      OnlyGroup s t ∧ Went s t s.next ∧ t.g.mig = false ∧
      t.g.s.get 0 d.val = (if s.g.mig then 1 <<< 63 else 0) + Config.stepping.zeroExtend 64 ∧
      ∀ r, r ≠ d.val → t.g.s.get 0 r = s.g.s.get 0 r))

/-- R7, R50 to R52, R115, R116, R126, R164, R165, R225, R340: SWR writes the writable fields, clears the bits written
with 1 of a W1C field, clamps EJT at 8 and the agents' poll period at 64, and ignores a read-only register; a flag
register waits behind an earlier word of the group that sets flags and is not complete. A Loupe thread is recalled
(R60). -/
def Obligations.SwrWrites : Prop :=
  ∀ (s : State) (b : SSrc),
    let x := s.readB b
    let r := s.g.sr
    (s.g.isLoupe → ∀ n, exec (.swr n b) s = .next (s.recallAt s.cur.gid).stop) ∧
    (s.g.isLoupe = false →
      SetsSr (.swr .ejt b) s { r with ejt := if 8 < x.toNat % 16 then 8 else BitVec.ofNat 4 x.toNat } ∧
      SetsSr (.swr .ejto b) s { r with ejto := BitVec.ofNat 32 x.toNat } ∧
      SetsSr (.swr .ejst b) s
        { r with act := x.getLsbD 63, recNo := BitVec.ofNat 2 (x.toNat / 2 ^ 56)
                 tout := r.tout &&& ~~~ BitVec.ofNat 4 (x.toNat / 2 ^ 48) } ∧
      SetsSr (.swr .fidx b) s
        { r with fidxV := x.getLsbD 63, fidxIx := BitVec.ofNat 7 (x.toNat / 2 ^ 32)
                 fidxPc := BitVec.ofNat 32 x.toNat } ∧
      (s.flagging s.cur.gid s.cur.ent = false →
        SetsSr (.swr .mstat b) s { r with mnv := r.mnv && !x.getLsbD 1, mov := r.mov && !x.getLsbD 0 } ∧
        SetsSr (.swr .fpstat b) s { r with fpstat := r.fpstat &&& ~~~ BitVec.ofNat 5 x.toNat }) ∧
      (s.flagging s.cur.gid s.cur.ent → ∀ n ∈ [SysReg.fpstat, .mstat],
        exec (.swr n b) s = .next (s.parkHere .flags).stop) ∧
      SetsSr (.swr .mode b) s { r with ftz := x.getLsbD 0 } ∧
      (∀ n ∈ [SysReg.ctxsave, .gotb, .trapvec, .fault, .faddr, .place], SetsSr (.swr n b) s r) ∧
      (s.g.isAgent →
        SetsSr (.swr .apoll b) s
          { r with apoll := if x.toNat % 8192 < 64 then 64 else BitVec.ofNat 13 x.toNat } ∧
        SetsSr (.swr .aasid b) s { r with aasid := BitVec.ofNat 9 x.toNat, aasidV := x.getLsbD 9 } ∧
        ∀ n ∈ [SysReg.agid, .fwbase], SetsSr (.swr n b) s r) ∧
      (s.g.isAgent = false → ∀ n, SysReg.agentOnly n → Traps (.swr n b) s tEncoding))

/-! ### Scalar arithmetic -/

/-- R172: copies, wrapping arithmetic, products, bit operations, shifts by a count of 64 and more, and selection.
R111, R172: division truncates, a zero divisor gives quotient 0 and leaves the dividend as remainder, and the most
negative value by -1 gives itself and remainder 0; saturating sums and differences stop at the bounds; minimum and
maximum compare as the type. R174: SADDA adds, wrapping; where sA or the sum is not canonical it raises the protection
trap with the sum as the address, and the destination is as before. -/
def Obligations.ScalarArithmetic : Prop :=
  (∀ (s : State) (d a : Fin 64) (b : SSrc),
    let x := s.readS a.val
    let y := s.readB b
    SetsS (.smov d b) s d.val y ∧ SetsS (.sadd d a b) s d.val (x + y) ∧ SetsS (.ssub d a b) s d.val (x - y) ∧
    SetsS (.smul d a b) s d.val (x * y) ∧
    SetsS (.smulh true d a b) s d.val (BitVec.ofNat 64 (x.toNat * y.toNat / 2 ^ 64)) ∧
    SetsS (.smulh false d a b) s d.val (BitVec.ofInt 64 (x.toInt * y.toInt / 2 ^ 64)) ∧
    SetsS (.sand d a b) s d.val (x &&& y) ∧ SetsS (.sor d a b) s d.val (x ||| y) ∧ SetsS (.sxor d a b) s d.val (x ^^^ y) ∧
    SetsS (.sshl d a b) s d.val (x <<< y.toNat) ∧ SetsS (.sshr d a b) s d.val (x >>> y.toNat) ∧
    SetsS (.ssra d a b) s d.val (x.sshiftRight y.toNat) ∧
    SetsS (.ssel d a b) s d.val (if s.readS d.val = 0 then y else x)) ∧
  (∀ (s : State) (d a : Fin 64) (b : SSrc),
    let x := s.readS a.val
    let y := s.readB b
    let sat := fun (z : Int) => BitVec.ofInt 64 (max (-2 ^ 63) (min (2 ^ 63 - 1) z))
    SetsS (.sdiv true d a b) s d.val (x / y) ∧
    SetsS (.srem true d a b) s d.val (if y = 0 then x else x % y) ∧
    (y = 0 → SetsS (.sdiv false d a b) s d.val 0 ∧ SetsS (.srem false d a b) s d.val x) ∧
    (x.toInt = -2 ^ 63 → y.toInt = -1 → SetsS (.sdiv false d a b) s d.val x ∧ SetsS (.srem false d a b) s d.val 0) ∧
    (y ≠ 0 → SetsS (.sdiv false d a b) s d.val (BitVec.ofInt 64 (x.toInt.tdiv y.toInt)) ∧
      SetsS (.srem false d a b) s d.val (BitVec.ofInt 64 (x.toInt - y.toInt * x.toInt.tdiv y.toInt))) ∧
    SetsS (.saddSat true d a b) s d.val (BitVec.ofNat 64 (min (2 ^ 64 - 1) (x.toNat + y.toNat))) ∧
    SetsS (.saddSat false d a b) s d.val (sat (x.toInt + y.toInt)) ∧
    SetsS (.ssubSatN64 d a b) s d.val (BitVec.ofNat 64 (x.toNat - y.toNat)) ∧
    SetsS (.ssubSatS64 d a b) s d.val (sat (x.toInt - y.toInt)) ∧
    SetsS (.sminN64 d a b) s d.val (if x ≤ y then x else y) ∧ SetsS (.smaxN64 d a b) s d.val (if x ≤ y then y else x) ∧
    SetsS (.sminS64 d a b) s d.val (if x.sle y then x else y) ∧
    SetsS (.smaxS64 d a b) s d.val (if x.sle y then y else x)) ∧
  (∀ (s : State) (d a : Fin 64) (b : SSrc),
    let x := s.readS a.val
    let r := x + s.readB b
    let ok := fun (v : Word64) => v.toNat < 2 ^ 56 ∨ 2 ^ 64 - 2 ^ 56 ≤ v.toNat
    (ok x → ok r → SetsS (.sadda d a b) s d.val r) ∧
    (¬(ok x ∧ ok r) → Traps (.sadda d a b) s (tProt 3 none (some r))))

/-- R172, R173: counts of ones and of leading zeros, and bit fields of any position and width, bit by bit: an extract
gives the field, with its top bit repeated above it in the signed form; an insert changes the field's bits alone. -/
def Obligations.ScalarBitFields : Prop :=
  ∀ (s : State) (d a : Fin 64) (b : SSrc),
    let x := s.readS a.val
    let y := s.readB b
    let pos := y.toNat % 64
    let w := min (y.toNat / 256 % 128) (64 - pos)
    (∃ n : Word64, SetsS (.spopc d b) s d.val n ∧ n.toNat = ((List.range 64).filter fun k => y.getLsbD k).length) ∧
    (∃ n : Word64, SetsS (.sclz d b) s d.val n ∧ n.toNat ≤ 64 ∧ (n.toNat < 64 → y.getLsbD (63 - n.toNat)) ∧
      ∀ k < n.toNat, y.getLsbD (63 - k) = false) ∧
    (∃ f : Word64, SetsS (.sbfxN64 d a b) s d.val f ∧ ∀ k < 64, f.getLsbD k = (decide (k < w) && x.getLsbD (pos + k))) ∧
    (∃ f : Word64, SetsS (.sbfxS64 d a b) s d.val f ∧ ∀ k < 64, f.getLsbD k =
      (decide (0 < w) && x.getLsbD (pos + if k < w then k else w - 1))) ∧
    ∃ f : Word64, SetsS (.sbfi d a b) s d.val f ∧ ∀ k < 64, f.getLsbD k =
      if pos ≤ k ∧ k < pos + w then x.getLsbD (k - pos) else (s.readS d.val).getLsbD k

/-- R175: SCMP gives 1 or 0, signed for .s64 and unsigned for .n64; its opcode is 0x060 + 2 C + u, and opcodes 0x06C
to 0x06F are no instruction. -/
def Obligations.ScalarCompare : Prop :=
  (∀ (s : State) (d a : Fin 64) (b : SSrc) (c : Cond) (u : Bool),
    let x := s.readS a.val
    let y := s.readB b
    let holds := match c, u with
      | .eq, _ => x = y
      | .ne, _ => x ≠ y
      | .lt, true => x < y
      | .le, true => x ≤ y
      | .gt, true => y < x
      | .ge, true => y ≤ x
      | .lt, false => x.toInt < y.toInt
      | .le, false => x.toInt ≤ y.toInt
      | .gt, false => y.toInt < x.toInt
      | .ge, false => y.toInt ≤ x.toInt
    (holds → SetsS (.scmp c u d a b) s d.val 1) ∧ (¬holds → SetsS (.scmp c u d a b) s d.val 0)) ∧
  (∀ (d a : Fin 64) (b : SSrc) (u : Bool),
    [Cond.eq, .ne, .lt, .le, .gt, .ge].map (fun c => opcodeOf (.scmp c u d a b)) =
      (List.range 6).map fun c => 0x060 + 2 * c + (if u then 1 else 0)) ∧
  (∀ (w : Word32) (l : Lits) (slot : Nat), slot < 3 → w.toNat / 2 ^ 21 % 1024 ∈ [0x06C, 0x06D, 0x06E, 0x06F] →
    decode false slot w l = .ok ⟨.unassignedOpcode w, 1⟩) ∧
  ∀ (w : Word32) (s : State), Traps (.unassignedOpcode w) s tInstruction

/-! ### Lane-wise integers -/

/-- R110, R111, R180, R182: sums, differences and products modulo 2^w or saturated, upper halves, multiply-add,
minimum and maximum, in each active lane, extended by the type; no flag. R186, R188: VADDC adds with the carry of p6
and leaves the carry out there; VCMP compares as the type into a predicate; inactive lanes keep their bits. -/
def Obligations.VectorIntegers : Prop :=
  (∀ (s : State) (t : IType) (d : Fin 96) (a b : Src),
    let w := IType.width t
    let x := fun l => ival (IType.signed t) w (s.srcI a t.opT l)
    let y := fun l => ival (IType.signed t) w (s.srcI b t.opT l)
    let old := fun l => ival (IType.signed t) w (s.oldD w d l)
    let sets := fun (i : Instr) (f : Nat → Int) => SetsInts i s (IType.signed t) w d fun l => (f l % 2 ^ w).toNat
    let sat := fun (z : Int) => max (intMin (IType.signed t) w) (min (intMax (IType.signed t) w) z)
    sets (.vadd t d a b) (fun l => x l + y l) ∧ sets (.vsub t d a b) (fun l => x l - y l) ∧
    sets (.vmul t d a b) (fun l => x l * y l) ∧ sets (.vmad t d a b) (fun l => x l * y l + old l) ∧
    sets (.vmulh t d a b) (fun l => x l * y l / 2 ^ w) ∧
    sets (.vaddSat t d a b) (fun l => sat (x l + y l)) ∧ sets (.vsubSat t d a b) (fun l => sat (x l - y l)) ∧
    sets (.vmin t d a b) (fun l => min (x l) (y l)) ∧ sets (.vmax t d a b) (fun l => max (x l) (y l))) ∧
  (∀ (s : State) (d : Fin 96) (a b : Src),
    (∀ w : Wid,
      let n := Wid.width w
      let sum := fun l => s.srcI a w.opT l + s.srcI b w.opT l + if Mask.has (s.readP 6) l then 1 else 0
      Completes (.vaddc w d a b) s fun t =>
        OnlyGroup s t ∧ Went s t s.next ∧
        SetV s t s.active d.val (regCount n) (fun k l => regWord false n (sum l % 2 ^ n) k) 0 ∧
        (∀ l < 96, Mask.has (t.g.p.get 0 6) l =
          if Mask.has s.active l then decide (2 ^ n ≤ sum l) else Mask.has (s.g.p.get 0 6) l) ∧
        (∀ r, r ≠ 6 → t.g.p.get 0 r = s.g.p.get 0 r) ∧
        t.g = { s.g with v := t.g.v, p := t.g.p, tab := t.g.tab }) ∧
    ∀ (t : IType) (p : Fin 7),
      let x := fun l => ival (IType.signed t) (IType.width t) (s.srcI a t.opT l)
      let y := fun l => ival (IType.signed t) (IType.width t) (s.srcI b t.opT l)
      SetsP (.vcmp .eq t p a b) s p.val (fun l => decide (x l = y l)) 0 ∧
      SetsP (.vcmp .ne t p a b) s p.val (fun l => decide (x l ≠ y l)) 0 ∧
      SetsP (.vcmp .lt t p a b) s p.val (fun l => decide (x l < y l)) 0 ∧
      SetsP (.vcmp .le t p a b) s p.val (fun l => decide (x l ≤ y l)) 0 ∧
      SetsP (.vcmp .gt t p a b) s p.val (fun l => decide (x l > y l)) 0 ∧
      SetsP (.vcmp .ge t p a b) s p.val (fun l => decide (x l ≥ y l)) 0)

/-- R184: VABS of a signed type gives the magnitude modulo 2^w, so that the most negative value gives itself, and of
an unsigned type its operand; VNEG gives 0 - a modulo 2^w; their opcodes are 0x170 + I and 0x178 + I. -/
def Obligations.VectorAbsNeg : Prop :=
  (∀ (s : State) (t : IType) (d : Fin 96) (a : Src),
    let w := IType.width t
    let x := fun l => ival (IType.signed t) w (s.srcI a t.opT l)
    SetsInts (.vabs t d a) s (IType.signed t) w d (fun l => if IType.signed t then (|x l| % 2 ^ w).toNat else s.srcI a t.opT l) ∧
    SetsInts (.vneg t d a) s (IType.signed t) w d (fun l => ((0 - x l) % 2 ^ w).toNat) ∧
    ∀ l, IType.signed t → x l = -2 ^ (w - 1) → ((|x l| % 2 ^ w).toNat : Int) = x l % 2 ^ w) ∧
  ∀ (t : IType) (d : Fin 96) (a : Src),
    opcodeOf (.vabs t d a) = 0x170 + IType.code t ∧ opcodeOf (.vneg t d a) = 0x178 + IType.code t

/-- R183: shifts with an unsigned count, 0 or the sign in every bit from the width on; copies and bit operations.
R183, R185: counts of ones and leading zeros, which a 64-bit form writes to the even register with 0 in the odd one;
field extract and insert by R173 at the form's width, a position at or past which gives width 0. Points that the rules
leave open here are the model's own: log entry 60. -/
def Obligations.VectorBits : Prop :=
  (∀ (s : State) (w : Wid) (d : Fin 96) (a b : Src),
    let n := Wid.width w
    let x := fun l => s.srcI a w.opT l
    let y := fun l => s.srcI b w.opT l
    let sets := fun (i : Instr) (f : Nat → Nat → Bool) =>
      ∃ z : Nat → Nat, SetsInts i s false n d z ∧ ∀ l, z l < 2 ^ n ∧ ∀ k < n, (z l).testBit k = f l k
    sets (.vshl w d a b) (fun l k => decide (y l ≤ k) && (x l).testBit (k - y l)) ∧
    sets (.vshr w d a b) (fun l k => decide (k + y l < n) && (x l).testBit (k + y l)) ∧
    sets (.vsra w d a b) (fun l k => (x l).testBit (min (n - 1) (k + y l))) ∧
    sets (.vmov w d a) (fun l k => (x l).testBit k) ∧ sets (.vnot w d a) (fun l k => !(x l).testBit k) ∧
    sets (.vand w d a b) (fun l k => (x l).testBit k && (y l).testBit k) ∧
    sets (.vor w d a b) (fun l k => (x l).testBit k || (y l).testBit k) ∧
    sets (.vxor w d a b) (fun l k => (x l).testBit k != (y l).testBit k)) ∧
  (∀ (s : State) (d : Fin 96) (a b : Src),
    (∀ w : Wid,
      let n := Wid.width w
      let x := fun l => s.srcI a w.opT l
      let y := fun l => s.srcI b w.opT l
      let pos := fun l => y l % 64
      let len := fun l => if n ≤ pos l then 0 else min (y l / 256 % 128) (n - pos l)
      SetsInts (.vpopc w d a) s false n d (fun l => ((List.range n).filter fun k => (x l).testBit k).length) ∧
      (∃ z : Nat → Nat, SetsInts (.vclz w d a) s false n d z ∧ ∀ l, z l ≤ n ∧
        (z l < n → (x l).testBit (n - 1 - z l)) ∧ ∀ k < z l, (x l).testBit (n - 1 - k) = false) ∧
      ∃ z : Nat → Nat, SetsInts (.vbfi w d a b) s false n d z ∧ ∀ l, z l < 2 ^ n ∧ ∀ k < n, (z l).testBit k =
        if pos l ≤ k ∧ k < pos l + len l then (x l).testBit (k - pos l) else (s.oldD n d l).testBit k) ∧
    ∀ t : JType,
      let n := JType.width t
      let x := fun l => s.srcI a t.opT l
      let y := fun l => s.srcI b t.opT l
      let pos := fun l => y l % 64
      let len := fun l => if n ≤ pos l then 0 else min (y l / 256 % 128) (n - pos l)
      ∃ z : Nat → Nat, SetsInts (.vbfx t d a b) s (JType.signed t) n d z ∧ ∀ l, z l < 2 ^ n ∧ ∀ k < n, (z l).testBit k =
        if k < len l then (x l).testBit (pos l + k)
        else JType.signed t && decide (0 < len l) && (x l).testBit (pos l + len l - 1))

/-- R187: VSEL takes a where the lane's bit of pK is set and b where it is not; with p7 it always takes a; its opcode
is 0x160 + 2 K + W. -/
def Obligations.VectorSelect : Prop :=
  (∀ (s : State) (p : Fin 8) (w : Wid) (d : Fin 96) (a b : Src),
    SetsInts (.vsel p w d a b) s false (Wid.width w) d
      (fun l => if Mask.has (s.readP p.val) l then s.srcI a w.opT l else s.srcI b w.opT l) ∧
    SetsInts (.vsel 7 w d a b) s false (Wid.width w) d (fun l => if l < 96 then s.srcI a w.opT l else 0)) ∧
  ∀ (p : Fin 8) (w : Wid) (d : Fin 96) (a b : Src),
    opcodeOf (.vsel p w d a b) = 0x160 + 2 * p.val + Wid.code w

/-! ### Lane-wise floating point -/

/-- R113, R114, R116, R180, R189 to R194: each form gives, in each active lane, the function of the format that its
rules name, on the lane's operands with subnormals read as FTZ says, and ORs the flags of the active non-helper lanes
into sr.fpstat. R112, R114, R189: an arithmetic result that is a NaN is the canonical one of the format; a signalling
operand raises NV; opposite infinities, an infinity times zero whatever the addend, and zero by zero or infinity by
infinity raise NV; a finite number by zero raises DZ and gives an infinity of the signs. -/
def Obligations.FloatArithmetic : Prop :=
  (∀ (s : State) (f : FType) (n : Rnd) (d : Fin 96) (a b : Src),
    let F := FType.fmt f
    let x := fun l => s.srcF a f l
    let y := fun l => s.srcF b f l
    let sets := fun (i : Instr) (g : Nat → Nat × Flags) => SetsLanes i s false F.width d g
    sets (.fadd f n d a b) (fun l => F.add n s.ftz (x l) (y l)) ∧
    sets (.fsub f n d a b) (fun l => F.sub n s.ftz (x l) (y l)) ∧
    sets (.fmul f n d a b) (fun l => F.mul n s.ftz (x l) (y l)) ∧
    sets (.ffma f n d a b) (fun l => F.fma n s.ftz (x l) (y l) (s.oldD F.width d l)) ∧
    sets (.fdiv f d a b) (fun l => F.div s.ftz (x l) (y l)) ∧
    sets (.fmin f d a b) (fun l => F.minmax false (x l) (y l)) ∧
    sets (.fmax f d a b) (fun l => F.minmax true (x l) (y l)) ∧
    sets (.fscale f n d a b) (fun l => F.scale n s.ftz (x l) (sval 32 (s.srcI b .i32 l))) ∧
    sets (.fabs f d a) (fun l => F.signOp false (x l)) ∧ sets (.fneg f d a) (fun l => F.signOp true (x l)) ∧
    sets (.frnd f n d a) (fun l => F.rnd n s.ftz (x l)) ∧ sets (.frcp f d a) (fun l => F.rcp s.ftz (x l)) ∧
    sets (.frsq f d a) (fun l => F.rsqrt s.ftz (x l)) ∧ sets (.fsqrt f d a) (fun l => F.sqrt s.ftz (x l)) ∧
    SetsLanes (.fclass f d a) s false 32 d (fun l => (F.classOf (x l), 0))) ∧
  (∀ (f : Fmt) (n : Rnd) (z : Bool) (a b c : Nat), f ∈ [Fmt.f16, Fmt.bf16, Fmt.f32, Fmt.f64] →
    (f.val a = .nan true ∨ f.val b = .nan true →
      ∀ r ∈ [f.add n z a b, f.sub n z a b, f.mul n z a b, f.div z a b, f.fma n z a b c, f.fma n z c a b],
        r.1 = f.nan ∧ r.2 &&& flNV = flNV) ∧
    (f.val a = .nan false → (∀ g, f.val b ≠ .nan g) →
      f.add n z a b = (f.nan, 0) ∧ f.sub n z a b = (f.nan, 0) ∧ f.mul n z a b = (f.nan, 0) ∧ f.div z a b = (f.nan, 0)) ∧
    (∀ g h, f.val a = .inf g → f.val b = .inf h →
      f.add n z a b = (if g = h then (f.inf g, 0) else (f.nan, flNV)) ∧
      f.sub n z a b = (if g = h then (f.nan, flNV) else (f.inf g, 0)) ∧
      f.mul n z a b = (f.inf (g != h), 0) ∧ f.div z a b = (f.nan, flNV)) ∧
    (∀ g h e, f.val a = .inf g → f.val b = .fin h 0 e → f.mul n z a b = (f.nan, flNV) ∧
      (f.fma n z a b c).1 = f.nan ∧ (f.fma n z a b c).2 &&& flNV = flNV) ∧
    (∀ g h m e e', f.val a = .fin g m e → m ≠ 0 → (z = true → ¬ f.isSub a) → f.val b = .fin h 0 e' →
      f.div z a b = (f.inf (g != h), flDZ)) ∧
    (∀ g h e e', f.val a = .fin g 0 e → f.val b = .fin h 0 e' → f.div z a b = (f.nan, flNV)) ∧
    f.val f.nan = .nan false ∧ (f.width = 16 → f = Fmt.f16 ∧ f.nan = 0x7E00 ∨ f = Fmt.bf16 ∧ f.nan = 0x7FC0) ∧
    (f.width = 32 → f.nan = 0x7FC00000) ∧ (f.width = 64 → f.nan = 0x7FF8000000000000))

/-- R118, R180, R366: on a format other than .f64 each special function completes: every active lane takes the function
of its operand, and sr.fpstat the flags of the active non-helper lanes; on .f64 each raises the unimplemented-combination
trap, whose syndrome has code 0x07 and the type 3 in bits 49:48. R119: the special operands give the results and flags
of its table: NaN operands, infinities, zeros, log2 of 1 and of a negative number, and sine and cosine at integers and
half-integers. Points that the rules leave open here are the model's own: log entries 11 and 33. -/
def Obligations.SpecialFunctions : Prop :=
  (∀ (s : State) (f : FType) (d : Fin 96) (a : Src),
    let F := FType.fmt f
    let x := fun l => s.srcF a f l
    let sets := fun (i : Instr) (g : Nat → Nat × Flags) => SetsLanes i s false F.width d g
    (f ≠ .f64 → sets (.fexp2 f d a) (fun l => F.exp2 s.ftz (x l)) ∧ sets (.flog2 f d a) (fun l => F.log2 s.ftz (x l)) ∧
      sets (.fsinp f d a) (fun l => F.sinp s.ftz false (x l)) ∧ sets (.fcosp f d a) (fun l => F.sinp s.ftz true (x l)) ∧
      sets (.ftanh f d a) (fun l => F.tanh s.ftz (x l))) ∧
    (f = .f64 → ∀ i ∈ [Instr.fexp2 f d a, .flog2 f d a, .fsinp f d a, .fcosp f d a, .ftanh f d a],
      Traps i s (tUnimpl 3))) ∧
  (∀ k < 3, (tUnimpl 3).synd k = BitVec.ofNat 64 (3 * 2 ^ 48 + 0x7F * 2 ^ 41 + k * 2 ^ 32 + 7)) ∧
  ∀ (f : Fmt) (z : Bool) (x : Nat), f ∈ [Fmt.f16, Fmt.bf16, Fmt.f32] →
    let one := fun (g : Bool) => f.sgn g + f.bias * 2 ^ f.fb
    (∀ g, f.val x = .nan g → ∀ r ∈ [f.exp2 z x, f.log2 z x, f.sinp z false x, f.sinp z true x, f.tanh z x],
      r = (f.nan, if g then flNV else 0)) ∧
    (∀ g, f.val x = .inf g → f.exp2 z x = (if g then f.zero false else f.inf false, 0) ∧
      f.log2 z x = (if g then (f.nan, flNV) else (f.inf false, 0)) ∧
      f.sinp z false x = (f.nan, flNV) ∧ f.sinp z true x = (f.nan, flNV) ∧ f.tanh z x = (one g, 0)) ∧
    (∀ g e, f.val x = .fin g 0 e → f.exp2 z x = (one false, 0) ∧ f.log2 z x = (f.inf true, flDZ) ∧
      f.sinp z false x = (f.zero g, 0) ∧ f.sinp z true x = (one false, 0) ∧ f.tanh z x = (f.zero g, 0)) ∧
    (∀ g m e, f.val x = .fin g m e → m ≠ 0 → (z = true → ¬ f.isSub x) →
      (g = true → f.log2 z x = (f.nan, flNV)) ∧
      (g = false → (m : ℚ) * 2 ^ e = 1 → f.log2 z x = (f.zero false, 0)) ∧
      (∀ n : Nat, (m : ℚ) * 2 ^ e = n →
        f.sinp z false x = (f.zero g, 0) ∧ f.sinp z true x = (one (decide (n % 2 = 1)), 0)) ∧
      ∀ n : Nat, (m : ℚ) * 2 ^ e = n + 1 / 2 → f.sinp z true x = (f.zero false, 0))

/-- R190: FCMP gives false on an unordered pair for eq, lt, le, gt, ge and ord, and true for ne and un; plus and minus
zero are equal; the ordering relations raise NV for any NaN and the others for a signalling one alone. R117, R195,
R196: conversions between formats and between integers and formats; a NaN converts to integer 0 with NV, an infinity
to the type's bound with NV. R120 to R123, R197 to R199: without the context's DX4 or DX8 feature the dual-exponent
conversions raise the unimplemented-combination trap; DXDEC gives each element's binary32 under its two scales; DXENC
gives each active lane of a block its element with the block's scales, and recalls a Loupe thread. Points that the
rules leave open here are the model's own: log entry 33. -/
def Obligations.FloatCompareAndConvert : Prop :=
  (∀ (s : State) (f : FType) (p : Fin 7) (a b : Src),
    let v := fun x l => (FType.fmt f).val (s.srcF x f l)
    let un := fun l => (v a l).isNan || (v b l).isNan
    let o := fun l => cmpV (v a l) (v b l)
    let quiet := s.laneFlags fun l => if v a l = .nan true ∨ v b l = .nan true then flNV else 0
    let any := s.laneFlags fun l => if un l then flNV else 0
    SetsP (.fcmpEqNe .eq f p a b) s p.val (fun l => !un l && o l == .eq) quiet ∧
    SetsP (.fcmpEqNe .ne f p a b) s p.val (fun l => un l || o l != .eq) quiet ∧
    SetsP (.fcmpLtLe .lt f p a b) s p.val (fun l => !un l && o l == .lt) any ∧
    SetsP (.fcmpLtLe .le f p a b) s p.val (fun l => !un l && (o l == .lt || o l == .eq)) any ∧
    SetsP (.fcmpGtGeUnOrd .gt f p a b) s p.val (fun l => !un l && o l == .gt) any ∧
    SetsP (.fcmpGtGeUnOrd .ge f p a b) s p.val (fun l => !un l && (o l == .gt || o l == .eq)) any ∧
    SetsP (.fcmpGtGeUnOrd .un f p a b) s p.val un quiet ∧
    SetsP (.fcmpGtGeUnOrd .ord f p a b) s p.val (fun l => !un l) quiet) ∧
  ((∀ (s : State) (r f : FType) (j : JType) (n : Rnd) (d : Fin 96) (a : Src),
    let F := FType.fmt f
    SetsLanes (.cvt r f n d a) s false (FType.fmt r).width d
      (fun l => (FType.fmt r).cvt F n s.ftz (s.srcF a f l)) ∧
    SetsLanes (.cvtiF2i j f n d a) s false (JType.width j) d
      (fun l => F.toInt (JType.signed j) (JType.width j) n s.ftz (s.srcF a f l)) ∧
    SetsLanes (.cvtiI2f j f n d a) s false F.width d
      (fun l => F.ofInt n (ival (JType.signed j) (JType.width j) (s.srcI a j.opT l)))) ∧
  ∀ (f : FType) (j : JType) (n : Rnd) (z g : Bool) (x : Nat),
    let F := FType.fmt f
    let w := JType.width j
    (F.val x = .nan g → F.toInt (JType.signed j) w n z x = (0, flNV)) ∧
    (F.val x = .inf g → F.toInt (JType.signed j) w n z x =
      (wrap w (if g then intMin (JType.signed j) w else intMax (JType.signed j) w), flNV))) ∧
  (∀ (s : State) (scl b16 dx4 : Bool) (d : Fin 96) (a : Src),
    let has := s.feature (if dx4 then 16 else 17)
    (has = false → Traps (.dxdec dx4 d a) s (tUnimpl 0) ∧
      (s.g.isLoupe = false → Traps (.dxenc scl b16 dx4 d a) s (tUnimpl 0))) ∧
    (s.g.isLoupe → exec (.dxenc scl b16 dx4 d a) s = .next (s.recallAt s.cur.gid).stop) ∧
    (has → SetsLanes (.dxdec dx4 d a) s false 32 d (fun l =>
      let x := s.srcI a .i32 l
      (dxDecode dx4 (x % (if dx4 then 16 else 256)) (x / 256 % 256) (x / 65536 % 256), 0))) ∧
    (has → s.g.isLoupe = false →
      let b := if b16 then 16 else 32
      let val := fun l => if Mask.has s.active l then Fmt.f32.val (Fmt.f32.flush s.ftz (s.srcF a .f32 l)) else .fin false 0 0
      let first := fun l => (s.readV d.val (l / b * b)).toNat
      let scales := fun l => dxScales dx4 (if scl then some (first l / 256 % 256, first l / 65536 % 256) else none)
        ((List.range b).map fun k => val (l / b * b + k))
      let el := fun l => dxElement dx4 (scales l).1 (scales l).2 (val l)
      SetsV (.dxenc scl b16 dx4 d a) s s.active d.val 1
        (fun _ l => BitVec.ofNat 32 ((scales l).2 * 65536 + (scales l).1 * 256 + (el l).1))
        (s.laneFlags fun l => (el l).2)))

/-! ### Lanes -/

/-- R60, R200: on a Loupe thread the instructions that R60 lists, those of Zoom where the context has them, recall the
lane to its group, with none of their effect. R179,
R200 to R202, R204: each active lane takes another lane's value, whatever that lane's mask; an index of 96 or more
gives 0; VTOS and BALLOT give scalars. -/
def Obligations.LaneMoves : Prop :=
  (∀ (s : State) (i : Instr), s.g.isLoupe → recallsThread i → (zoomClass i → s.feature 20) →
    exec i s = .next (s.recallAt s.cur.gid).stop) ∧
  (∀ (s : State), s.g.isLoupe = false → ∀ (w : Wid) (k : Fin 4) (a d : Fin 96) (b : Src) (ix : LbcSrc) (sd sa : Fin 64)
    (r : Fin 16) (d3 : Fin 14) (p : Fin 8),
    let n := Wid.width w
    let lane := fun i => if i < 96 then (s.readV a.val i).toNat else 0
    SetsInts (.qswx w d a) s false n d (fun l => s.oldD n a (l ^^^ 1)) ∧
    SetsInts (.qswy w d a) s false n d (fun l => s.oldD n a (l ^^^ 2)) ∧
    SetsInts (.qswd w d a) s false n d (fun l => s.oldD n a (l ^^^ 3)) ∧
    SetsInts (.qbc w k d a) s false n d (fun l => s.oldD n a (4 * (l / 4) + k.val)) ∧
    SetsInts (.lshfl d a b) s false 32 d (fun l => lane (s.srcI b .i32 l)) ∧
    SetsInts (.lbc (.v d) a ix) s false 32 d (fun _ => lane (s.lbcIx ix)) ∧
    SetsS (.lbc (.s r) a ix) s r.val (BitVec.ofNat 64 (lane (s.lbcIx ix))) ∧
    SetsS (.vtos sd sa a) s sd.val (BitVec.ofNat 64 (lane (s.readS sa.val).toNat)) ∧
    Completes (.ballot d3 p) s fun t =>
      OnlyGroup s t ∧ Went s t s.next ∧
      (∀ j < 3, (t.g.s.get 0 (d3.val + j)).toNat < 2 ^ 32 ∧ ∀ k < 32, (t.g.s.get 0 (d3.val + j)).getLsbD k =
        (Mask.has s.actNH (32 * j + k) && Mask.has (s.readP p.val) (32 * j + k))) ∧
      (∀ j, j < d3.val ∨ d3.val + 3 ≤ j → t.g.s.get 0 j = s.g.s.get 0 j) ∧
      t.g = { s.g with s := t.g.s, tab := t.g.tab })

/-- R203: a scan gives each active lane the fold of the contributors up to it, or before it; a reduction gives every
active lane, or a scalar extended by the type, the fold of all of them; the folds run in lane order over the active
non-helper lanes. Points that the rules leave open here are the model's own: log entry 29. -/
def Obligations.ScansAndReductions : Prop :=
  ∀ (s : State), s.g.isLoupe = false → ∀ (t : RType) (exc : Bool) (w : Wid) (a d : Fin 96) (r : Fin 16),
    let n := RType.width t
    let upTo := fun l => ((Mask.list s.actNH).filter fun k => if exc then decide (k.val < l) else decide (k.val ≤ l)).map
      fun k => s.oldD n a k.val
    let all := (Mask.list s.actNH).map fun k => s.oldD n a k.val
    let scalar := fun (i : Instr) (x : Nat × Flags) => Completes i s fun u =>
      OnlyGroup s u ∧ Went s u s.next ∧
      u.g.s.get 0 r.val = BitVec.ofNat 64 (if RType.signed t then wrap 64 (sval n x.1) else x.1) ∧
      (∀ j, j ≠ r.val → u.g.s.get 0 j = s.g.s.get 0 j) ∧ u.g.sr = { s.g.sr with fpstat := s.g.sr.fpstat ||| x.2 } ∧
      u.g = { s.g with s := u.g.s, tab := u.g.tab, sr := u.g.sr }
    let vector := fun (i : Instr) (x : Nat × Flags) =>
      SetsV i s s.active d.val (regCount n) (fun k _ => regWord (RType.signed t) n x.1 k) x.2
    let or := ((Mask.list s.actNH).map fun k => s.oldD (Wid.width w) a k.val).foldl Nat.lor 0
    SetsLanes (.lscanAdd t exc d a) s false n d (fun l => foldAll .add t .rne (upTo l)) ∧
    SetsLanes (.lscanMax t exc d a) s false n d (fun l => foldAll .max t .rne (upTo l)) ∧
    scalar (.lredAdd t (.s r) a) (foldAll .add t .rne all) ∧ vector (.lredAdd t (.v d) a) (foldAll .add t .rne all) ∧
    scalar (.lredMax t (.s r) a) (foldAll .max t .rne all) ∧ vector (.lredMax t (.v d) a) (foldAll .max t .rne all) ∧
    scalar (.lredMin t (.s r) a) (foldAll .min t .rne all) ∧ vector (.lredMin t (.v d) a) (foldAll .min t .rne all) ∧
    SetsInts (.lredOr w (.v d) a) s false (Wid.width w) d (fun _ => or) ∧
    SetsS (.lredOr w (.s r) a) s r.val (BitVec.ofNat 64 or)

/-! ### Sweeps -/

/-- R206 to R213: a sweep whose record set is misaligned, or of which a record lies outside the block's own tile memory,
raises the protection trap; a record with an invalid field, or shapes that do not match, raises the illegal-encoding
trap; a save handler's sweep into tile memory raises the protection trap; SWPC needs the experimental feature. Otherwise
the sweep takes its elements in order, from IDX on where it is re-executed, and ends with VALID 0 when all its elements
are done and its writes have been performed or accepted, for which it waits, and retires then; it stops at the element
boundary that an asynchronous event is given, and goes on there with the records, the scalar and the mode that it has
read; the element that fails a check leaves its index in IDX and raises its trap. ITRST clears VALID. R206, R208 to
R212: a sweep over records of the block's own tile memory completes, changing no byte outside its destination's
elements, and gives each element it takes its value from its sources', where no element of the destination overlaps
another of the destination or one of a source; a fill along one contiguous dimension sets exactly the row's bytes.
Points that the rules leave open here are the model's own: log entries 31, 33 and 66. -/
def Obligations.Sweeps : Prop :=
  (∀ (s u : State) (op : SwpOp) (rop : SwprOp) (n : Rnd) (acc : Bool) (axis : Fin 4) (y z : Fin 64) (d a : Iter)
    (ts : List Iter), s.g.isLoupe = false →
    let x := s.readS y.val
    let pc := s.wordPc
    let start := if s.g.sweep.valid && s.g.sweep.pc == pc then s.g.sweep.idx else 0
    let fresh := s.e.wait ≠ .stores ∧ ∀ k, s.e.wait ≠ .sweep k
    let reads := fun (z : Fin 64) (ks : List Nat) (k : SweepKeep) => s.e.wait = .sweep k ∨
      fresh ∧ x.toNat % 64 = 0 ∧ (0 :: ks).mapM (s.recordAt x) = some k.recs ∧ k.x = s.readS z.val ∧ k.ftz = s.ftz
    let runs := fun (i : Instr) (k : SweepKeep) (el : Nat → State → State × Except ElStop Flags) =>
      (d.sp = .tile → s.g.inSave → Traps i s (tSaveWrite none (some d.base))) ∧
      (d.sp ≠ .tile ∨ s.g.inSave = false →
        (s.cuts = [] →
          (sweepGo pc el (d.count - start) start (s.setIx true pc start) = (u, none) →
            (u.writing = false → exec i s = .next ((u.setIx false pc u.g.sweep.idx).advance u.next)) ∧
            (u.writing → exec i s = .next (u.flag.waitHere .stores))) ∧
          ∀ va r, sweepGo pc el (d.count - start) start (s.setIx true pc start) = (u, some (.addr va (.prot r))) →
            let t := tProt r none (some va)
            exec i s = .next ((u.flag.takeTrap u.flag.here t).failed t)) ∧
        ∀ c t, s.cuts = c :: t → c < d.count - start →
          sweepGo pc el c start (({ s with cuts := t } : State).setIx true pc start) = (u, none) →
          exec i s = .next (u.flag.waitHere (.sweep k)))
    let faults := fun (i : Instr) (z : Fin 64) (ks : List Nat) =>
      (fresh → x.toNat % 64 ≠ 0 ∨ (0 :: ks).mapM (s.recordAt x) = none → Traps i s (tProt 0 none (some x))) ∧
      (∀ k, reads z ks k → k.recs.mapM Iter.parse = none → Traps i s tEncoding) ∧
      (s.e.wait = .stores → exec i s = .next ((s.setIx false pc s.g.sweep.idx).advance s.next))
    faults (.swp op n y z) z (SwpOp.srcs op) ∧ faults (.swpr rop n acc axis y) y [1] ∧
    (s.feature 24 → faults (.swpc n y) y [1]) ∧ (s.feature 24 = false → Traps (.swpc n y) s tInstruction) ∧
    (Completes .itrst s fun t => OnlyGroup s t ∧ Went s t s.next ∧
      t.g = { s.g with sweep := { s.g.sweep with valid := false }, tab := t.g.tab }) ∧
    ∀ k : SweepKeep,
      (reads z (SwpOp.srcs op) k → k.recs.mapM Iter.parse = some (d :: ts) →
        ((∃ t ∈ ts, t.ty ≠ d.ty ∨ t.rank ≠ d.rank ∨ t.ext ≠ d.ext) → Traps (.swp op n y z) s tEncoding) ∧
        ((∀ t ∈ ts, t.ty = d.ty ∧ t.rank = d.rank ∧ t.ext = d.ext) →
          runs (.swp op n y z) k fun i s' =>
            let cs := coords d.ext i
            s'.element ((ts.map fun t => (t, [cs])) ++ (if op = .fma then [(d, [cs])] else [])) d cs fun v =>
              swpVal op d.ty n k.ftz ((v.getD 0 []).headD 0) ((v.getD 1 []).headD 0) ((v.getD 2 []).headD 0)
                (k.x.toNat % 2 ^ d.ty.width))) ∧
      (reads y [1] k → k.recs.mapM Iter.parse = some [d, a] →
        (axis.val < a.rank → d.ty = a.ty → d.rank = a.rank → d.ext = a.ext.set axis.val 1 →
          runs (.swpr rop n acc axis y) k fun i s' =>
            let cs := coords d.ext i
            let line := (a, (List.range (a.ext.getD axis.val 1)).map fun k => cs.set axis.val k)
            s'.element (if acc then [line, (d, [cs])] else [line]) d cs fun v =>
              swprVal (swprStep rop d.ty n k.ftz) (if acc then some ((v.getD 1 []).headD 0) else none) (v.headD [])) ∧
        (a.rank ≤ axis.val ∨ d.ty ≠ a.ty ∨ d.rank ≠ a.rank ∨ d.ext ≠ a.ext.set axis.val 1 →
          Traps (.swpr rop n acc axis y) s tEncoding) ∧
        (s.feature 24 →
          (d.rank ≠ a.rank ∨ d.ext ≠ a.ext → Traps (.swpc n y) s tEncoding) ∧
          (d.rank = a.rank → d.ext = a.ext →
            runs (.swpc n y) k fun i s' =>
              let cs := coords d.ext i
              s'.element [(a, [cs])] d cs fun v => swpcVal d.ty a.ty n k.ftz ((v.headD []).headD 0))))) ∧
  (∀ (s : State) (op : SwpOp) (rop : SwprOp) (n : Rnd) (acc : Bool) (axis : Fin 4) (y z : Fin 64) (d a : Iter)
    (ts : List Iter), s.g.isLoupe = false → s.g.inSave = false → s.cuts = [] → s.writing = false →
    s.e.wait = .none → s.blk.tileSize ≤ 2 ^ 24 → s.inTile d → s.inTile a → (∀ t ∈ ts, s.inTile t) →
    let x := s.readS y.val
    let start := if s.g.sweep.valid && s.g.sweep.pc == s.wordPc then s.g.sweep.idx else 0
    let sweeps := fun (i : Instr) (srcs : List Iter) (val : List Nat → Nat) => Completes i s fun t =>
      Swept s t d ∧ ((∀ t ∈ srcs, d.apart t) → d.distinct → ∀ k, start ≤ k → k < d.count →
        t.tileEl d (coords d.ext k) = val (coords d.ext k) % 2 ^ d.ty.width)
    x.toNat % 64 = 0 →
    ((0 :: SwpOp.srcs op).mapM (s.iterAt x) = some ((d :: ts).map some) →
      (∀ t ∈ ts, t.ty = d.ty ∧ t.rank = d.rank ∧ t.ext = d.ext) →
      sweeps (.swp op n y z) ts fun cs =>
        let v := ts.map (s.tileEl · cs)
        (swpVal op d.ty n s.ftz (v.getD 0 0)
          (v.getD 1 0) (s.tileEl d cs) ((s.readS z.val).toNat % 2 ^ d.ty.width)).1) ∧
    ([0, 1].mapM (s.iterAt x) = some [some d, some a] → a.rank = d.rank →
      (axis.val < a.rank → d.ty = a.ty → d.ext = a.ext.set axis.val 1 →
        sweeps (.swpr rop n acc axis y) [a] fun cs =>
          (swprVal (swprStep rop d.ty n s.ftz) (if acc then some (s.tileEl d cs) else none)
            ((List.range (a.ext.getD axis.val 1)).map fun k => s.tileEl a (cs.set axis.val k))).1) ∧
      (s.feature 24 → d.ext = a.ext →
        sweeps (.swpc n y) [a] fun cs => (swpcVal d.ty a.ty n s.ftz (s.tileEl a cs)).1))) ∧
  (∀ (s : State) (n : Rnd) (y z : Fin 64) (d : Iter) (e : Nat), s.g.isLoupe = false → s.g.inSave = false →
    (s.readS y.val).toNat % 64 = 0 → s.iterAt (s.readS y.val) 0 = some (some d) →
    d.sp = .tile → d.rank = 1 → d.ext = [e, 1, 1, 1] →
    let b := d.ty.width / 8
    d.str.headD 0 = BitVec.ofNat 64 b → d.base.toNat % b = 0 → d.base.toNat + b * e ≤ s.blk.tileSize →
    s.blk.tileSize ≤ 2 ^ 19 → s.g.sweep.valid = false → s.cuts = [] → s.writing = false → s.e.wait = .none →
    Completes (.swp .fill n y z) s fun t =>
      Went s t s.next ∧ t.g.sweep.valid = false ∧ t.g.sr.fpstat = s.g.sr.fpstat ∧
      ∀ k, t.blk.tile.get 0 k =
        if d.base.toNat ≤ k ∧ k < d.base.toNat + b * e then
          BitVec.ofNat 8 ((s.readS z.val).toNat / 2 ^ (8 * ((k - d.base.toNat) % b)))
        else s.blk.tile.get 0 k)

/-! ### Memory -/

/-- R176 to R178: a scalar load gives the bytes at its address, the table entry at sr.gotb, through the core's constant
cache, which a Loupe thread passes by (R59), or the code words at its target, an uncorrectable error in whose line ends
the context (R414); a scalar store hands its bytes to the core's store buffer at core scope. R224, R225: CSTORE stores
the elements of the active non-helper lanes in lane order at consecutive addresses, from the index kept in sr.fidx on
where it is re-executed, and clears it at its end; a misaligned base stops it with the alignment trap, and an element
whose address faults or waits leaves its index there. PREF leaves buffered stores and vaults alone. R20, R82, R368: an
address whose page is absent takes a page fault, and the fragment waits at the word for a target that is not ready or
deferred. -/
def Obligations.ScalarMemory : Prop :=
  (∀ (s s1 s2 : State) (w : Wid) (d a : Fin 64) (b : SSrc) (t : Target) (loc : Loc) (lo hi : Word32),
    let va := s.readS a.val + s.readB b
    let n := Wid.bytes w
    (s.locate .glob va n .load = (s1, .ok loc) → AllOk s1 [(0, va, .ok loc)] →
      LoadsS (.sld w d a b) s d.val (BitVec.ofNat 64 (ofBytes (s1.readLoc loc n false).2))) ∧
    (s.locate .glob ((s.hg.sr.gotb &&& ~~~ 7) + 8 * s.readB b) 8 .load = (s1, .ok loc) → AllOk s1 [(0, 0, .ok loc)] →
      LoadsS (.sldg d b) s d.val (BitVec.ofNat 64 (ofBytes (s1.readConst loc).2)) ∧
      ∀ pa asid, loc = .glob pa asid → s1.g.isLoupe ∨ s1.consts.get none (constKey s1.core pa) = none →
        (s1.readConst loc).2 = (s1.readLoc loc 8 false).2) ∧
    (s.codeWord (t.pc s.wordPc) = (s1, .ok lo) →
      (s1.badCode [t.pc s.wordPc] = none → LoadsS (.sldl .b32 d t) s d.val (lo.zeroExtend 64)) ∧
      (s1.codeWord (pcAdd (t.pc s.wordPc) 1) = (s2, .ok hi) →
        s2.badCode [t.pc s.wordPc, pcAdd (t.pc s.wordPc) 1] = none → LoadsS (.sldl .b64 d t) s d.val (hi ++ lo)) ∧
      ∀ line, s1.badCode [t.pc s.wordPc] = some line → exec (.sldl .b32 d t) s = .next (s1.uncorrectable line)) ∧
    (s.bad = [] → ∀ pcs, s.badCode pcs = none) ∧
    (s.locate .glob va n .store = (s1, .ok loc) → Stores (.sst w d a b) s fun u =>
      ∀ pa asid, loc = .glob pa asid → s.g.isLoupe = false → s1.pendingStores s.cur.gid < 1023 →
        u.wtq = s1.wtq ++
          [WtEntry.ofBytes s.core s.cur.gid .core asid pa
            ((List.range n).map fun k => BitVec.ofNat 8 ((s.readS d.val).toNat / 2 ^ (8 * k)))]) ∧
    (s.locate .glob va n .load = (s1, .mis) → Traps (.sld w d a b) s (tAlign none va)) ∧
    (s.locate .glob va n .store = (s1, .mis) → Traps (.sst w d a b) s (tAlign none va)) ∧
    ∀ (i : Instr) (need : Need), (i, need) ∈ [(.sld w d a b, Need.load), (.sst w d a b, .store)] →
      (∀ k, s.locate .glob va n need = (s1, .prot k) → Traps i s (tProt k none (some va))) ∧
      (s.locate .glob va n need = (s1, .page) → exec i s = .next (s.takePage s.here none va).stop) ∧
      ∀ q, s.locate .glob va n need = (s1, .wait q) → exec i s = .next (s.parkHere q).stop) ∧
  (∀ (s u : State) (w : Wid) (a : Src) (m : CAddr) (pm : MAddr) (x : Acc),
    let n := Wid.bytes w
    let base := s.caddr m
    let els := (Mask.list s.actNH).map Fin.val
    let r := s.rg.sr
    let start := if s.g.isLoupe = false ∧ r.fidxV ∧ r.fidxPc = s.wordPc then r.fidxIx.toNat else 0
    (base.toNat % n ≠ 0 → Traps (.cstore w a m x) s (tAlign els.head? base)) ∧
    (base.toNat % n = 0 →
      cstoreGo base n x.scope (fun l => s.dataBytes a n l) start (els.drop start) (s.relPart x) = (u, none) →
      Completes (.cstore w a m x) s fun t =>
        t = ({ u with groups := t.groups }) ∧ (∀ i, i ≠ s.cur.gid → t.group i = s.group i) ∧ Went s t s.next ∧
        t.g = { s.g with
          sr := if s.g.isLoupe then s.g.sr else { s.g.sr with fidxV := false, fidxIx := 0 }, tab := t.g.tab }) ∧
    (base.toNat % n = 0 → ∀ e va r,
      cstoreGo base n x.scope (fun l => s.dataBytes a n l) start (els.drop start) (s.relPart x) = (u, some (e, va, r)) →
      let v := if u.g.isLoupe then u
        else u.setG { u.g with sr := { u.g.sr with fidxV := true, fidxIx := BitVec.ofNat 7 e, fidxPc := s.wordPc } }
      (r = .page → exec (.cstore w a m x) s = .next (v.takePage v.here els[e]? va).stop) ∧
      (∀ k, r = .prot k → let t := tProt k els[e]? (some va)
        exec (.cstore w a m x) s = .next ((v.takeTrap v.here t).failed t)) ∧
      ∀ q, r = .wait q → exec (.cstore w a m x) s = .next (v.parkHere q).stop) ∧
    ((∀ l < 96, Mask.has s.active l → s.prefetchWait (s.addr pm l) = none) →
      Stores (.pref pm) s fun t => t.wtq = s.wtq ∧ t.vq = s.vq ∧ t.vault = s.vault) ∧
    let ws := (Mask.list s.active).filterMap fun l => s.prefetchWait (s.addr pm l.val)
    (ws ≠ [] → exec (.pref pm) s = .next (s.parkHere (Wait.join ws)).stop))

/-- R215 to R220, R224: where the address of every active lane passes its checks, a load gives each active lane the
bytes at its address, extended by its type, and XLOAD each element in lane order of the active non-helper lanes;
registers of inactive lanes, flags and everything outside the memory system stand. Points that the rules leave open
here are the model's own: log entry 36. -/
def Obligations.VectorLoads : Prop :=
  ∀ (s s1 : State) (rs : List (Nat × Word64 × LRes)) (d : Fin 96) (m : MAddr) (cm : CAddr) (x : Acc),
    let act := (Mask.list s.active).map Fin.val
    let loads := fun (i : Instr) (sp : Space) (n : Nat) (ext : List Byte → List Byte) =>
      locateAll sp (fun l => s.addr m l) n .load act s = (s1, rs) → AllOk s1 rs →
        LoadsV i s s.active d.val ((n + 3) / 4) fun k l =>
          let bs := ext (Store.get [] (readAll n (Acc.bypass x) rs s1).2 l)
          BitVec.ofNat 32 (ofBytes ((bs.drop (4 * k)).take 4))
    (∀ t : LType, loads (.ld t d m x) .glob (LType.bytes t) (extLoad t)) ∧
    loads (.ldq d m x) .glob 16 id ∧
    (∀ w : TvW, loads (.ldt w d m x) .tile (TvW.bytes w) id ∧ loads (.ldv w d m x) .vault (TvW.bytes w) id) ∧
    ∀ w : Wid,
      let n := Wid.bytes w
      let els := (Mask.list s.actNH).map Fin.val
      let at' := fun l => s.caddr cm + BitVec.ofNat 64 (n * (els.takeWhile (· != l)).length)
      locateAll .glob at' n .load els s = (s1, rs) → AllOk s1 rs → (s.caddr cm).toNat % n = 0 →
        LoadsV (.xload w d cm x) s s.actNH d.val (n / 4) fun k l =>
          BitVec.ofNat 32 (ofBytes (((Store.get [] (readAll n (Acc.bypass x) rs s1).2 l).drop (4 * k)).take 4))

/-- R74, R89, R215, R219: a load from the block's own tile memory gives each active lane the bytes there and changes
nothing else; a store writes each active non-helper lane's bytes there, a later lane over an earlier one, and changes
no other byte of memory; a save handler's store raises the protection trap with its lowest lane (R366, R371). Points
that the rules leave open here are the model's own: log entry 32. -/
def Obligations.TileAccesses : Prop :=
  ∀ (s : State) (w : TvW) (d : Fin 96) (a : Src) (m : MAddr) (x : Acc), s.chain = none → x.order = .rlx →
    let n := TvW.bytes w
    let at' := fun l => (s.addr m l).toNat
    s.blk.tileSize ≤ 2 ^ 24 →
    ((∀ l < 96, Mask.has s.active l → at' l % n = 0 ∧ at' l + n ≤ s.blk.tileSize) →
      SetsV (.ldt w d m x) s s.active d.val (n / 4)
        (fun k l => BitVec.ofNat 32 (ofBytes ((List.range 4).map fun j => s.blk.tile.get 0 (at' l + 4 * k + j)))) 0) ∧
    ((∀ l < 96, Mask.has s.actNH l → at' l % n = 0 ∧ at' l + n ≤ s.blk.tileSize) → s.g.inSave = false →
      Completes (.stt w a m x) s fun t =>
        Went s t s.next ∧ t.g = { s.g with tab := t.g.tab } ∧ (∀ i, i ≠ s.cur.gid → t.group i = s.group i) ∧
        t = { s with groups := t.groups, blocks := t.blocks } ∧ (∀ i, i ≠ s.g.bid → t.block i = s.block i) ∧
        t.blk = { s.blk with tile := t.blk.tile } ∧
        (∀ k, (∀ l < 96, Mask.has s.actNH l → ¬(at' l ≤ k ∧ k < at' l + n)) →
          t.blk.tile.get 0 k = s.blk.tile.get 0 k) ∧
        ∀ l < 96, Mask.has s.actNH l → ∀ j < n,
          (∀ l' < 96, l < l' → Mask.has s.actNH l' → ¬(at' l' ≤ at' l + j ∧ at' l + j < at' l' + n)) →
          t.blk.tile.get 0 (at' l + j) = (s.dataBytes a n l).getD j 0) ∧
    ((∀ l < 96, Mask.has s.actNH l → at' l % n = 0) → s.g.inSave →
      let low := ((Mask.list s.actNH).map Fin.val).head?
      Traps (.stt w a m x) s (tProt 7 low (low.map (s.addr m))))

/-- R90, R215, R218, R219: where the address of every participating lane passes its checks, a store hands each lane's
bytes to its space in lane order, after the release of a releasing order; a global store of a group, with room in its
pending count, stands in the core's store buffer, in one request for each 128-byte line. R216, R218: the first lane
whose address is misaligned, else the first whose address fails another check, decides: the trap names the lane and
its address and no lane's access has taken place. R20, R82, R368: where no lane's address fails one of these checks, the
first non-helper lane whose page is absent takes a page fault; else, where a target is not ready or a response deferred,
the fragment waits at the word for all of them. R366 to R368: a page fault parks the fragment at its word, writes code
0x10, the lane, the slot and the address to the syndrome registers, and sends a record of kind 1 to the context's fault
ring, or holds it behind a full ring; the fragment then waits for that record. Points that the rules leave open here
are the model's own: log entry 28. -/
def Obligations.VectorStores : Prop :=
  (∀ (s s1 : State) (rs : List (Nat × Word64 × LRes)) (d : Fin 96) (a : Src) (m : MAddr) (x : Acc),
    let stores := fun (i : Instr) (sp : Space) (n : Nat) (a : Src) =>
      let ls := s.storeLanes sp (fun l => s.addr m l) n
      locateAll sp (fun l => s.addr m l) n .store ls s = (s1, rs) → AllOk s1 rs →
        Stores i s fun t =>
          t = ((writeAll x.scope (fun l => s.dataBytes a n l) rs (s1.relPart x)).advance s.next) ∧
          (x.order = .rlx → sp = .glob → s.g.kind = .user → s1.pendingStores s.cur.gid + rs.length ≤ 1023 →
            t.wtq = s1.wtq ++ lineRequests (rs.filterMap fun r => match r.2.2 with
              | .ok (.glob pa asid) => some (WtEntry.ofBytes s.core s.cur.gid x.scope asid pa (s.dataBytes a n r.1))
              | _ => none)) ∧
          (x.order = .rlx → sp = .vault → t.vq = s1.vq ++ rs.filterMap fun r => match r.2.2 with
            | .ok (.vault v o) => some { gid := s.cur.gid, vault := v, off := o, bytes := s.dataBytes a n r.1 }
            | _ => none)
    (∀ w : StW, stores (.st w a m x) .glob (StW.bytes w) a) ∧ stores (.stq d m x) .glob 16 (.v d) ∧
    ∀ w : TvW, stores (.stv w a m x) .vault (TvW.bytes w) a) ∧
  (∀ (s s1 : State) (rs : List (Nat × Word64 × LRes)) (m : MAddr) (x : Acc) (l : Nat) (va : Word64) (d : Fin 96) (a : Src),
    let act := (Mask.list s.active).map Fin.val
    (∀ t : LType, locateAll .glob (fun l => s.addr m l) (LType.bytes t) .load act s = (s1, rs) →
      (rs.find? (fun r => Mask.has s.actNH r.1 && r.2.2 == .mis) = some (l, va, .mis) →
        Traps (.ld t d m x) s (tAlign (some l) va)) ∧
      ((∀ r ∈ rs, Mask.has s.actNH r.1 → r.2.2 ≠ .mis) → ∀ k,
        rs.find? (fun r => Mask.has s.actNH r.1 && match r.2.2 with | .prot _ => true | _ => false) =
          some (l, va, .prot k) → Traps (.ld t d m x) s (tProt k (some l) (some va)))) ∧
    (∀ w : StW, locateAll .glob (fun l => s.addr m l) (StW.bytes w) .store
        (s.storeLanes .glob (fun l => s.addr m l) (StW.bytes w)) s = (s1, rs) →
      (rs.find? (fun r => r.2.2 == .mis) = some (l, va, .mis) → Traps (.st w a m x) s (tAlign (some l) va)) ∧
      ((∀ r ∈ rs, r.2.2 ≠ .mis) → ∀ k,
        rs.find? (fun r => match r.2.2 with | .prot _ => true | _ => false) = some (l, va, .prot k) →
          Traps (.st w a m x) s (tProt k (some l) (some va)))) ∧
    (∀ (va : Word64) (n : Nat), va.toNat % n ≠ 0 → ∀ (sp : Space) (need : Need), s.locate sp va n need = (s, .mis)) ∧
    let sound := fun (part : Nat → Bool) =>
      ∀ r ∈ rs, part r.1 → r.2.2 ≠ .mis ∧ (∀ k, r.2.2 ≠ .prot k)
    let waits := rs.filterMap fun r => match r.2.2 with
      | .wait w => some w
      | _ => none
    let meets := fun (i : Instr) (part : Nat → Bool) =>
      sound part →
        (rs.find? (fun r => part r.1 && r.2.2 == .page) = some (l, va, .page) →
          exec i s = .next (s.takePage s.here (some l) va).stop) ∧
        ((∀ r ∈ rs, part r.1 → r.2.2 ≠ .page) → waits ≠ [] → exec i s = .next (s.parkHere (Wait.join waits)).stop)
    (∀ t : LType, locateAll .glob (fun l => s.addr m l) (LType.bytes t) .load act s = (s1, rs) →
      meets (.ld t d m x) (Mask.has s.actNH)) ∧
    (∀ w : TvW, locateAll .vault (fun l => s.addr m l) (TvW.bytes w) .load act s = (s1, rs) →
      meets (.ldv w d m x) (Mask.has s.actNH)) ∧
    (∀ w : StW, locateAll .glob (fun l => s.addr m l) (StW.bytes w) .store
        (s.storeLanes .glob (fun l => s.addr m l) (StW.bytes w)) s = (s1, rs) → meets (.st w a m x) fun _ => true) ∧
    ∀ w : TvW, locateAll .vault (fun l => s.addr m l) (TvW.bytes w) .store
        (s.storeLanes .vault (fun l => s.addr m l) (TvW.bytes w)) s = (s1, rs) → meets (.stv w a m x) fun _ => true) ∧
  (∀ (s : State) (lane : Option Nat) (va : Word64), s.g.kind = .user → s.g.live →
    let b := s.blk
    let c := s.myCtx
    let sr := { s.g.sr with
      fault := BitVec.ofNat 64 (lane.getD 0x7F * 2 ^ 41 + s.slot % 4 * 2 ^ 32 + 0x10)
      faddr := va }
    let bytes := toBytes 64 (2 ^ 224 + b.att.toNat * 2 ^ 232 + slotOf s.cur.gid % 32 * 2 ^ 242 + b.pcore % 512 * 2 ^ 247
      + b.area.getD 0 % 2 ^ 16 * 2 ^ 256 + b.ctx % 2 ^ 16 * 2 ^ 272 + s.e.pc.toNat * 2 ^ 288 + va.toNat * 2 ^ 320
      + sr.fault.toNat * 2 ^ 384 + (s.times.get 0 (dieOf b.pcore)).toNat * 2 ^ 448)
    let at' := c.fltring + BitVec.ofNat 64 (64 * (c.fltwr.toNat % 2 ^ c.fltlog.toNat))
    let p := s.setG (s.g.setEnt s.cur.ent (s.e.parked .fault s.clock))
    let v := p.setG { p.g with sr := sr }
    let u := s.takePage s.here lane va
    (c.recs ≠ [] ∨ c.ringFull →
      u.g.sr = sr ∧ u.ctx b.vi b.ctx = { c with recs := c.recs ++ [bytes] } ∧ u.msix = s.msix ∧
      u.e = s.e.parked (.record (c.fltwr + BitVec.ofNat 32 c.recs.length)) s.clock) ∧
    ∀ w, c.recs = [] → c.ringFull = false → v.ctxWrite b.pcore b.vi b.ctx at' bytes = .ok w →
      u.g.sr = sr ∧ u.ctx b.vi b.ctx = { c with fltwr := c.fltwr + 1 } ∧ u.msix = s.msix ++ [(b.vi, c.vec.toNat)] ∧
      u.e = s.e.parked .fault s.clock ∧ ∀ a, u.memByte a = w.memByte a)

/-- R76, R222, R223: with the tile requested, LDAC gives each active lane the row's sixteen elements of its
accumulator, and STAC writes them from each active non-helper lane and no other word, once no MMAC at its rendezvous
uses the tile; without it, each raises the protection trap. R126, R247, R259: MZERO clears a tile, or a pair of tiles,
and no other word; MRD gives each active lane the sixteen converted elements of its row, MWR writes them converted
from its registers; both raise the conversions' flags; each waits too while an MMAC at its rendezvous uses the tile
(R250). A partial mask, the save handler for the writing forms, and a
tile that was not requested raise their traps. -/
def Obligations.AccumulatorMoves : Prop :=
  (∀ (s : State) (v : Fin 96) (t : Fin 10) (g : Fin 4) (f64 : Bool) (x : Acc), s.g.isLoupe = false → x.order = .rlx →
    (s.blk.hasAcc f64 t.val = false → Traps (.ldac v t g f64 x) s (tProt 0 none none) ∧
      (s.g.inSave = false → Traps (.stac v t g f64 x) s (tProt 0 none none))) ∧
    (s.blk.hasAcc f64 t.val → s.accBusy f64 t.val →
      exec (.ldac v t g f64 x) s = .next (s.parkHere (.acc f64 t.val)).stop ∧
      (s.g.inSave = false → exec (.stac v t g f64 x) s = .next (s.parkHere (.acc f64 t.val)).stop)) ∧
    (s.blk.hasAcc f64 t.val → s.accBusy f64 t.val = false →
      SetsV (.ldac v t g f64 x) s s.active v.val (if f64 then 32 else 16)
        (fun k l => s.blk.acc.get 0
          (if f64 then 6144 * t.val + 128 * l + 2 * (16 * g.val + k / 2) + k % 2
           else 6144 * t.val + 64 * l + 16 * g.val + k)) 0 ∧
      (s.g.inSave = false → Completes (.stac v t g f64 x) s fun u =>
        Went s u s.next ∧ u.g = { s.g with tab := u.g.tab } ∧ u = { s with groups := u.groups, blocks := u.blocks } ∧
        (∀ i, i ≠ s.g.bid → u.block i = s.block i) ∧ u.blk = { s.blk with acc := u.blk.acc } ∧
        (∀ l < 96, ∀ k < 16, u.blk.accAt f64 t.val l (16 * g.val + k) =
          if Mask.has s.actNH l then (if f64 then (s.readV64 (v.val + 2 * k) l).toNat else (s.readV (v.val + k) l).toNat)
          else s.blk.accAt f64 t.val l (16 * g.val + k)) ∧
        ∀ q, (∀ l < 96, Mask.has s.actNH l → ∀ k < 16,
            q ≠ accKey f64 t.val l (16 * g.val + k) ∧ (f64 → q ≠ accKey f64 t.val l (16 * g.val + k) + 1)) →
          u.blk.acc.get 0 q = s.blk.acc.get 0 q))) ∧
  (∀ (s : State) (f64 : Bool) (t : Fin 10) (f : MrwF), s.g.isLoupe = false →
    (∀ x, s.accStop true f64 t.val = some x → Traps (.mzero f64 t) s x) ∧
    (∀ x, s.accStop false f.tf64 f.t.val = some x → Traps (.mrd f) s x) ∧
    (∀ x, s.accStop true f.tf64 f.t.val = some x → Traps (.mwr f) s x) ∧
    (s.accStop true f64 t.val = none → s.accBusy f64 t.val →
      exec (.mzero f64 t) s = .next (s.parkHere (.acc f64 t.val)).stop) ∧
    (s.accBusy f.tf64 f.t.val →
      (s.accStop false f.tf64 f.t.val = none → exec (.mrd f) s = .next (s.parkHere (.acc f.tf64 f.t.val)).stop) ∧
      (s.accStop true f.tf64 f.t.val = none → exec (.mwr f) s = .next (s.parkHere (.acc f.tf64 f.t.val)).stop)) ∧
    (s.accStop true f64 t.val = none → s.accBusy f64 t.val = false → Completes (.mzero f64 t) s fun u =>
      Went s u s.next ∧ u.g = { s.g with tab := u.g.tab } ∧ u = { s with groups := u.groups, blocks := u.blocks } ∧
      (∀ i, i ≠ s.g.bid → u.block i = s.block i) ∧ u.blk = { s.blk with acc := u.blk.acc } ∧
      ∀ q, u.blk.acc.get 0 q =
        if 6144 * t.val ≤ q ∧ q < 6144 * (t.val + if f64 then 2 else 1) then 0 else s.blk.acc.get 0 q) ∧
    (s.accStop false f.tf64 f.t.val = none → s.accBusy f.tf64 f.t.val = false →
      let x := fun l c => (FType.fmt f.f).cvt (accFmt f.tf64) f.rnd s.ftz
        (s.blk.accAt f.tf64 f.t.val l (16 * f.g.val + c))
      SetsV (.mrd f) s s.active f.v.val (FType.regs f.f) (fun k l => packWord f.f (fun c => (x l c).1) k)
        (s.laneFlags fun l => (List.range 16).foldl (fun a c => a ||| (x l c).2) 0)) ∧
    (s.accStop true f.tf64 f.t.val = none → s.accBusy f.tf64 f.t.val = false → Completes (.mwr f) s fun u =>
      let x := fun l c => (accFmt f.tf64).cvt (FType.fmt f.f) f.rnd s.ftz (s.packed f.f f.v.val c l)
      Went s u s.next ∧ u = { s with groups := u.groups, blocks := u.blocks } ∧
      (∀ i, i ≠ s.g.bid → u.block i = s.block i) ∧ u.blk = { s.blk with acc := u.blk.acc } ∧
      u.g = { s.g with
        tab := u.g.tab
        sr := { s.g.sr with
          fpstat := s.g.sr.fpstat ||| s.laneFlags fun l => (List.range 16).foldl (fun a c => a ||| (x l c).2) 0 } } ∧
      ∀ l < 96, ∀ c < 16, u.blk.accAt f.tf64 f.t.val l (16 * f.g.val + c) =
        if Mask.has s.active l then (x l c).1 % 2 ^ (if f.tf64 then 64 else 32) else s.blk.accAt f.tf64 f.t.val l (16 * f.g.val + c)))

/-! ### Matrix -/

/-- R247, R249 to R252: an MMA whose tag differs from a held keep latch raises the illegal-encoding trap, and one that
fails a check of R247 the first such check's trap; it waits while an MMAC at its rendezvous uses the tile; else each
element of an active row of the tile takes the accumulation of A's row, from the latch where it is held, by B's column,
other rows stand, the matrix status bits are ORed in, and the latch is kept or dropped as the instruction says. Points
that the rules leave open here are the model's own: log entry 42. -/
def Obligations.MmaAccumulates : Prop :=
  ∀ (s s1 : State) (f : MmaF) (bs : Array Byte), s.g.isLoupe = false →
    (s.keepOk f = false → Traps (.mma f) s tEncoding) ∧
    (s.keepOk f → ∀ x, s.mmaStop f = some x → Traps (.mma f) s x) ∧
    (s.keepOk f → s.mmaStop f = none → s.accBusy f.tacc f.t.val →
      exec (.mma f) s = .next (s.parkHere (.acc f.tacc f.t.val)).stop) ∧
    (s.keepOk f → s.mmaStop f = none → s.accBusy f.tacc f.t.val = false →
      s.fetchB s.g.bid f (s.readS f.sreg.val) = (s1, .ok bs) →
      Completes (.mma f) s fun t =>
        Went s t s.next ∧ (∀ i, i ≠ s.cur.gid → t.group i = s.group i) ∧ t.blk = { s.blk with acc := t.blk.acc } ∧
        (∀ i, i ≠ s.g.bid → t.block i = s.block i) ∧
        t.g = { s.g with tab := t.g.tab, sr := t.g.sr, keep := t.g.keep } ∧
        t.g.sr = { s.g.sr with mnv := t.g.sr.mnv, mov := t.g.sr.mov } ∧
        (s.g.sr.mnv → t.g.sr.mnv) ∧ (s.g.sr.mov → t.g.sr.mov) ∧ (f.keep = false → t.g.keep = none) ∧
        (f.keep → t.g.keep = some (s.g.keep.getD
          ⟨f.x.val, f.e.val, f.ta, f.bla, (s.readA f).regs, (s.readA f).exps⟩)) ∧
        ∀ i < 96, ∀ j < 64, t.blk.accAt f.tacc f.t.val i j =
          let a := match s.g.keep with
            | some k => (⟨k.regs, k.exps⟩ : AOp)
            | none => s.readA f
          if Mask.has s.active i then
            ((accFmt f.tacc).accumulate (s.blk.accAt f.tacc f.t.val i j)
              (chunksOf f.ta (a.row f.ta f.bla i) ((List.range (MType.depth f.ta)).map fun k => bElem f bs j k))).1
              % 2 ^ (if f.tacc then 64 else 32)
          else s.blk.accAt f.tacc f.t.val i j)

/-- R247, R253 to R255: MMAC outside a neighbourhood of its shape raises the protection trap; alone it multiplies its
own operands; it waits while another fragment of its group stands at a rendezvous, or another MMAC at one uses its tile
(R250); a member that is not the last to arrive leaves its arrival and parks; with the last one every member's arrival
is taken, its count advances, and its fragment goes on; members whose forms differ all take the illegal-encoding trap.
Points that the rules leave open here are the model's
own: log entries 32 and 42. -/
def Obligations.MmacMeets : Prop :=
  ∀ (s s1 : State) (f : MmaF) (c : MmacF) (ms : List Member), s.g.isLoupe = false →
    let h := c.hm.val + 1
    let w := c.wm.val + 1
    let co := s.cohorts.get Cohort.empty s.blk.coh
    let near := co.live = true ∧ co.level = .neigh ∧ co.h = h ∧ co.w = w
    let arr : MmacArrival :=
      { f := f, c := c, ent := s.cur.ent, a := (s.readA f).regs, e := (s.readA f).exps, b := s.readS f.sreg.val
        mask := s.active }
    let s0 := s.setG { s.g with mmacAt := some arr }
    (h * w ≠ 1 → ¬near → Traps (.mmac f c) s (tProt 0 none none)) ∧
    (h * w = 1 ∨ near → ∀ x, s.mmaStop f = some x → Traps (.mmac f c) s x) ∧
    (h * w = 1 ∨ near ∧ s.g.mmacAt = none → s.mmaStop f = none → s.accBusy f.tacc f.t.val →
      exec (.mmac f c) s = .next (s.parkHere (.acc f.tacc f.t.val)).stop) ∧
    (∀ o, h * w ≠ 1 → near → s.mmaStop f = none → s.g.mmacAt = some o →
      exec (.mmac f c) s = .next (s.parkHere (.acc o.f.tacc o.f.t.val)).stop) ∧
    (h * w = 1 → s.mmaStop f = none → s.accBusy f.tacc f.t.val = false → ∀ bs, s.fetchB s.g.bid f (s.readS f.sreg.val) = (s1, .ok bs) →
      Completes (.mmac f c) s fun t => Went s t s.next ∧ t.g.keep = s.g.keep ∧
        t.blk = (s1.blk.product f f.t.val (s.readA f) (bCols f bs) s.active).1) ∧
    (h * w ≠ 1 → near → s.mmaStop f = none → s.g.mmacAt = none → s.accBusy f.tacc f.t.val = false →
      co.members.length = h * w → s0.arrivals s.g.gix s.g.mmacN co.members = none →
      Completes (.mmac f c) s fun t =>
        OnlyGroup s t ∧ t.g.mmacAt = some arr ∧ t.e.st = .parked ∧ t.e.wait = .mmac ∧ t.e.pc = s.wordPc ∧ t.e.flagged ∧
        t.g = { s.g with mmacAt := t.g.mmacAt, tab := t.g.tab }) ∧
    (h * w ≠ 1 → near → s.mmaStop f = none → s.g.mmacAt = none → s.accBusy f.tacc f.t.val = false →
      co.members.length = h * w → s0.arrivals s.g.gix s.g.mmacN co.members = some ms →
      (∃ m ∈ ms, ∃ m' ∈ ms, sameShape m.arr m'.arr = false) →
      ∃ as : List At, as.map (·.gid) = (ms.map (·.gid)).filter (· != s.cur.gid) ∧
        exec (.mmac f c) s = .next (((s0.meet ms false).takeTraps (s.here :: as) tEncoding).failed tEncoding)) ∧
    (h * w ≠ 1 → near → s.mmaStop f = none → s.g.mmacAt = none → s.accBusy f.tacc f.t.val = false →
      co.members.length = h * w → s0.arrivals s.g.gix s.g.mmacN co.members = some ms →
      (∀ m ∈ ms, sameShape arr m.arr) → (ms.map (·.gid)).Nodup →
      ∀ bs, State.fetchAll (if c.splitK then ms else ms.take w) s0 = (s1, .ok bs) →
      Completes (.mmac f c) s fun t => ∀ m ∈ ms,
        (t.group m.gid).mmacAt = none ∧ (t.group m.gid).mmacN = (s.group m.gid).mmacN + 1 ∧
        ((t.group m.gid).ent m.arr.ent).st = .ready ∧ ((t.group m.gid).ent m.arr.ent).wait = .none)

/-! ### Atomics and reductions -/

/-- R102, R217, R227 to R231: where the address of every active non-helper lane passes its checks, a returning atomic
acts for those lanes in increasing order, each on the value the one before left, and gives each its old value; the new
value is that of the operation. R129, R229, R230: reductions act in the same way and give no result; the paired
bfloat16 form needs the deprecated class's feature. Points that the rules leave open here are the model's own: log
entry 30. -/
def Obligations.Atomics : Prop :=
  (∀ (s s1 : State) (rs : List (Nat × Word64 × LRes)) (d : Fin 96) (m : MAddr) (x : Acc),
    let ls := (Mask.list s.actNH).map Fin.val
    let acts := fun (i : Instr) (n : Nat) (new : Nat → Nat → Nat) =>
      locateAll .glob (fun l => s.addr m l) n .both ls s = (s1, rs) → AllOk s1 rs →
        LoadsV i s s.actNH d.val (n / 4) fun k l =>
          BitVec.ofNat 32 (Store.get 0 (State.rmwAll x.scope n new rs (s1.relPart x)).2 l / 2 ^ (32 * k))
    let typed := fun (i : Instr) (t : AType) (op : AtOp) =>
      acts i (AType.bits t / 8) fun l old => atVal op t old (s.oldD (AType.bits t) d l)
    (∀ t, typed (.aadd t d m x) t .add) ∧ (∀ t : AType32, typed (.amin32 t d m x) t.aType .min) ∧
    (∀ t : AType64F, typed (.amin64Fp t d m x) t.aType .min) ∧ (∀ t : ATypeInt, typed (.amaxInt t d m x) t.aType .max) ∧
    (∀ t : ATypeFp, typed (.amaxFp t d m x) t.aType .max) ∧
    (∀ w : Wid,
      let n := Wid.width w / 8
      let r := fun l => s.oldD (Wid.width w) d l
      acts (.aand w d m x) n (fun l old => old &&& r l) ∧ acts (.aor w d m x) n (fun l old => old ||| r l) ∧
      acts (.axor w d m x) n (fun l old => old ^^^ r l) ∧ acts (.axchg w d m x) n (fun l _ => r l) ∧
      acts (.acas w d m x) n (fun l old =>
        if old = s.regsAt d.val (n / 4) l then s.regsAt (d.val + n / 4) (n / 4) l else old)) ∧
    acts (.acasB128 d m x) 16 (fun l old => if old = s.regsAt d.val 4 l then s.regsAt (d.val + 4) 4 l else old) ∧
    acts (.aincwN32 d m x) 4 (fun l old => if s.oldD 32 d l ≤ old then 0 else old + 1) ∧
    acts (.aincwN64 d m x) 8 (fun l old => if s.oldD 64 d l ≤ old then 0 else old + 1)) ∧
  (∀ (s s1 : State) (rs : List (Nat × Word64 × LRes)) (a : Src) (m : MAddr) (x : Acc),
    let ls := (Mask.list s.actNH).map Fin.val
    let acts := fun (i : Instr) (n : Nat) (new : Nat → Nat → Nat) =>
      locateAll .glob (fun l => s.addr m l) n .both ls s = (s1, rs) → AllOk s1 rs →
        Stores i s fun t =>
          t = ((State.rmwAll x.scope n new rs (s1.relPart x)).1.acqPart x).advance s.next
    let typed := fun (i : Instr) (t : AType) (op : AtOp) =>
      acts i (AType.bits t / 8) fun l old => atVal op t old (s.src a t.opT (AType.fmt t) l)
    (∀ t, typed (.redAdd t a m x) t .add ∧ typed (.redMin t a m x) t .min) ∧
    (∀ t : AType32, typed (.redMax32 t a m x) t.aType .max) ∧
    (∀ t : AType64F, typed (.redMax64Fp t a m x) t.aType .max) ∧
    (∀ w : Wid,
      let n := Wid.width w / 8
      let v := fun l => s.srcI a w.opT l
      acts (.redAnd w a m x) n (fun l old => old &&& v l) ∧ acts (.redOr w a m x) n (fun l old => old ||| v l) ∧
      acts (.redXor w a m x) n (fun l old => old ^^^ v l)) ∧
    (s.feature 25 → acts (.redAddPbf16 a m x) 4 fun l old =>
      let v := s.srcI a .i32 l
      Fmt.bf16.atomAdd (old % 2 ^ 16) (v % 2 ^ 16) + 2 ^ 16 * Fmt.bf16.atomAdd (old / 2 ^ 16) (v / 2 ^ 16)) ∧
    (s.feature 25 = false → Traps (.redAddPbf16 a m x) s tInstruction))

/-- R90, R95, R102: a write of a scope by one cluster is what every cluster in the unit of that scope then reads, and
an atomic leaves the new value there; copies of other lines stand. Points that the rules leave open here are the
model's own: log entries 30 and 35. -/
def Obligations.CoherentWrites : Prop :=
  ∀ (s : State) (k k' asid asid' pa n : Nat) (x : Scope) (bs : List Byte) (f : List Byte → List Byte),
    let line := pa / 128
    k < 64 → k' < 64 → pa < 2 ^ 48 → pa % 128 + n ≤ 128 → bs.length = n → (∀ b, (f b).length = n) →
    (∀ u < 64, (s.copy u line).owner = none) →
    (cluPath k').getD (Scope.depth x) 78 = (cluPath k).getD (Scope.depth x) 78 →
    ((s.writeFrom k x asid pa bs).readFrom k' asid' pa n).2 = bs ∧
    (let r := s.atomicFrom k x asid pa n f
     (r.1.readFrom k' asid' pa n).2 = f r.2) ∧
    ∀ u l, u < 79 → l < 2 ^ 41 → l ≠ line → (s.writeFrom k x asid pa bs).copy u l = s.copy u l

/-! ### Fences, barriers, waits -/

/-- R79, R92, R232, R233: every fence acknowledges the party's vault writes; one with a release part drains the party's
stores and its cluster's copies to its scope; one with an acquire part invalidates its core's L1 from cluster scope on;
FENCE.V does no more. Registers and masks stand. R107, R236, R237: WAITC goes to its target once the counter has reached
the value, and parks below it; WAITQ gives the slot's address once it is published, and parks before; the value and the
slot are those read when the word was first issued; an unbound handle raises the protection trap. -/
def Obligations.FencesAndWaits : Prop :=
  (∀ (s : State) (x : Scope),
    Stores (.fence x .rel) s (fun t => t = (s.relScope x).advance s.next ∧
      (∀ e ∈ t.wtq, e.core ≠ s.core) ∧ ∀ w ∈ t.vq, w.gid ≠ s.cur.gid) ∧
    Stores (.fence x .acq) s (fun t => t = ((s.ackVaults s.cur.gid).acqScope x).advance s.next ∧
      (∀ w ∈ t.vq, w.gid ≠ s.cur.gid) ∧
      (s.g.isLoupe = false → x ≠ .core → ∀ line, line < 2 ^ 41 → (t.l1Line s.core line).valid = false) ∧
      (x = .core → t.l1 = s.l1)) ∧
    Stores (.fence x .ar) s (fun t => t = ((s.relScope x).acqScope x).advance s.next) ∧
    Stores .fenceV s (fun t => (∀ w ∈ t.vq, w ∈ s.vq ∧ w.gid ≠ s.cur.gid) ∧
      (∀ w ∈ s.vq, w.gid ≠ s.cur.gid → w ∈ t.vq) ∧ t.wtq = s.wtq ∧ t.coh = s.coh ∧ t.mem = s.mem ∧
      ∀ w, s.vq = [w] → w.gid = s.cur.gid → w.performed = false → ∀ a,
        t.vault.get 0 a = if w.vault * 2 ^ 22 + w.off ≤ a ∧ a < w.vault * 2 ^ 22 + w.off + w.bytes.length then
          w.bytes.getD (a - (w.vault * 2 ^ 22 + w.off)) 0 else s.vault.get 0 a)) ∧
  (∀ (s : State) (k : Fin 32) (a d : Fin 64) (x : Scope) (t : Target) (q : Fin 16) (r : Nat),
    let c := s.tc k.val
    let n := s.waitCount a
    let ring := s.ring r
    let i := s.waitSlot a
    let parks := fun (u : State) (w : Wait) =>
      u.e = { s.e.parked w s.clock with pc := s.wordPc, cont := some s.next } ∧
      ∀ j, j ≠ s.cur.ent → u.g.ent j = s.g.ent j
    (s.e.wait = .none → n = s.readS a.val ∧ i = BitVec.ofNat 32 (s.readS a.val).toNat) ∧
    (∀ h m, s.e.wait = .counter h m → n = m) ∧ (∀ h m, s.e.wait = .ring h m → i = m) ∧
    (c.bind = .unbound → Traps (.waitc k a x t) s (tProt 5 none none)) ∧
    (c.bind ≠ .unbound → c.value < n → Completes (.waitc k a x t) s fun u =>
      OnlyGroup s u ∧ parks u (.counter k.val n) ∧ u.g = { s.g with tab := u.g.tab }) ∧
    (c.bind ≠ .unbound → n ≤ c.value → Completes (.waitc k a x t) s fun u =>
      MemOnly { s with groups := u.groups, times := u.times } u ∧ Went s u (t.pc s.wordPc) ∧
      u.g = { s.g with tab := u.g.tab }) ∧
    (s.g.isLoupe → exec (.waitq d a x q) s = .next (s.recallAt s.cur.gid).stop) ∧
    (s.g.isLoupe = false → s.ringOf q = none → Traps (.waitq d a x q) s (tProt 5 none none)) ∧
    (s.g.isLoupe = false → s.ringOf q = some r → ring.st = .active →
      (ring.published i → Completes (.waitq d a x q) s fun u =>
        SetS s u d.val (ring.base + BitVec.ofNat 64 (i.toNat % 2 ^ ring.lcount * 2 ^ ring.lsize)) s.next ∧
        (u.ring r).pub = ring.pub ∧ (u.ring r).read = ring.read) ∧
      (ring.published i = false → Completes (.waitq d a x q) s fun u => parks u (.ring r i))))

/-- R38, R45, R234, R235: at a barrier of its block, or of its cohort, a group that others have not joined parks with
its arrival counted; the last group's arrival completes the generation, and the fragments parked at it go on; of a
cohort, while no member is off its core. In a handler BAR uses the handlers' own barrier. R205: SYNCM with no
participant goes on; with masks that differ, that leave out a participant, hold an exited lane or share a lane with
another waiting set it raises the mask-mismatch trap; otherwise the participants join the waiting set of their mask, or
a new one: when every lane of the mask has arrived, the set is gone and every fragment of it goes on, and until then
the fragment parks in it. Points that the rules leave open here are the model's own:
log entry 16. -/
def Obligations.Barriers : Prop :=
  (∀ (s : State) (n : Fin 16), s.g.kind = .user → s.g.live → s.e.valid → s.e.after = none →
    s.cur.gid ∈ s.blk.gids → s.blk.gids.Nodup →
    let k := if s.g.hnd.isSome then 16 else n.val
    let live := s.liveIx s.g.bid
    let me := s.g.gix
    let b := s.blk.bars.get Bar.zero k
    let coh := s.cohorts.get Cohort.empty s.blk.coh
    let clive := s.cohortIx coh
    let cme := 16 * s.g.bid + me
    (me ∉ b.arrived → b.arrived.Nodup → noSlot ∉ b.arrived → b.early = [] →
      ((∃ i ∈ live, i ≠ me ∧ i ∉ b.arrived) → Completes (.bar n) s fun t =>
        t.e.st = .parked ∧ t.e.wait = .bar k b.gen ∧
        (me ∈ live → me ∈ (t.blk.bars.get Bar.zero k).arrived) ∧
        (t.blk.bars.get Bar.zero k).gen = b.gen ∧ ∀ i, i ≠ s.cur.gid → t.group i = s.group i) ∧
      (me ∈ live → (∀ i ∈ live, i ≠ me → i ∈ b.arrived) → Completes (.bar n) s fun t =>
        t.e.st = .ready ∧ t.e.wait = .none ∧ t.e.pc = s.next ∧
        (t.blk.bars.get Bar.zero k).gen = b.gen + 1 ∧ (t.blk.bars.get Bar.zero k).arrived = [] ∧
        ∀ i ∈ s.liveGids s.blk, i ≠ s.cur.gid → ∀ j, ((s.group i).ent j).valid →
          ((s.group i).ent j).wait = .bar k b.gen → ((s.group i).ent j).st = .parked →
          ((t.group i).ent j).st = .ready ∧ ((t.group i).ent j).wait = .none)) ∧
    (cme ∉ coh.cbar.arrived → coh.cbar.arrived.Nodup → noSlot ∉ coh.cbar.arrived → coh.cbar.early = [] →
      let after := fun (t : State) => (t.cohorts.get Cohort.empty s.blk.coh).cbar
      ((∃ i ∈ clive, i ≠ cme ∧ i ∉ coh.cbar.arrived) ∨ (∃ b ∈ coh.members, (s.block b).live = false ∨ (s.block b).saved) →
        Completes .cbar s fun t =>
          t.e.st = .parked ∧ t.e.wait = .cbar coh.cbar.gen ∧ (cme ∈ clive → cme ∈ (after t).arrived) ∧
          (∀ i ∈ clive, i ∈ coh.cbar.arrived → i ∈ (after t).arrived) ∧ (after t).gen = coh.cbar.gen ∧
          ∀ i, i ≠ s.cur.gid → t.group i = s.group i) ∧
      (cme ∈ clive → clive.Nodup → s.cur.gid ∈ s.cohortGids coh → (∀ i ∈ clive, i ≠ cme → i ∈ coh.cbar.arrived) →
        (∀ b ∈ coh.members, (s.block b).live ∧ (s.block b).saved = false) → Completes .cbar s fun t =>
          t.e.st = .ready ∧ t.e.wait = .none ∧ t.e.pc = s.next ∧ (after t).gen = coh.cbar.gen + 1 ∧
          (after t).arrived = [] ∧
          ∀ i ∈ s.cohortGids coh, i ≠ s.cur.gid → ∀ j, ((s.group i).ent j).valid →
            ((s.group i).ent j).wait = .cbar coh.cbar.gen → ((s.group i).ent j).st = .parked →
            ((t.group i).ent j).st = .ready ∧ ((t.group i).ent j).wait = .none))) ∧
  (∀ (s : State) (a : Fin 94) (m : Mask), s.g.isLoupe = false →
    (s.actNH = 0 → Moves (.syncm a) s s.next) ∧
    (∀ j k, j < 96 → k < 96 → Mask.has s.actNH j → Mask.has s.actNH k → s.member a j ≠ s.member a k →
      Traps (.syncm a) s tMask) ∧
    (s.actNH ≠ 0 → (∀ j < 96, Mask.has s.actNH j → s.member a j = m) →
      (s.actNH &&& ~~~ m ≠ 0 ∨ m &&& s.g.exited ≠ 0 → Traps (.syncm a) s tMask) ∧
      (s.actNH = m → m &&& s.g.exited = 0 → s.g.syncm = [] → Completes (.syncm a) s fun t =>
        MemOnly { s with groups := t.groups } t ∧ (∀ i, i ≠ s.cur.gid → t.group i = s.group i) ∧
        Went s t s.next ∧ t.g = { s.g with tab := t.g.tab }) ∧
      (s.actNH &&& ~~~ m = 0 → s.actNH ≠ m → m &&& s.g.exited = 0 → s.g.syncm = [] →
        Completes (.syncm a) s fun t =>
          MemOnly { s with groups := t.groups } t ∧ (∀ i, i ≠ s.cur.gid → t.group i = s.group i) ∧
          t.g.syncm = [⟨m, s.actNH, [s.cur.ent]⟩] ∧ t.e.st = .parked ∧ t.e.wait = .syncm ∧ t.e.pc = s.wordPc ∧
          ∀ i, i ≠ s.cur.ent → t.g.ent i = s.g.ent i) ∧
      (s.actNH &&& ~~~ m = 0 → m &&& s.g.exited = 0 →
        ((∃ w ∈ s.g.syncm, w.m ≠ m ∧ w.m &&& m ≠ 0) → Traps (.syncm a) s tMask) ∧
        ((∀ w ∈ s.g.syncm, w.m ≠ m → w.m &&& m = 0) → ∀ w, s.g.syncm.find? (fun w => w.m == m) = some w →
          let rest := s.g.syncm.filter fun w => w.m != m
          (w.arrived ||| s.actNH ≠ m → Completes (.syncm a) s fun t =>
            t.g.syncm = rest ++ [{ w with arrived := w.arrived ||| s.actNH, ents := w.ents ++ [s.cur.ent] }] ∧
            t.e.st = .parked ∧ t.e.wait = .syncm ∧ t.e.pc = s.wordPc ∧
            ∀ i, i ≠ s.cur.ent → t.g.ent i = s.g.ent i) ∧
          (w.arrived ||| s.actNH = m → w.ents.Nodup → s.cur.ent ∉ w.ents → Completes (.syncm a) s fun t =>
            t.g.syncm = rest ∧ t.e = s.e.onAt s.next s.clock ∧
            (∀ i ∈ w.ents, t.g.ent i = (s.g.ent i).passed s.clock) ∧
            ∀ i, i ≠ s.cur.ent → i ∉ w.ents → t.g.ent i = s.g.ent i)))))

/-! ### Rings -/

/-- R44, R148, R263, R277 to R283: the ring instructions need every remaining lane and a bound handle. A claim that
fits gives FILL and advances it, and one that does not gives all ones; a publish and a release act on the ring after
the release of their scope, which leaves no store of the core and no vault write of the group behind and whose memory
stands: a legal run advances the ring, a bad one puts it into error 0x80 or 0x81, and a publish to a ring in error holds
the event for its group; QERR puts it into error with its code, and holds the event for its own group (these for groups
that stand on their cores); QSTAT gives its words; QRESTART restarts it from an agent alone. That a partial mask stops
an instruction before its binding is looked at is the model's choice (log entry 32); other points that the rules leave
open here: log entries 40 and 70. -/
def Obligations.RingInstructions : Prop :=
  ∀ (s : State) (d a : Fin 64) (a2 : Fin 63) (q : Fin 16) (x : Scope) (w : Fin 8) (code : BitVec 7) (h : Bool) (r : Nat)
    (i : Instr),
    let ring := s.ring r
    let ixOf := fun (k : Nat) => BitVec.ofNat 32 (s.readS k).toNat
    let homeOf := fun (k : Nat) => (s.block (k / 16)).gids.getD (k % 16) 0
    let u := s.relScope x
    let released := fun (t : State) =>
      t.wtq = u.wtq ∧ t.vq = u.vq ∧ t.coh = u.coh ∧ t.mem = u.mem ∧ (∀ e ∈ t.wtq, e.core ≠ s.core) ∧
        ∀ v ∈ t.vq, v.gid ≠ s.cur.gid
    let heard := s.g.live ∧ s.blk.gids.getD s.g.gix 0 = s.cur.gid ∧ ∀ k ∈ s.parkedOn r, (s.group (homeOf k)).live
    (s.g.isLoupe = false → i ∈ [.qpubClaim d q a, .qpubPub x q a2, .qrel x q a2, .qerr q code, .qstat d q w] →
      (s.partialMask → Traps i s tPartial) ∧
      (s.partialMask = false → s.ringOf q = none → Traps i s (tProt 5 none none))) ∧
    (s.g.isLoupe = false → s.partialMask = false → s.ringOf q = some r →
      (let n := (s.readS a.val).toNat
       (ring.st = .active → 1 ≤ n → n ≤ 2 ^ ring.lcount - (ring.fill - ring.read).toNat →
          Completes (.qpubClaim d q a) s fun t => SetS s t d.val (ring.fill.zeroExtend 64) s.next ∧
            (t.ring r).fill = ring.fill + BitVec.ofNat 32 n ∧ (t.ring r).pub = ring.pub ∧ (t.ring r).read = ring.read) ∧
       (ring.st ≠ .active ∨ n = 0 ∨ 2 ^ ring.lcount - (ring.fill - ring.read).toNat < n →
          Completes (.qpubClaim d q a) s fun t => SetS s t d.val (BitVec.allOnes 64) s.next ∧
            (t.ring r).fill = ring.fill ∧ (t.ring r).pub = ring.pub ∧ (t.ring r).read = ring.read)) ∧
      (let n := (s.readS (a2.val + 1)).toNat
       (∀ c, ring.st ≠ .error → ring.publish (ixOf a2.val) n = some c → Completes (.qpubPub x q a2) s fun t =>
          Went s t s.next ∧ t.g = { s.g with tab := t.g.tab } ∧ released t ∧ (∀ k, k ≠ r → t.ring k = s.ring k) ∧
          (t.ring r).pub = c.pub ∧ (t.ring r).pmark = c.pmark ∧ (t.ring r).fill = ring.fill ∧ (t.ring r).read = ring.read ∧ (t.ring r).st = ring.st) ∧
       (heard → ring.st ≠ .error → ring.publish (ixOf a2.val) n = none → Completes (.qpubPub x q a2) s fun t =>
          released t ∧ t.e.pc = s.next ∧ (t.ring r).st = .error ∧ (t.ring r).ecode = 0x80 ∧ (t.ring r).pub = ring.pub) ∧
       (heard → ring.st = .error → Completes (.qpubPub x q a2) s fun t =>
          released t ∧ t.e.pc = s.next ∧ (t.ring r).st = .error ∧ (t.ring r).ecode = ring.ecode ∧
          (t.ring r).pub = ring.pub ∧ ∃ p ∈ t.g.pend, p.code = 0x32) ∧
       (∀ c, ring.release (ixOf a2.val) n = some c → Completes (.qrel x q a2) s fun t =>
          Went s t s.next ∧ t.g = { s.g with tab := t.g.tab } ∧ released t ∧ (∀ k, k ≠ r → t.ring k = s.ring k) ∧
          (t.ring r).read = c.read ∧ (t.ring r).rmark = c.rmark ∧ (t.ring r).fill = ring.fill ∧ (t.ring r).pub = ring.pub ∧ (t.ring r).st = ring.st) ∧
       (heard → ring.st ≠ .error → ring.release (ixOf a2.val) n = none → Completes (.qrel x q a2) s fun t =>
          released t ∧ t.e.pc = s.next ∧ (t.ring r).st = .error ∧ (t.ring r).ecode = 0x81 ∧ (t.ring r).read = ring.read)) ∧
      (heard → Completes (.qerr q code) s fun t => t.e.pc = s.next ∧ (t.ring r).st = .error ∧
        (t.ring r).ecode = (if ring.st = .error then ring.ecode else code.zeroExtend 8) ∧
        ∃ p ∈ t.g.pend, p.code = 0x32) ∧
      SetsS (.qstat d q w) s d.val (match w.val with
        | 0 => BitVec.ofNat 64 (ring.ecode.toNat * 2 ^ 32 + RState.num ring.st * 2 ^ 30 + Scope.num ring.scope * 2 ^ 27
            + ring.lsize % 16 * 2 ^ 20 + ring.lcount % 32 * 2 ^ 15)
        | 1 => ring.fill.zeroExtend 64
        | 2 => ring.pub.zeroExtend 64
        | 3 => ring.read.zeroExtend 64
        | 4 => ring.base
        | _ => 0)) ∧
    (s.g.kind = .user → Traps (.qrestart d a2 h) s (tProt 6 none none)) ∧
    (s.g.isAgent →
      let ring := s.ring (s.readS a2.val).toNat
      let n := ixOf (a2.val + 1)
      ring.live →
      (2 ^ ring.lcount < (ring.pub - n).toNat → SetsS (.qrestart d a2 h) s d.val 1) ∧
      ((ring.pub - n).toNat ≤ 2 ^ ring.lcount → Completes (.qrestart d a2 h) s fun t =>
        SetS s t d.val 0 s.next ∧ t.ring (s.readS a2.val).toNat =
          { ring with read := n, fill := ring.pub, pmark := [], rmark := [], ecode := 0
                      st := if h then .halted else .active }))

/-- R277, R279, R280, R283: the indices of a ring always satisfy PUB - READ ≤ FILL - READ ≤ COUNT, with published
marks between PUB and FILL and released marks between READ and PUB: a claim that fits, a publish, a release and a
restart keep that, whatever run they name. -/
def Obligations.RingIndices : Prop :=
  let inv := fun (c : Ring) =>
    (c.pub - c.read).toNat ≤ (c.fill - c.read).toNat ∧ (c.fill - c.read).toNat ≤ 2 ^ c.lcount ∧ c.lcount ≤ 16 ∧
    (∀ m ∈ c.pmark, (m - c.pub).toNat < (c.fill - c.pub).toNat) ∧
    ∀ m ∈ c.rmark, (m - c.read).toNat < (c.pub - c.read).toNat
  ∀ (c c' : Ring) (i : BitVec 32) (n : Nat) (h : Bool), inv c →
    (c.canClaim n → inv { c with fill := c.fill + BitVec.ofNat 32 n }) ∧ (c.publish i n = some c' → inv c') ∧
    (c.release i n = some c' → inv c') ∧ (c.restart i h = some c' → inv c')

/-! ### Engines -/

/-- R105, R106, R262 to R276: an operation whose checks pass is issued: after a release, its handle's next number and
its operands are kept and the fragment goes on; an unbound channel or handle raises the protection trap; of the lanes'
checks the first that fails raises its trap. TCRD gives a counter's value; TCINC adds to a software counter after its
release, and a sum past 2^64 - 1 raises the protection trap and adds nothing. R85, R266: a PADD whose destination lies
in a transcode aperture raises the protection trap, and one whose walk waits waits for it. R269 to R271:
PCPYI and PCPYS with a legal control word are issued on their channel; a control word that breaks a bound raises the
illegal-encoding trap. R272 to R276: a Zoom transfer whose record is in the block's tile memory and passes the checks
of R274 is issued on its handle at cluster scope; a record that does not parse, or names another operation, raises the
illegal-encoding trap. Points that the rules leave open here are the model's own: log entries 32, 33 and 39. -/
def Obligations.EngineIssue : Prop :=
  (∀ (s : State), s.g.isLoupe = false →
    ∀ (w : PcpyW) (ty : PaddTy) (da aa : Fin 48) (dsp ssp : Space) (ch : Fin 8) (k : Nat) (sa : Fin 64) (h : Fin 32)
      (x : Scope) (n : Fin 64) (slot : Fin 4) (bytes : List Byte),
    let issues := fun (i : Instr) (k : Nat) (x : Scope) (op : EOp) => Completes i s fun t =>
      MemOnly { s with groups := t.groups, blocks := t.blocks } t ∧ (∀ j, j ≠ s.cur.gid → t.group j = s.group j) ∧
      Went s t s.next ∧ t.g = { s.g with tab := t.g.tab } ∧ t.blk = { s.blk with tc := t.blk.tc } ∧
      (∀ j, j ≠ k → t.tc j = s.tc j) ∧
      t.tc k = { s.tc k with
        issued := (s.tc k).issued + 1
        pend := (s.tc k).pend ++ [⟨(s.tc k).issued + 1, s.cur.gid, op, s.e.pc, s.slot⟩] } ∧
      t = (s.issueOp k x op).advance s.next
    (s.prismOf ch.val = none → Traps (.pcpy w false da aa dsp ssp ch) s (tProt 5 none none) ∧
      Traps (.padd ty da aa dsp ssp ch) s (tProt 5 none none)) ∧
    (s.prismOf ch.val = none ∨ s.attached ch.val = none → Traps (.pcpy w true da aa dsp ssp ch) s (tProt 5 none none)) ∧
    (s.prismOf ch.val = some k → s.saveBars dsp = false ∨ s.pairs da aa ≠ [] → ∀ x,
      ((s.pairs da aa).findSome? (fun p => s.lanePair (PcpyW.bytes w) dsp ssp p.1 p.2.1 p.2.2) = some x →
        Traps (.pcpy w false da aa dsp ssp ch) s x)) ∧
    (s.prismOf ch.val = some k → s.saveBars dsp = false →
      ((∀ p ∈ s.pairs da aa, s.lanePair (PcpyW.bytes w) dsp ssp p.1 p.2.1 p.2.2 = none) →
        issues (.pcpy w false da aa dsp ssp ch) k .core
          (.copy (PcpyW.bytes w) dsp ssp ((s.pairs da aa).map Prod.snd) none)) ∧
      (∀ q r, s.attached ch.val = some (q, r) → (s.ring r).st = .active →
        (∀ p ∈ s.pairs da aa, s.laneSlot (PcpyW.bytes w) (2 ^ (s.ring r).lsize) ssp p.1 p.2.1 p.2.2 = none) →
        (2 ^ (s.ring r).lcount ≤ ((s.ring r).fill - (s.ring r).read).toNat →
          Completes (.pcpy w true da aa dsp ssp ch) s fun t => t.e.st = .parked ∧ t.e.wait = .room r) ∧
        (((s.ring r).fill - (s.ring r).read).toNat < 2 ^ (s.ring r).lcount →
          Completes (.pcpy w true da aa dsp ssp ch) s fun t => Went s t s.next ∧
            (t.ring r).fill = (s.ring r).fill + 1 ∧ (t.tc k).issued = (s.tc k).issued + 1 ∧
            (t.tc k).pend.getLast?.map EPend.op = some (.copy (PcpyW.bytes w) .glob ssp
              ((s.pairs da aa).map fun p => (p.2.1, (s.ring r).slotVa (s.ring r).fill + p.2.2))
              (some (r, (s.ring r).fill))))) ∧
      ((∀ p ∈ s.pairs da aa, s.lanePair (PaddTy.bytes ty) dsp ssp p.1 p.2.1 p.2.2 = none) →
        let ws := (s.pairs da aa).filterMap fun p => s.addWait dsp p.2.2
        ((∀ p ∈ s.pairs da aa, s.addStop dsp p.1 p.2.2 = none) → ws ≠ [] →
          exec (.padd ty da aa dsp ssp ch) s = .next (s.parkHere (Wait.join ws)).stop) ∧
        ((∀ p ∈ s.pairs da aa, s.addStop dsp p.1 p.2.2 = none) → ws = [] →
          issues (.padd ty da aa dsp ssp ch) k .core (.add ty dsp ssp ((s.pairs da aa).map Prod.snd))) ∧
        ∀ x, (s.pairs da aa).findSome? (fun p => s.addStop dsp p.1 p.2.2) = some x →
          Traps (.padd ty da aa dsp ssp ch) s x)) ∧
    (s.feature 20 = false → ∀ i ∈ [Instr.zrst n, .zprl n, .zcpy n, .ztbl h n slot], Traps i s tInstruction) ∧
    (s.feature 20 → s.partialMask → ∀ i ∈ [Instr.zrst n, .zprl n, .zcpy n, .ztbl h n slot], Traps i s tPartial) ∧
    (s.feature 20 → s.partialMask = false → (s.tc h.val).bind = .zoom → (s.readS n.val).toNat % 16 = 0 →
      s.ownTile (s.readS n.val) 1040 = some bytes →
      (tableOk bytes → issues (.ztbl h n slot) h.val .clu (.table slot.val bytes)) ∧
      (tableOk bytes = false → Traps (.ztbl h n slot) s tEncoding)) ∧
    ((s.tc h.val).bind ≠ .soft → Traps (.tcinc x h sa) s (tProt 5 none none)) ∧
    ((s.tc h.val).bind = .soft → (s.tc h.val).value.toNat + (s.readS sa.val).toNat < 2 ^ 64 →
      Completes (.tcinc x h sa) s fun t =>
        MemOnly { s with groups := t.groups, blocks := t.blocks } t ∧ Went s t s.next ∧
        t.blk = { s.blk with tc := t.blk.tc } ∧ (∀ j, j ≠ h.val → t.tc j = s.tc j) ∧
        t.tc h.val = { s.tc h.val with value := (s.tc h.val).value + s.readS sa.val }) ∧
    ((s.tc h.val).bind = .soft → 2 ^ 64 ≤ (s.tc h.val).value.toNat + (s.readS sa.val).toNat →
      exec (.tcinc x h sa) s = .next (((s.relScope x).takeTrap s.here (tProt 0 none none)).failed (tProt 0 none none)))) ∧
  (∀ (s : State) (sd : Fin 64) (h : Fin 32),
    ((s.tc h.val).bind = .unbound → Traps (.tcrd sd h) s (tProt 5 none none)) ∧
    ((s.tc h.val).bind ≠ .unbound → SetsS (.tcrd sd h) s sd.val (s.tc h.val).value)) ∧
  (∀ (s : State) (dir : Bool) (ch : Fin 8) (c2 : Fin 2) (n : Fin 62) (z : Swz) (k : Nat) (dsp ssp : Space),
    s.g.isLoupe = false →
    let src := s.readS n.val
    let dst := s.readS (n.val + 1)
    let c := (s.readS (n.val + 2)).toNat
    let esz := 2 ^ (c / 2 ^ 40 % 4)
    let f := c / 2 ^ 32 % 256
    let cnt := c % 2 ^ 32
    let m := interleaved dir f cnt
    let lb := 7 + z.sb.val
    (0 < c / 2 ^ 46 ∨ f < 2 ∨ 64 < f ∨ cnt = 0 ∨ 2 ^ 24 < cnt → Traps (.pcpyi dir ch n) s tEncoding) ∧
    (0 < c / 2 ^ 46 ∨ cnt = 0 ∨ 2 ^ 24 < cnt ∨ cnt % 2 ^ lb ≠ 0 → Traps (.pcpys c2 n z) s tEncoding) ∧
    (spaceOf (c / 2 ^ 44 % 4) = some dsp → spaceOf (c / 2 ^ 42 % 4) = some ssp → c / 2 ^ 46 = 0 → s.saveBars dsp = false →
      (2 ≤ f → f ≤ 64 → 1 ≤ cnt → cnt ≤ 2 ^ 24 → s.prismOf ch.val = some k → src.toNat % esz = 0 → dst.toNat % esz = 0 →
        s.rangeAt ssp src (esz * if dir then m else cnt) = none →
        s.rangeAt dsp dst (esz * if dir then cnt else m) = none →
        exec (.pcpyi dir ch n) s =
          .next ((s.issueOp k .core (.interleave dir esz f cnt dsp ssp src dst)).advance s.next)) ∧
      (2 ≤ f → f ≤ 64 → 1 ≤ cnt → cnt ≤ 2 ^ 24 → s.prismOf ch.val = none →
        Traps (.pcpyi dir ch n) s (tProt 5 none none)) ∧
      (c / 2 ^ 32 % 1024 = 0 → 1 ≤ cnt → cnt ≤ 2 ^ 24 → cnt % 2 ^ lb = 0 → s.prismOf (6 + c2.val) = none →
        Traps (.pcpys c2 n z) s (tProt 5 none none)) ∧
      (c / 2 ^ 32 % 1024 = 0 → 1 ≤ cnt → cnt ≤ 2 ^ 24 → cnt % 2 ^ lb = 0 → s.prismOf (6 + c2.val) = some k →
        src.toNat % 2 ^ (4 + z.cs.val) = 0 → dst.toNat % 2 ^ (lb + 3) = 0 →
        s.rangeAt ssp src cnt = none → s.rangeAt dsp dst cnt = none →
        exec (.pcpys c2 n z) s =
          .next ((s.issueOp k .core (.swizzle z cnt dsp ssp src dst)).advance s.next)))) ∧
  (∀ (s : State) (n : Fin 64) (bytes : List Byte) (r : ZRec) (op : Nat) (i : Instr),
    s.g.isLoupe = false → s.feature 20 → s.partialMask = false →
    (op = 1 ∧ i = .zrst n ∨ op = 2 ∧ i = .zprl n ∨ op = 3 ∧ i = .zcpy n) →
    let a := s.readS n.val
    let t := (s.tc r.tc).latest r.slot
    let sr := gridRange r.sbase r.sext r.sstr (FType.bytes r.sfmt)
    let dr := gridRange r.dbase r.dext r.dstr (FType.bytes r.dfmt)
    (a.toNat % 128 ≠ 0 → Traps i s (tProt 0 none (some a))) ∧
    (a.toNat % 128 = 0 → s.ownTile a 128 = some bytes →
      (ZRec.parse (ofBytes bytes) = none → Traps i s tEncoding) ∧
      (ZRec.parse (ofBytes bytes) = some r →
        (r.op ≠ op → Traps i s tEncoding) ∧
        (r.op = op → (s.tc r.tc).bind ≠ .zoom → Traps i s (tProt 5 none none)) ∧
        (r.op = op → (s.tc r.tc).bind = .zoom → (op = 3 ∨ t ≠ [] ∧ tableKind t = op ∧ tableDims t = r.dims) →
          (r.ssp ≠ r.dsp ∨ sr.2 < dr.1 ∨ dr.2 < sr.1) → gridAligned r.sbase r.sstr (FType.bytes r.sfmt) →
          gridAligned r.dbase r.dstr (FType.bytes r.dfmt) → s.saveBars r.dsp = false →
          s.rangeStop r.ssp sr.1 sr.2 = none → s.rangeStop r.dsp dr.1 dr.2 = none →
          exec i s = .next ((s.issueOp r.tc .clu (.transfer bytes)).advance s.next)))))

/-! ### Task records -/

/-- R284 to R286: TEMIT with no lane only releases; with room it claims one slot per lane, in lane order, writes each
lane's 64 bytes to its slot at the scope, and publishes them; without room it parks. A partial mask stops both before
their other checks (log entry 32). TDONE needs aligned records in tile memory; with no lane it only releases; else
it increments the completion words of its records in lane order, after its release, and sends the decrements of their
successors. -/
def Obligations.TaskRecords : Prop :=
  ∀ (s s1 : State) (x : Scope) (q : Fin 16) (a : Fin 64) (p : Fin 8) (r : Nat) (rs : List (Nat × Word64 × LRes)),
    s.g.isLoupe = false →
    let va := s.readS a.val
    let ls := s.recLanes p
    let n := ls.length
    let ring := s.ring r
    let dst := fun (k : Nat) => ring.slotVa (ring.fill + BitVec.ofNat 32 k)
    let u := (s.relScope x).setRing r (ring.produces s.g.bid s.g.gix)
    (s.partialMask → Traps (.temit x q a p) s tPartial ∧ Traps (.tdone x a p) s tPartial) ∧
    (s.partialMask = false → va.toNat % 64 ≠ 0 → Traps (.tdone x a p) s (tProt 0 none (some va)) ∧
      (s.ringOf q = some r → Traps (.temit x q a p) s (tProt 0 none (some va)))) ∧
    (s.partialMask = false → va.toNat % 64 = 0 → ls = [] →
      Stores (.tdone x a p) s (fun t => t = (s.relScope x).advance s.next) ∧
      (s.ringOf q = some r → ring.lsize = 6 →
        Stores (.temit x q a p) s fun t => t = (s.relScope x).advance s.next)) ∧
    (let recs := ls.map fun l => (l, s.tileBytes (recVa va l) 64)
     let compl := fun (l : Nat) => ((recs.find? fun r => r.1 == l).map fun r => recCompl r.2).getD 0
     let loc := fun (l : Nat) => ((rs.find? fun r => r.1 == l).map fun r => r.2.2).getD .mis
     s.partialMask = false → va.toNat % 64 = 0 → s.recStop va ls = none →
     locateAll .glob compl 8 .both ((recs.filter fun r => recCompl r.2 != 0).map Prod.fst) s = (s1, rs) → AllOk s1 rs →
       Completes (.tdone x a p) s fun t => Went s t s.next ∧ t.g = { s.g with tab := t.g.tab } ∧
         t = (State.doneRecs x (recs.map fun r => (loc r.1, recSucc r.2)) (s1.relScope x)).advance s.next ∧
         t.decs = s.decs ++ ((recs.map fun r => recSucc r.2).filter (· ≠ 0)).map fun a =>
           { vi := s.blk.vi, q := s.queueNo s.blk, asid := s.blk.asid, ctxn := s.blk.ctx, addr := a, qdec := false }) ∧
    (s.partialMask = false → va.toNat % 64 = 0 → ls ≠ [] → s.recStop va ls = none → s.ringOf q = some r →
      ring.lsize = 6 → n ≤ 2 ^ ring.lcount → ring.lcount ≤ 16 →
      (ring.st = .active → 2 ^ ring.lcount < n + (ring.fill - ring.read).toNat →
        Completes (.temit x q a p) s fun t => t.e.st = .parked ∧ t.e.wait = .emit r n ∧ (t.ring r).fill = ring.fill) ∧
      (ring.st = .active → n + (ring.fill - ring.read).toNat ≤ 2 ^ ring.lcount →
        ring.pmark = [] → ring.pub = ring.fill →
        locateAll .glob dst 64 .store (List.range n) u = (s1, rs) → AllOk s1 rs →
        Completes (.temit x q a p) s fun t => Went s t s.next ∧ t.g = { s.g with tab := t.g.tab } ∧
          (t.ring r).fill = ring.fill + BitVec.ofNat 32 n ∧ (t.ring r).pub = ring.fill + BitVec.ofNat 32 n ∧
          (t.ring r).read = ring.read ∧
          (let c := ring.produces s.g.bid s.g.gix
           let w := State.putRecs x ((rs.map fun r => r.2.2).zip (ls.map fun l => s.tileBytes (recVa va l) 64))
             (s1.setRing r { c with fill := c.fill + BitVec.ofNat 32 n })
           t.coh = w.coh ∧ t.mem = w.mem) ∧
          ∀ l v pa asid, ls = [l] → rs = [(0, v, .ok (.glob pa asid))] → pa < 2 ^ 48 → pa % 128 + 64 ≤ 128 → s.clu < 64 →
            (∀ k < 64, (s1.copy k (pa / 128)).owner = none) →
            (t.readFrom s.clu asid pa 64).2 = s.tileBytes (recVa va l) 64))

/-! ### Events of fragments and groups -/

/-- R31, R107, R236, R237, R263: a parked fragment resumes at its parking instruction when its condition holds, and only
then: a counter has reached its value, a slot is published, a ring has room, a function is ready, a scrub or a deferral
has ended, or all of several that one access needs, the block's engine operations are complete, an accumulator or the
flags are no longer awaited; the count and the slot it waits for stand. A fragment at a barrier or a rendezvous or
before a page is not resumed so. R34, R35, R36: once every fragment under a tag waits, they fuse into the
lowest-numbered of them, or into the handler, at its reconvergence point, with the union of their masks and domains and
the join of the split that the tag's entry saved; the others' entries are free, and its deferral records stand (those of
another go over to it, log entry 68). R35: at the reconvergence point of its top deferral record an entry first takes
the record's other side, with its own lanes kept as arrived, and the second time takes the arrived lanes back and drops
the record. R63, R64: once no lane of an ejection record is out or held and every entry under it waits, the record is
freed and its lanes go on together at its reconvergence point, behind an acquire that leaves the core's L1 no line, and
in no group that stands still. Points that the rules leave open here are the model's own: log entries 18 and 68. -/
def Obligations.FragmentEvents : Prop :=
  (∀ (s : State) (gid ent : Nat),
    let g := s.group gid
    let e := g.ent ent
    let b := s.block g.bid
    let goesAs := fun (w : Wait) => exec (.parkedResume gid ent) s =
      .next (s.setGroup gid (g.setEnt ent { e with st := .ready, wait := w, since := s.clock }))
    let goes := goesAs .none
    let stays := exec (.parkedResume gid ent) s = .next s
    (g.live = false ∨ e.valid = false ∨ e.st ≠ .parked → stays) ∧
    (g.live → e.valid → e.st = .parked →
      (∀ k n, e.wait = .counter k n →
        (n ≤ (b.tc.get Tc.unbound k).value → goesAs (.counter k n)) ∧ ((b.tc.get Tc.unbound k).value < n → stays)) ∧
      (∀ r i, e.wait = .ring r i →
        ((s.ring r).st = .active → (s.ring r).published i → goesAs (.ring r i)) ∧
        ((s.ring r).st ≠ .active ∨ (s.ring r).published i = false → stays)) ∧
      (∀ r n, e.wait = .emit r n → ((s.ring r).canClaim n → goes) ∧ ((s.ring r).canClaim n = false → stays)) ∧
      (∀ r, e.wait = .room r → ((s.ring r).canClaim 1 → goes) ∧ ((s.ring r).canClaim 1 = false → stays)) ∧
      (∀ f, e.wait = .notReady f → (s.rdymap.getLsbD (Func.bit f) → goes) ∧
        (s.rdymap.getLsbD (Func.bit f) = false → stays)) ∧
      (∀ v, e.wait = .scrub v → ((s.vown.get Vown.reset v).scrub = false → goes) ∧
        ((s.vown.get Vown.reset v).scrub → stays)) ∧
      (∀ p, e.wait = .deferred p → (s.pageReady p → goes) ∧ (s.pageReady p = false → stays)) ∧
      (∀ fs ps vs, e.wait = .several fs ps vs →
        let ready := (∀ f ∈ fs, s.rdymap.getLsbD (Func.bit f)) ∧ (∀ p ∈ ps, s.pageReady p) ∧
          ∀ v ∈ vs, (s.vown.get Vown.reset v).scrub = false
        (ready → goes) ∧ (¬ready → stays)) ∧
      (e.wait = .engines → (b.idle → goes) ∧ (b.idle = false → stays)) ∧
      (∀ k, e.wait = .sweep k → goesAs (.sweep k)) ∧
      (e.wait = .stores →
        let taken := (∀ w ∈ s.vq, w.gid = gid → w.performed) ∧ ∀ w ∈ s.wtq, w.gid ≠ gid
        (taken → goesAs .stores) ∧ (¬taken → stays)) ∧
      (e.wait = .flags → (s.flagging gid 9 = false → goes) ∧ (s.flagging gid 9 → stays)) ∧
      (∀ f64 n, e.wait = .acc f64 n →
        let busy := ∃ i ∈ b.gids, ∃ a, (s.group i).mmacAt = some a ∧
          ∃ x ∈ accDst a.f.t.val a.f.tacc, x ∈ accDst n f64
        (¬busy → goes) ∧ (busy → stays)) ∧
      (e.wait ∈ [.fault, .syncm, .mmac, .entry] → stays) ∧ (∀ x, e.wait = .record x → stays) ∧
      (∀ n k, e.wait = .bar n k → stays) ∧ (∀ k, e.wait = .cbar k → stays))) ∧
  (∀ (s : State) (gid tag k : Nat),
    let g := s.group gid
    let es := g.tagged tag
    (g.live = false ∨ g.canFuse tag = false → exec (.fragmentFusion gid tag) s = .next s) ∧
    (g.live → g.canFuse tag → k ∈ es → (8 ∈ es ∧ k = 8 ∨ 8 ∉ es ∧ ∀ i ∈ es, k ≤ i) →
      ∃ t, exec (.fragmentFusion gid tag) s = .next t ∧ t = { s with groups := t.groups } ∧
        (∀ i, i ≠ gid → t.group i = s.group i) ∧
        t.group gid = { g with
          tab := (t.group gid).tab
          defer := g.defer.map fun d => if d.owner ∈ es then { d with owner := k } else d } ∧
        ((t.group gid).ent k) = { Entry.free with
          valid := true, st := .ready, pc := (g.ent k).rpc, rpc := (g.ent tag).srpc, join := (g.ent tag).sjoin
          mask := es.foldl (fun m i => m ||| (g.ent i).mask) 0, dom := es.foldl (fun m i => m ||| (g.ent i).dom) 0
          srpc := (g.ent k).srpc, sjoin := (g.ent k).sjoin, since := s.clock } ∧
        (∀ i ∈ es, i ≠ k → ((t.group gid).ent i).valid = false) ∧
        ∀ i, i ∉ es → (t.group gid).ent i = g.ent i)) ∧
  (∀ (s : State) (gid ent : Nat) (d : Defer) (rest : List Defer),
    let g := s.group gid
    let e := g.ent ent
    (g.live = false ∨ g.atDefer ent = false → exec (.deferralAdvance gid ent) s = .next s) ∧
    (g.live → g.atDefer ent → g.defer = d :: rest → d.owner = ent →
      (d.phase = false → exec (.deferralAdvance gid ent) s = .next
        (s.setGroup gid ({ g with defer := { d with arrived := e.mask, phase := true } :: rest }.setEnt ent
          { e with mask := d.mask, pc := d.pc, since := s.clock }))) ∧
      (d.phase → exec (.deferralAdvance gid ent) s = .next
        (s.setGroup gid ({ g with defer := rest }.setEnt ent
          { e with mask := e.mask ||| d.arrived, pc := d.rpc, since := s.clock }))))) ∧
  (∀ (s : State) (gid r k : Nat),
    let g := s.group gid
    let c := g.recs.get Rec.free r
    let es := g.tagged (8 + r)
    let dom := es.foldl (fun d i => d ||| (g.ent i).dom) c.dom
    (g.live = false ∨ g.canFuseRec r = false → exec (.recordFusion gid r) s = .next s) ∧
    (g.still → exec (.recordFusion gid r) s = .next s) ∧
    (g.live → g.canFuseRec r → es = [] → c.dom = 0 → exec (.recordFusion gid r) s =
      .next (((s.setGroup gid { g with recs := g.recs.erase r }).flushL1 (coreOf gid)).groupOver gid)) ∧
    (g.live → g.canFuseRec r → k < 8 → (k ∈ es ∧ ∀ i ∈ es, k ≤ i) ∨ es = [] ∧ g.alloc = some k → dom ≠ 0 →
      ∃ t, exec (.recordFusion gid r) s = .next t ∧ t = { s with groups := t.groups, l1 := t.l1 } ∧
        (∀ line < 2 ^ 41, (t.l1Line (coreOf gid) line).valid = false) ∧
        (∀ core line, core ≠ coreOf gid → line < 2 ^ 41 → t.l1Line core line = s.l1Line core line) ∧
        ((t.group gid).recs.get Rec.free r).valid = false ∧
        (t.group gid).defer = (g.defer.map fun d => if d.owner ∈ es then { d with owner := k } else d) ∧
        (∀ j, j ≠ r → (t.group gid).recs.get Rec.free j = g.recs.get Rec.free j) ∧
        ((t.group gid).ent k).valid ∧ ((t.group gid).ent k).st = .ready ∧ ((t.group gid).ent k).pc = c.rpc ∧
        ((t.group gid).ent k).dom = dom ∧ ((t.group gid).ent k).rpc = c.srpc ∧ ((t.group gid).ent k).join = c.sjoin ∧
        ((t.group gid).ent k).mask = es.foldl (fun m i => m ||| (g.ent i).mask) c.mask))

/-- R46, R60, R62, R64, R67, R68: a recalled Loupe thread is gone, and its lane stands in a split-table entry at the
thread's program counter with the registers of the record's sets, held while a handler runs; a rejoining one leaves its
lane in the record with the registers of the live-out set, not while a write of it to a vault waits for that vault; both
with an acquire that leaves the core's L1 no line; a held lane is sent to a free context of the cluster with its scalars
and the registers of the record's sets. Neither happens before its condition holds. -/
def Obligations.LoupeEvents : Prop :=
  ∀ (s : State) (tid gid r l : Nat),
    let t := s.group tid
    let g := s.group gid
    let c := g.recs.get Rec.free r
    (s.canRecall tid = false → exec (.recall tid) s = .next s) ∧
    (s.canRejoin tid = false → exec (.rejoin tid) s = .next s) ∧
    (s.canSend gid r = false → exec (.heldLaneSend gid r) s = .next s) ∧
    (t.kind = .loupe gid r l → tid ≠ gid → l < 96 →
      (s.canRecall tid → ∀ f, g.alloc = some f → ∃ u, exec (.recall tid) s = .next u ∧ u.group tid = Group.empty ∧
        ((u.group gid).ent f).valid ∧
        (g.still = false → ((u.group gid).ent f).st = .recalled) ∧
        (g.still → ((u.group gid).ent f).st = .held ∧ ((u.group gid).ent f).saved = .recalled) ∧
        ((u.group gid).ent f).pc = (t.ent 0).pc ∧ ((u.group gid).ent f).cont = (t.ent 0).cont ∧
        ((u.group gid).ent f).mask = (t.ent 0).mask ∧
        ((u.group gid).ent f).dom = Mask.one l ∧ ((u.group gid).ent f).join = 8 + r ∧
        (∀ line < 2 ^ 41, (u.l1Line (coreOf gid) line).valid = false) ∧
        (∀ i, i ≠ f → (u.group gid).ent i = g.ent i) ∧
        ((u.group gid).recs.get Rec.free r).onl = c.onl &&& ~~~ Mask.one l ∧
        ∀ k < 96, ∀ j < 96, ((u.group gid).v.get Row.zero k).at j =
          if (Mask.has c.lin k ∨ Mask.has c.lout k) ∧ j = l then (t.v.get Row.zero k).at l
          else (g.v.get Row.zero k).at j) ∧
      (s.vaultWaits tid ≠ [] → exec (.rejoin tid) s = .next s) ∧
      (s.canRejoin tid → ∃ u, exec (.rejoin tid) s = .next u ∧ u.group tid = Group.empty ∧
        (∀ line < 2 ^ 41, (u.l1Line (coreOf gid) line).valid = false) ∧
        (∀ i, (u.group gid).ent i = g.ent i) ∧
        (u.group gid).recs.get Rec.free r =
          { c with onl := c.onl &&& ~~~ Mask.one l, dom := c.dom ||| Mask.one l, mask := c.mask ||| (t.ent 0).mask } ∧
        ∀ k < 96, ∀ j < 96, ((u.group gid).v.get Row.zero k).at j =
          if Mask.has c.lout k ∧ j = l then (t.v.get Row.zero k).at l else (g.v.get Row.zero k).at j)) ∧
    (s.canSend gid r → gid < 16384 → Mask.low c.held = some l →
      ∃ u tid, exec (.heldLaneSend gid r) s = .next u ∧ (u.group tid).live ∧ (u.group tid).kind = .loupe gid r l ∧
        ((u.group tid).ent 0).pc = c.hpc.get 0 l ∧
        (∀ k < 61, (u.group tid).s.get 0 k = Store.get 0 (c.hscl.get [] l) k) ∧
        (∀ k < 96, ((u.group tid).v.get Row.zero k).at l =
          if Mask.has (c.lin ||| c.lout) k then (g.v.get Row.zero k).at l else 0) ∧
        ((u.group gid).recs.get Rec.free r).onl = c.onl ||| Mask.one l ∧
        ((u.group gid).recs.get Rec.free r).held = c.held &&& ~~~ Mask.one l)

/-- R44, R45, R47, R66, R372, R414: a group takes, of its pending events, the one of highest priority when it may take
events: a pre-emption before a wait-cycle, that before a ring error, and that before a rejoin timeout. It then no longer
holds that event, and holds the others: its fragments are held, and the event's handler starts over all its lanes at its
trap vector entry, with the event in sr.fault, and s0 to s3 kept; without an entry the context ends, and so it does, with
code 0x42, where the save area faults, and with 0x41 where it holds an uncorrectable error; while the save area waits
every event stays pending. The pre-emption of a context reaches each of its blocks; a
forced save acts on a block that is stopping; records that expire together set their TOUT bits and hold one
rejoin-timeout event. Points that the rules leave open here are the model's own: log entry 41. -/
def Obligations.GroupEvents : Prop :=
  ∀ (s s1 : State) (gid bid vi n : Nat) (p : Pend),
    let g := s.group gid
    let b := s.block bid
    let codes : List (BitVec 8) := [0x30, 0x31, 0x32, 0x33]
    let first := g.pend.Nodup ∧ p ∈ g.pend ∧ ∀ q ∈ g.pend, q.code ∈ codes ∧ codes.idxOf p.code ≤ codes.idxOf q.code ∧
      (q.code = p.code → q = p)
    let rest := g.pend.erase p
    (g.takesEvents = false → exec (.asyncEventTaken gid) s = .next s) ∧
    (g.takesEvents ↔ g.live ∧ g.pend ≠ [] ∧ g.hnd = none ∧ g.forced = false ∧ g.frozen = false ∧ g.hdone = false) ∧
    (g.takesEvents → first →
      p.code ∈ [0x31, 0x32] ∨ p.code = 0x33 ∧ g.sr.tout ≠ 0 ∨ p.code = 0x30 ∧ s.threadsOf gid = [] →
      let info := if p.code = 0x33 then g.sr.tout.toNat else if p.code = 0x30 then 0 else p.info.toNat
      let f := ({ g with pend := rest } : Group).freeze
      let own := s.block g.bid
      let pc := (own.kern.tvec)[tvecIx p.code]?.getD noPc
      let saves := (s.setGroup gid f).saveFlds own.pcore own.vi own.ctx f headerFlds
      (pc = noPc → exec (.asyncEventTaken gid) s =
        .next ((s.setGroup gid { g with pend := rest }).endContext own.vi own.ctx own.pcore p.code)) ∧
      (pc ≠ noPc → ∀ w, saves = .wait w → exec (.asyncEventTaken gid) s = .next s) ∧
      (pc ≠ noPc → saves = .fault → exec (.asyncEventTaken gid) s =
        .next (s.endContext own.vi own.ctx own.pcore 0x42)) ∧
      (pc ≠ noPc → ∀ l, saves = .bad l → exec (.asyncEventTaken gid) s =
        .next (s.blockBad g.bid l)) ∧
      (pc ≠ noPc → saves = .ok s1 → Completes (.asyncEventTaken gid) s fun t =>
        let u := t.group gid
        u.pend = rest ∧ u.hnd = some { code := p.code, save := p.code == 0x30, restore := false } ∧
        u.sr = { g.sr with fault := BitVec.ofNat 64 (info * 2 ^ 48 + 0x7F * 2 ^ 41 + p.code.toNat) } ∧
        u.ent 8 = { valid := true, st := .ready, pc := pc, mask := f.allDom, dom := f.allDom, since := s.clock } ∧
        (∀ i < 8, u.ent i = (g.ent i).freeze) ∧ (∀ k < 4, u.hdr.get 0 k = g.s.get 0 k) ∧
        u.s = g.s ∧ u.v = g.v ∧ u.p = g.p)) ∧
    (g.takesEvents → first → p.code = 0x30 →
      let u := s.setGroup gid { g with pend := rest }
      (s.recallWaits gid → exec (.asyncEventTaken gid) s = .next (u.setGroup gid { g with pend := rest ++ [⟨0x30, 0⟩] })) ∧
      (s.recallWaits gid = false → ∀ v, ((s.threadsOf gid).foldl State.holdThread u).tryHandler gid 0x30 0 0 = .ok v →
        exec (.asyncEventTaken gid) s = .next v)) ∧
    (g.takesEvents → first → p.code = 0x33 → g.sr.tout = 0 → exec (.asyncEventTaken gid) s =
      .next (s.setGroup gid { g with pend := rest })) ∧
    (exec (.preemption vi n) s = .next ((s.blocksOf vi n).foldl State.preemptBlock s)) ∧
    (s.blocksOf vi n = [bid] → b.live → b.saved = false → b.stopping = false → s.liveGids b = [gid] → g.hnd.isSome →
      g.forced = false → g.hdone = false → (∀ q ∈ g.pend, q.code ≠ 0x30) → ∃ t, exec (.preemption vi n) s = .next t ∧
        (t.block bid).stopping ∧ (t.block bid).preempted ∧ (t.group gid).pend = g.pend ++ [⟨0x30, 0⟩]) ∧
    (b.live = false ∨ b.stopping = false ∨ b.saved → exec (.forcedSave bid) s = .next s) ∧
    (b.live → b.stopping → b.saved = false →
      exec (.forcedSave bid) s = .next (((s.liveGids b).foldl State.forceGroup s).trySave bid)) ∧
    (g.expired = [] → exec (.rejoinTimeout gid) s = .next s) ∧
    (g.expired ≠ [] → ∃ t, exec (.rejoinTimeout gid) s = .next t ∧ t = { s with groups := t.groups } ∧
      (∀ i, i ≠ gid → t.group i = s.group i) ∧
      (∀ r < 4, (t.group gid).sr.tout.getLsbD r = (g.sr.tout.getLsbD r || decide (r ∈ g.expired)) ∧
        ((t.group gid).recs.get Rec.free r).stopped = ((g.recs.get Rec.free r).stopped || decide (r ∈ g.expired))) ∧
      (∃ q ∈ (t.group gid).pend, q.code = 0x33) ∧ ∀ i, (t.group gid).ent i = g.ent i)

/-! ### The cache hierarchy and the vaults -/

/-- R81, R85, R90, R93 to R96, R387: a write-through takes a core's oldest line request to its cluster's copy and the
unit of its scope, and updates the line in the core's L1; evictions leave no copy, and an eviction from the LLC that
serves a line writes its dirty bytes to the home, in HBM under the key of the line's ASID. R91, R93, R95, R102: RdS of a
line that the cluster does not hold sends it the Data of the next wider unit; RdX, and Upg of a line held, leave the
cluster the only holder within the unit of its scope; an AtH performs the operation at the home. R93, R95, R96: an
invalidation empties a unit's copy and answers with its unpublished bytes; a publication clears them, carries them to
the next wider unit, which holds them unpublished or, at package level, brings them to the home, and is answered; each
answer, when it arrives, is taken from the network: an InvA's bytes, and what the wider units of its path have not
published, reach the home where no copy is left, and a DrA brings its slice's time to the asking die. Every message in
flight arrives before another request is made. Points that the rules leave open here are the model's own: log entries 35
and 44. -/
def Obligations.CacheEvents : Prop :=
  (∀ (s : State) (core line clu st : Nat) (e : WtEntry) (rest : List WtEntry), s.net = [] → line < 2 ^ 41 →
    let c := s.copy (llcUnit st) line
    ((∀ x ∈ s.wtq, x.core ≠ core) → exec (.wt core) s = .next s) ∧
    (s.wtq = e :: rest → e.core = core → exec (.wt core) s =
      .next ((({ s with wtq := rest } : State).writeLine (cluOf core) e.scope e.asid e.line e.data e.mask).l1Merge core
        e.line e.data e.mask)) ∧
    (s.llcOf line = none → exec (.llcEviction line) s = .next s) ∧
    (s.llcOf line = some st → c.valid = false → exec (.llcEviction line) s = .next s) ∧
    (s.llcOf line = some st → c.valid → paKind s.hbmFine (128 * line) ≠ .aperture →
      ∃ t, exec (.llcEviction line) s = .next t ∧ t.copy (llcUnit st) line = Copy.empty ∧
        (∀ u l, l < 2 ^ 41 → (u, l) ≠ (llcUnit st, line) → t.copy u l = s.copy u l) ∧
        (c.dirty = 0 → t.mem = s.mem) ∧
        (c.dirty ≠ 0 → ∀ h, paKind s.hbmFine (128 * line) = .hbm h → t.hbmLine line c.tag = c.data) ∧
        (c.dirty ≠ 0 → (∀ h, paKind s.hbmFine (128 * line) ≠ .hbm h) → t.memLine line = c.data)) ∧
    (64 ≤ clu ∨ (s.copy clu line).valid = false → exec (.clusterCacheEviction clu line) s = .next s) ∧
    (clu < 64 → (s.copy clu line).valid → ∃ t, exec (.clusterCacheEviction clu line) s = .next t ∧
      t.copy clu line = Copy.empty ∧ t = State.unlist line (cluPath clu)
        ((((State.carryUp line (s.copy clu line).tag 4 (cluPath clu) s).toHome line).toHost line).setCopy clu line
          Copy.empty))) ∧
  (∀ (s : State) (clu line pa : Nat) (x : Scope) (op : AtOp) (ty : AType) (v : BitVec 64), s.net = [] → clu < 64 →
    line < 2 ^ 41 →
    let path := cluPath clu
    let u := path.getD (Scope.depth x) 78
    let alone := fun (t : State) => (t.copy clu line).valid ∧
      ∀ k < 78, inUnit k u → k ≠ u → k ∉ path.take (Scope.depth x) → (t.copy k line).valid = false
    let n := AType.bits ty / 8
    let nested := ∀ j < 4, (s.copy (path.getD j 78) line).valid → (s.copy (path.getD (j + 1) 78) line).valid
    ((s.copy clu line).valid → exec (.rds clu line) s = .next s) ∧
    ((s.copy clu line).valid = false → ∃ t, exec (.rds clu line) s = .next t ∧
      t.net = [.data clu line (t.copy (path.getD 1 78) line).data (s.dataFrom line path)]) ∧
    (nested → 1 ≤ Scope.depth x → ∃ t, exec (.rdx clu line x) s = .next t ∧ alone t) ∧
    (Scope.depth x = 0 → ∃ t, exec (.rdx clu line x) s = .next t ∧ (t.copy clu line).valid) ∧
    ((s.copy clu line).valid = false → exec (.upg clu line x) s = .next s) ∧
    (nested → (s.copy clu line).valid → 1 ≤ Scope.depth x → ∃ t, exec (.upg clu line x) s = .next t ∧ alone t) ∧
    ((s.copy clu line).valid → Scope.depth x = 0 → exec (.upg clu line x) s = .next s) ∧
    (pa % n ≠ 0 → exec (.ath clu pa op ty v) s = .next s) ∧
    (paKind s.hbmFine pa ∈ [.aperture, .reserved] → exec (.ath clu pa op ty v) s = .next s) ∧
    (pa % n = 0 → paKind s.hbmFine pa ∉ [.aperture, .reserved] → exec (.ath clu pa op ty v) s =
      .next ((s.predict clu pa true false).rmwHome (s.fillAsid clu (pa / 128)) pa n fun bs =>
        toBytes n (atVal op ty (ofBytes bs) (v.toNat % 2 ^ AType.bits ty))).1)) ∧
  (∀ (s : State) (u line clu k st : Nat) (x : Scope) (d : Line) (m : BitVec 128), line < 2 ^ 41 → clu < 64 →
    (s.net = [] → u < 64 → ∃ t, exec (.inv u line) s = .next t ∧ (t.copy u line).valid = false ∧
      ((s.copy u line).valid → t.net = [.inva u line (s.copy u line).data (s.copy u line).dirty]) ∧
      ((s.copy u line).valid = false → t.net = [.inva u line 0 0])) ∧
    (s.net = [.inva clu line d m] → m = 0 → ∃ t, exec (.inva clu line) s = .next t ∧ t.net = [] ∧
      (∀ l, l < 2 ^ 41 → l ≠ line → ∀ w, t.copy w l = s.copy w l) ∧
      ((∀ w ∈ (cluPath clu).drop 1, (s.copy w line).dirty = 0) → t.mem = s.mem)) ∧
    (s.net = [.inva clu line d m] → (∀ w < 79, (s.copy w line).valid ↔ w ∈ (cluPath clu).drop 1) →
      s.llcOf line = some st →
      let up := fun (n : Nat) => s.copy ((cluPath clu).getD n 78) line
      ∃ t, exec (.inva clu line) s = .next t ∧ t.net = [] ∧ (∀ w < 79, (t.copy w line).valid = false) ∧
        ∀ j < 128, (m.getLsbD j → (t.copy (llcUnit st) line).data.byte j = d.byte j) ∧
          ∀ n, 1 ≤ n → n < 5 → m.getLsbD j = false → (up n).dirty.getLsbD j →
            (∀ i, 1 ≤ i → i < n → (up i).dirty.getLsbD j = false) →
            (t.copy (llcUnit st) line).data.byte j = (up n).data.byte j) ∧
    (s.net = [] → u < 78 → (s.copy u line).valid → (s.copy u line).dirty ≠ 0 →
      let c := s.copy u line
      let p := (unitPath u).getD 1 78
      let alone := fun (j : Nat) => ∀ w < 78, inUnit w p → w ≠ p → inUnit w u = false →
        (s.copy w line).dirty.getLsbD j = false
      ∃ t, exec (.pub u line) s = .next t ∧ t.net = [.puba u line] ∧ (t.copy u line).dirty = 0 ∧
        ((s.copy p line).valid → (t.copy p line).valid ∧
          ∀ j < 128, c.dirty.getLsbD j → alone j → (t.copy p line).data.byte j = c.data.byte j ∧
            (p ≠ 78 → (t.copy p line).dirty.getLsbD j) ∧
            (p = 78 → s.llcOf line = some st → (t.copy (llcUnit st) line).data.byte j = c.data.byte j))) ∧
    (s.net = [] → u < 78 → (s.copy u line).valid = false ∨ (s.copy u line).dirty = 0 → exec (.pub u line) s = .next s) ∧
    (s.net = [.puba u line] → ∃ t, exec (.puba u line) s = .next t ∧ t = { s with net := [], times := t.times }) ∧
    (s.net = [] → k < (slices clu x).length → exec (.drq ⟨clu, k, x⟩) s = .next { s with net := [.dra clu k x] }) ∧
    ((slices clu x).length ≤ k → exec (.drq ⟨clu, k, x⟩) s = .next s) ∧
    (s.net = [.dra clu k x] → k < (slices clu x).length → exec (.dra ⟨clu, k, x⟩) s =
      .next (({ s with net := [] } : State).carryTime ((slices clu x).getD k 0) (clu / 8))) ∧
    (s.net = [] → u < 79 → exec (.fwd u line) s = .next (State.gather line 4 u s)) ∧
    (s.net = [.data clu line d k] → (s.copy clu line).valid = false → ∃ t, exec (.data clu line) s = .next t ∧
      t.net = [] ∧ (t.copy clu line).valid ∧ (t.copy clu line).data = d ∧ (t.copy clu line).dirty = 0) ∧
    (s.net = [] → ∀ i ∈ [Instr.inva u line, .puba u line, .dra ⟨clu, k, x⟩, .data clu line], exec i s = .next s) ∧
    (u < 78 → ∀ i ∈ [Instr.wt k, .llcEviction line, .clusterCacheEviction clu line, .rds clu line, .rdx clu line x,
      .upg clu line x, .inv u line, .pub u line, .fwd u line], exec i s = exec i s.deliverAll ∧ s.deliverAll.net = []))

/-- R20, R77, R79, R323: a write of a vault's owner register sets it, and zeroes and scrubs the vault where the ASID
changes or the vault becomes assigned; one that gives the vault to an ASID that the interface of its core does not own
is ignored; the scrub ends; a group's oldest waiting write to a vault is performed, not before the end of a scrub nor
while the vault's die is not ready, and its acknowledgement removes it. R83 to R86: enabling a transcode window that
passes the checks sets EN, and one that fails sets ERR; disabling it starts its flush, which recalls every line of it
from every level, takes the stores in flight to it with it, and clears BUSY. Points that the rules leave open here are
the model's own: log entry 45. -/
def Obligations.VaultsAndWindows : Prop :=
  (∀ (s : State) (vault gid : Nat) (x : BitVec 64) (w : VWrite) (rest : List VWrite),
    let o := s.vown.get Vown.reset vault
    let fresh := BitVec.ofNat 9 x.toNat ≠ o.asid ∨ x.getLsbD 15 ∧ o.valid = false
    let may := x.getLsbD 15 = false ∨ s.mayOwn vault (BitVec.ofNat 9 x.toNat)
    (512 ≤ vault ∨ ¬may → exec (.vownWrite vault x) s = .next s) ∧
    ((∃ c ∈ s.ifaces, cluOf vault ∈ c.2.clus ∧ c.2.owns (x.toNat % 512) = false) →
      s.mayOwn vault (BitVec.ofNat 9 x.toNat) = false) ∧
    (vault < 512 → may → ∃ t, exec (.vownWrite vault x) s = .next t ∧ t = { s with vown := t.vown, vault := t.vault } ∧
      (t.vown.get Vown.reset vault).valid = x.getLsbD 15 ∧
      (t.vown.get Vown.reset vault).asid = BitVec.ofNat 9 x.toNat ∧
      ((t.vown.get Vown.reset vault).scrub ↔ o.scrub ∨ fresh) ∧
      (∀ v, v ≠ vault → t.vown.get Vown.reset v = s.vown.get Vown.reset v) ∧
      ∀ a, t.vault.get 0 a = if a / 2 ^ 22 = vault ∧ fresh then 0 else s.vault.get 0 a) ∧
    (∃ t, exec (.vaultScrubDone vault) s = .next t ∧ t = { s with vown := t.vown } ∧
      t.vown.get Vown.reset vault = { o with scrub := false } ∧
      ∀ v, v ≠ vault → t.vown.get Vown.reset v = s.vown.get Vown.reset v) ∧
    (o.scrub → exec (.vaultAccess gid vault) s = .next s) ∧
    (s.rdymap.getLsbD (8 + vault / 64) = false → (s.dqs.get {} (vault / 64)).st ≠ .quiescing →
      exec (.vaultAccess gid vault) s = .next s) ∧
    ((∀ y ∈ s.vq, y.gid = gid → y.vault = vault → y.performed) → exec (.vaultAccess gid vault) s = .next s) ∧
    (o.scrub = false → s.rdymap.getLsbD (8 + vault / 64) → s.vq = w :: rest → w.gid = gid → w.vault = vault →
      w.performed = false → ∃ t,
      exec (.vaultAccess gid vault) s = .next t ∧ t = { s with vault := t.vault, vq := t.vq } ∧
      t.vq = { w with performed := true } :: rest ∧
      ∀ a, t.vault.get 0 a =
        if vault * 2 ^ 22 + w.off ≤ a ∧ a < vault * 2 ^ 22 + w.off + w.bytes.length then
          w.bytes.getD (a - (vault * 2 ^ 22 + w.off)) 0 else s.vault.get 0 a) ∧
    ((∀ y ∈ s.vq, y.gid = gid → y.vault = vault → y.performed = false) →
      exec (.vaultWriteAck gid vault) s = .next s) ∧
    (s.vq = w :: rest → w.gid = gid → w.vault = vault → w.performed →
      exec (.vaultWriteAck gid vault) s = .next { s with vq := rest })) ∧
  (∀ (s : State) (win : Nat),
    let w := s.win.get Window.reset win
    let inside := fun (l : Nat) => w.ap ≤ 128 * l ∧ 128 * l < w.ap + 128 * w.size
    (64 ≤ win ∨ w.en → exec (.twctlEnable win) s = .next s) ∧
    (win < 64 → w.en = false → (∀ c ∈ s.win, c.2.busy = false) → w.busy = false →
      exec (.twctlEnable win) s = .next { s with
        win := s.win.set Window.reset win { w with en := s.windowOk win w, err := !s.windowOk win w } }) ∧
    (w.en = false → exec (.twctlDisable win) s = .next s) ∧
    (w.en → exec (.twctlDisable win) s = .next { s with
      win := s.win.set Window.reset win { w with en := false, busy := true } }) ∧
    (w.busy = false → exec (.twFlushDone win) s = .next s) ∧
    (w.busy → 2 ^ 39 ≤ w.ap → w.ap + 128 * w.size ≤ 2 ^ 40 → ∃ t, exec (.twFlushDone win) s = .next t ∧
      t.win.get Window.reset win = { w with busy := false } ∧
      (∀ l < 2 ^ 41, inside l → (∀ u < 84, (t.copy u l).valid = false) ∧ ∀ core, (t.l1Line core l).valid = false) ∧
      ∀ e ∈ t.wtq, ¬inside e.line))

/-! ### Engine operations -/

/-- R105, R106, R263, R266, R268, R276, R414: an operation that can be performed completes: it leaves its handle's
pending list and, where every earlier number is complete, the counter takes it; a translation that refuses leaves it for
the stall, with a fault record, and in a context that ends it is abandoned with what stands behind it; one that meets an
uncorrectable error ends the context; nothing of a stalled engine context runs, and a Zoom runs its operations in order.
A copy within the block's tile memory has copied its bytes, and changed no other. A completed ring copy's slot is
published; one that the ring refuses is a ring error. Points that the rules leave open here are the model's own: log
entry 38. -/
def Obligations.EngineEvents : Prop :=
  ∀ (s s1 : State) (bid k r w : Nat) (p : EPend) (rest : List EPend) (i : BitVec 32) (info : Nat) (va a d : Word64),
    let b := s.block bid
    let c := b.tc.get Tc.unbound k
    let ring := s.ring r
    let ending := (s.ctx b.vi b.ctx).cstate = .ending
    (c.stall ≠ none → exec (.engineOpComplete bid k p.num) s = .next s ∧ exec (.engineFaultStall bid k p.num) s = .next s) ∧
    (∀ q ∈ rest, c.bind = .zoom → c.pend = p :: rest → q.num ≠ p.num →
      exec (.engineOpComplete bid k q.num) s = .next s ∧ exec (.engineFaultStall bid k q.num) s = .next s) ∧
    ((∀ q ∈ c.pend, q.num ≠ p.num) → exec (.engineOpComplete bid k p.num) s = .next s ∧
      exec (.engineFaultStall bid k p.num) s = .next s) ∧
    (c.pend = p :: rest → c.stall = none →
      (s.tryOp bid k p = (s1, none) → exec (.engineOpComplete bid k p.num) s = .next ((s1.trySave bid).blockOver bid)) ∧
      (s.tryOp bid k p = (s1, some (.fault info va)) →
        exec (.engineOpComplete bid k p.num) s = .next s ∧
        (¬ending → exec (.engineFaultStall bid k p.num) s = .next ((s1.engineRecord bid p info va).stallTc bid k p.num)) ∧
        (ending → exec (.engineFaultStall bid k p.num) s = .next (s1.giveUp bid k))) ∧
      (∀ line, s.tryOp bid k p = (s1, some (.bad line)) →
        exec (.engineOpComplete bid k p.num) s = .next (s1.blockBad bid line) ∧
        exec (.engineFaultStall bid k p.num) s = .next s) ∧
      (s.tryOp bid k p = (s1, some .hold) →
        exec (.engineOpComplete bid k p.num) s = .next s ∧ exec (.engineFaultStall bid k p.num) s = .next s) ∧
      (p.op = .copy w .tile .tile [(a, d)] none → a.toNat + w ≤ b.tileSize → d.toNat + w ≤ b.tileSize →
        p.num = c.value.toNat + 1 → c.done = [] → c.value.toNat + 1 < 2 ^ 64 → (∀ q ∈ rest, q.num ≠ p.num) →
        b.killed = false → s.liveIx bid ≠ [] → (∃ g ∈ s.liveGids b, (s.group g).forced = false) →
        Completes (.engineOpComplete bid k p.num) s fun t =>
          t = { s with blocks := t.blocks } ∧ (∀ j, j ≠ bid → t.block j = s.block j) ∧
          t.block bid = { b with
            tile := (t.block bid).tile
            tc := b.tc.set Tc.unbound k { c with value := c.value + 1, pend := rest } } ∧
          ∀ x, (t.block bid).tile.get 0 x =
            if d.toNat ≤ x ∧ x < d.toNat + w then b.tile.get 0 (a.toNat + (x - d.toNat)) else b.tile.get 0 x) ∧
      (p.op = .copy w .tile .tile [(a, d)] none → b.tileSize < a.toNat + w → a.toNat < 0x400000 → ¬ending →
        exec (.engineFaultStall bid k p.num) s = .next ((s.engineRecord bid p 0 a).stallTc bid k p.num)) ∧
      (p.num = c.value.toNat + 1 → c.done = [] → c.value.toNat + 1 < 2 ^ 64 → (∀ q ∈ rest, q.num ≠ p.num) →
        ((s.opDone bid k p.num).block bid).tc.get Tc.unbound k =
          { c with value := c.value + 1, pend := rest, done := [], stall := none })) ∧
    (i ∉ ring.pend → exec (.ringPcpyPublish r i) s = .next s) ∧
    (i ∈ ring.pend → ring.st ≠ .error → ∀ q, ring.publish i 1 = some q →
      ∃ t, exec (.ringPcpyPublish r i) s = .next t ∧ t = { s with rings := t.rings } ∧
        t.ring r = { q with pend := ring.pend.erase i }) ∧
    (i ∈ ring.pend → ring.st ≠ .error → ring.publish i 1 = none → exec (.ringPcpyPublish r i) s =
      .next ((s.setRing r { ring with pend := ring.pend.erase i }).ringError r 0x80)) ∧
    (i ∈ ring.pend → ring.st = .error → exec (.ringPcpyPublish r i) s =
      .next (s.setRing r { ring with pend := ring.pend.erase i }))

/-! ### Queues, packets and counters -/

/-- R326 to R328, R337: command 1 of a disabled queue makes it active with empty indices, or puts it in the error state
with code 0x02 where its ASID or context is not the interface's, and 0x09 where its bounded queues reserve more cores
than the partition has; a doorbell write of an active queue past its size is error 0x08; a reset removes what was
admitted, and ends in the disabled state with the last token of the fifteen directories, none of which returns while
work of the queue is still to be performed; a die that is late with its token is quiesced. Points that the rules leave
open here are the model's own: log entry 49. -/
def Obligations.QueueCommands : Prop :=
  ∀ (s : State) (vi q die n : Nat) (v : BitVec 32), q < 32 →
    let x := s.queue vi q
    let known := (s.iface vi).owns x.asid ∧ x.ctxn < 256 ∧ (s.ctx vi x.ctxn).exists'
    let mine := fun (p : Pkt) => p.vi = vi ∧ p.q = q
    let becomes := fun (i : Instr) (y : Queue) => ∃ t, exec i s = .next t ∧ t = { s with queues := t.queues } ∧
      t.queue vi q = y ∧ ∀ v' q', q' < 32 → (v', q') ≠ (vi, q) → t.queue v' q' = s.queue v' q'
    (x.st ≠ .disabled → exec (.queueEnable vi q) s = .next s) ∧
    (x.st = .disabled →
      (known → (x.cls → s.reserved vi q ≤ (s.partCores vi).length) →
        becomes (.queueEnable vi q) { x with wr := 0, rd := 0, st := .active }) ∧
      (¬known → becomes (.queueEnable vi q) { x with wr := 0, rd := 0, st := .error, ecode := 2 }) ∧
      (known → x.cls → (s.partCores vi).length < s.reserved vi q →
        becomes (.queueEnable vi q) { x with wr := 0, rd := 0, st := .error, ecode := 9 })) ∧
    (x.st = .active → 2 ^ (x.lsize + 4) < (v - x.rd).toNat →
      becomes (.queueDoorbell vi q v) { x with wr := v, st := .error, ecode := 8 }) ∧
    (x.st ≠ .active ∨ (v - x.rd).toNat ≤ 2 ^ (x.lsize + 4) → becomes (.queueDoorbell vi q v) { x with wr := v }) ∧
    (x.st = .disabled ∨ x.st = .resetting → exec (.queueReset vi q) s = .next s) ∧
    (x.st = .active ∨ x.st = .error → (∀ c ∈ s.pkts, ¬mine c.2) → s.queueBlocks vi q = [] →
      s.areasOf (fun p => p.vi == vi && p.q == q) = [] → (∀ c ∈ s.cohorts, c.2.members ≠ []) →
      (s.ctx vi x.ctxn).cstate ≠ .stopping →
      becomes (.queueReset vi q) { x with st := .resetting, ecode := 0, fence := none, tokens := (List.range 15).map (64 + ·) }) ∧
    (x.st = .active ∨ x.st = .error → Completes (.queueReset vi q) s fun t => ∀ c ∈ t.pkts, ¬mine c.2) ∧
    (x.st ≠ .resetting → exec (.quiesceToken false vi q) s = .next s ∧
      exec (.quiesceTokenTimeout vi q die) s = .next s) ∧
    (x.st = .resetting → (s.owes false vi q → exec (.quiesceToken false vi q) s = .next s) ∧
      (s.owes false vi q = false → ∀ a,
        (∀ b r, x.tokens = a :: b :: r → becomes (.quiesceToken false vi q) { x with tokens := b :: r }) ∧
        (x.tokens = [a] → becomes (.quiesceToken false vi q) { x with tokens := [], st := .disabled, ecode := 0 })) ∧
      ∀ d : Fin 8,
        (64 + d.val ∈ x.tokens → exec (.quiesceTokenTimeout vi q d.val) s = exec (.dieQuiesce d) s) ∧
        (64 + d.val ∉ x.tokens → exec (.quiesceTokenTimeout vi q d.val) s = .next s)) ∧
    (n < 256 → (s.ctx vi n).cstate = .ending → s.owes true vi n = false → (∃ a, (s.ctx vi n).tokens = [a]) → ∃ t,
      exec (.quiesceToken true vi n) s = .next t ∧ t = { s with ctxs := t.ctxs } ∧
      t.ctx vi n = { s.ctx vi n with tokens := [], cstate := .free, busy := false }) ∧
    (n < 256 → (s.ctx vi n).cstate ≠ .ending → exec (.quiesceToken true vi n) s = .next s)

/-- R328 to R332: a packet is taken from the queue's slot of its read index; the first check that it fails puts the
queue in the error state with its code, which leaves qrd; an uncorrectable error on the way ends the context (R414); one
without a counter to wait for is admitted and pushed,
and qrd passes it. Nothing is admitted by a queue that is not active, is empty, or has a fence pending. R329, R343,
R350: a decrement of 0 leaves it and sets UFL; from 1 it pushes every packet armed on the counter; a write of qdec
that faults, or names no context, sets DFL; a decrement that must wait is applied later, and one that faults ends the
context; the end of a block decrements its launch's REMAIN, and the last one completes the packet; a waiting push
enters its list when the slot is free. R334: a SIGNAL of operation 0, and a FENCEQ behind which no packet of its queue
is left, perform their completion actions: with no address and no interrupt the packet is gone. Points that the rules
leave open here are the model's own: log entry 48. -/
def Obligations.PacketsAndCounters : Prop :=
  (∀ (s s1 : State) (vi q : Nat) (bs : List Byte), q < 32 →
    let x := s.queue vi q
    let c := s.ctx vi x.ctxn
    let p : Pkt := { vi := vi, q := q, ctxn := x.ctxn, asid := x.asid, bytes := bs }
    let takes := exec (.packetAdmission vi q) s
    let fails := fun (k : BitVec 8) => ∃ t, takes = .next t ∧ t = { s with queues := t.queues } ∧
      t.queue vi q = { x with st := .error, ecode := k }
    (x.st ≠ .active ∨ x.rd = x.wr ∨ x.fence.isSome → takes = .next s) ∧
    (x.st = .active → x.rd ≠ x.wr → x.fence = none →
      (c.exists' = false → fails 2) ∧
      (c.exists' →
        let read := s.hwRead (c.sp x.asid) (x.base + BitVec.ofNat 64 (64 * (x.rd.toNat % 2 ^ (x.lsize + 4)))) 64
        (read = .fault → fails 7) ∧ (∀ w, read = .wait w → takes = .next s) ∧
        (∀ l, read = .bad l → takes = .next (s.hwBad vi x.ctxn x.asid l)) ∧
        (read = .ok (s1, bs) →
        (p.fieldsOk = false → fails 1) ∧
        (∀ k, s1.admitCheck vi q p = .code k → fails k) ∧
        (∀ w, s1.admitCheck vi q p = .wait w → takes = .next s) ∧
        ∀ r, s1.admitCheck vi q p = .ok r → r.depc = 0 → r.vi = vi → ∃ t, takes = .next t ∧
          (t.queue vi q).rd = (s1.queue vi q).rd + 1 ∧
          (t.queue vi q).fence = (if r.typ = 4 then some s1.pktNext else (s1.queue vi q).fence) ∧
          t.pktNext = s1.pktNext + 1 ∧
          t.pkts.get {} s1.pktNext =
            { r with list := if (s1.queue vi q).cls then 0 else Nat.max 1 r.prio, st := .pushed } ∧
          t.mem = s1.mem ∧ t.groups = s1.groups ∧ t.ctxs = s1.ctxs)))) ∧
  (∀ (s s1 : State) (vi q n r l id : Nat) (a : Word64) (bs : List Byte) (e : REntry) (d : Dec) (rest : List Dec), q < 32 →
    let x := s.queue vi q
    let known := (s.ctx vi x.ctxn).exists'
    let sp := (s.ctx vi x.ctxn).sp x.asid
    let fine := canonical a ∧ a.toNat % 8 = 0 ∧ s.inAperture sp a = false
    let write := s.hwRmw sp a 8 .both fun bs => toBytes 8 (ofBytes bs - 1)
    let drops := exec (.qdecWrite vi q a) s = .next (s.setIface vi { s.iface vi with dfl := true })
    (known = false ∨ ¬fine → drops) ∧
    (known → fine →
      (write = .fault → drops) ∧
      (∀ w, write = .wait w → exec (.qdecWrite vi q a) s = .next { s with
        decs := s.decs ++ [{ vi := vi, q := q, asid := x.asid, ctxn := x.ctxn, addr := a, qdec := true }] }) ∧
      (∀ l, write = .bad l → exec (.qdecWrite vi q a) s = .next (s.hwBad vi x.ctxn x.asid l)) ∧
      (write = .ok (s1, bs) →
        (ofBytes bs = 0 → exec (.qdecWrite vi q a) s = .next (s1.setIface vi { s1.iface vi with ufl := true })) ∧
        (1 < ofBytes bs → exec (.qdecWrite vi q a) s = .next s1) ∧
        (ofBytes bs = 1 → s1.armedOn x.asid a = [id] → s1.pkts.get {} id = { vi := vi, ctxn := n, q := q, list := l } →
          ∃ t, exec (.qdecWrite vi q a) s = .next t ∧ (t.pkts.get {} id).st = .pushed ∧
            t.rlist vi l = (s1.rlist vi l).push { relaunch := false, rlcoh := 0, ctxn := n, q := q, item := id, blocks := [] }))) ∧
    ((∀ z ∈ s.decs, ¬(z.vi = vi ∧ z.ctxn = n ∧ z.addr = a)) → exec (.dependencyDecrement vi n a) s = .next s) ∧
    (s.decs = d :: rest → d.vi = vi → d.ctxn = n → d.addr = a → d.qdec = false →
      let u : State := { s with decs := rest }
      (∀ old, u.decrement vi n d.asid a = .ok (s1, old) → exec (.dependencyDecrement vi n a) s = .next s1) ∧
      (u.decrement vi n d.asid a = .fault → exec (.dependencyDecrement vi n a) s = .next (u.endContext vi n 0 0x43)) ∧
      (∀ w, u.decrement vi n d.asid a = .wait w → exec (.dependencyDecrement vi n a) s = .next s)) ∧
    (r ∉ s.ends → exec (.remainDecrement r) s = .next s) ∧
    (r ∈ s.ends → (s.lrecs.get {} r).live → (s.lrecs.get {} r).node = false → 1 < (s.lrecs.get {} r).remain → ∃ t,
      exec (.remainDecrement r) s = .next t ∧ t = { s with lrecs := t.lrecs, ends := s.ends.erase r } ∧
      t.lrecs.get {} r = { s.lrecs.get {} r with remain := (s.lrecs.get {} r).remain - 1 }) ∧
    (let o := s.pkts.get {} (s.lrecs.get {} r).pkt
     r ∈ s.ends → (s.lrecs.get {} r).live → (s.lrecs.get {} r).node = false → (s.lrecs.get {} r).remain = 1 →
       o.compl = 0 → o.succ = 0 → o.intr = false → ∃ t, exec (.remainDecrement r) s = .next t ∧ t.msix = s.msix ∧
         (∀ c ∈ t.pkts, c.1 ≠ (s.lrecs.get {} r).pkt) ∧ ∀ c ∈ t.lrecs, c.1 ≠ r) ∧
    ((s.rlist vi l).waiting = [] → exec (.readyListPush vi l) s = .next s) ∧
    ((s.rlist vi l).waiting = [e] → (∀ z ∈ (s.rlist vi l).ents, z.1 % 16384 ≠ (s.rlist vi l).p % 16384) → ∃ t,
      exec (.readyListPush vi l) s = .next t ∧ t = { s with rlists := t.rlists } ∧ t.rlist vi l =
        { s.rlist vi l with
          p := (s.rlist vi l).p + 1, ents := (s.rlist vi l).ents ++ [((s.rlist vi l).p, e)], waiting := [] }) ∧
    (let p := s.pkts.get {} id
     let gone := fun (i : Instr) => ∃ t, exec i s = .next t ∧ t.msix = s.msix ∧ ∀ c ∈ t.pkts, c.1 ≠ id
     p.compl = 0 → p.succ = 0 → p.intr = false → (∃ c ∈ s.pkts, c.1 = id) → p.st ≠ .armed →
       (p.typ = 3 → p.op = 0 → gone (.signalExecute id)) ∧
       (p.typ = 4 → (s.iface p.vi).clus = [] → (∀ c ∈ s.pkts, c.1 < id → c.2.vi = p.vi → c.2.q ≠ p.q) →
         gone (.fenceqComplete id)) ∧
       (p.typ ≠ 3 → exec (.signalExecute id) s = .next s) ∧ (p.typ ≠ 4 → exec (.fenceqComplete id) s = .next s)))

/-! ### Ring objects, agents and blocks -/

/-- R325, R355, R356: a creation takes a free ring number of its home's range, with the fields of rcfg, and
gives it in RLAST, or is refused with RFL and ERR where the fields or the ASID are not allowed; a ring that the
interface owns and nothing binds is destroyed; a restart waits as the interface's pending command. That the number is
the lowest free one, which the rule does not say, is the model's choice: log entry 67. -/
def Obligations.RingObjects : Prop :=
  ∀ (s : State) (vi n : Nat),
    let x := s.iface vi
    let ls := x.rcfg.toNat % 16 + 6
    let lc := x.rcfg.toNat / 16 % 32
    let sc := x.rcfg.toNat / 512 % 8
    let home := x.rcfg.toNat / 4096 % 4
    let asid := x.rcfg.toNat / 65536 % 512
    let good := x.asidBase ≤ asid ∧ asid < x.asidBase + x.asidCount ∧ ls ≤ 12 ∧ lc ≤ 16 ∧ sc ≠ 7 ∧ canonical x.rbase ∧
      x.rbase.toNat % 2 ^ ls = 0
    let refused := fun (i : Instr) (rfl : Bool) => ∃ t, exec i s = .next t ∧ t = { s with ifaces := t.ifaces } ∧
      t.iface vi = { x with rerr := true, rfl := x.rfl || rfl }
    (x.rbusy → refused (.ringCreate vi) false ∧ refused (.ringDestroy vi n) false ∧ refused (.ringRestart vi n) false) ∧
    (x.rbusy = false →
      (¬good ∨ (∀ k < 1024, (s.ring (1024 * home + k)).live) → refused (.ringCreate vi) true) ∧
      (good → 1024 * home ≤ n → n < 1024 * (home + 1) → (s.ring n).live = false →
        (∀ k, 1024 * home ≤ k → k < n → (s.ring k).live) → ∃ t,
          exec (.ringCreate vi) s = .next t ∧ t = { s with rings := t.rings, ifaces := t.ifaces } ∧
          t.ring n = { live := true, scope := Scope.ofNum sc, lsize := ls, lcount := lc, base := x.rbase, vi := vi
                       asid := asid, home := home } ∧
          (∀ k, k ≠ n → t.ring k = s.ring k) ∧ t.iface vi = { x with rerr := false, rlast := BitVec.ofNat 12 n }) ∧
      ((s.ring n).live = false ∨ (s.ring n).vi ≠ vi ∨ s.ringBound n → refused (.ringDestroy vi n) false) ∧
      ((s.ring n).live → (s.ring n).vi = vi → s.ringBound n = false → ∃ t, exec (.ringDestroy vi n) s = .next t ∧
        t = { s with rings := t.rings, ifaces := t.ifaces } ∧ t.ring n = Ring.empty ∧
        (∀ k, k ≠ n → t.ring k = s.ring k) ∧ t.iface vi = { x with rerr := false }) ∧
      ∃ t, exec (.ringRestart vi n) s = .next t ∧ t = { s with ifaces := t.ifaces } ∧ t.iface vi =
        { x with rbusy := true, rerr := false, restart := some (n, BitVec.ofNat 32 x.rbase.toNat, x.rbase.getLsbD 32) })

/-- R338, R339, R344, R349, R350, R353, R356: an agent that traps starts anew and its items pass on, with an entry in
the log; the pass of the command agent performs a pending restart; a pass claims the entry at the lowest ticket of the
lists it polls, and owns the launch record, whose ENT is the address of its copy of the entry; the start record of a
launch starts its block on the core: its group stands at the kernel's entry with all lanes and with argument pointer and
cohort in s0 and s1, and the record's words stay in the slot; a record that instructions have written starts its block
likewise. An agent that is not running, or whose die is not ready, and a core with an empty mailbox change nothing.
Points that the rules leave open here are the model's own: log entries 13, 20 and 52. -/
def Obligations.AgentsAndStarts : Prop :=
  ∀ (s s1 s2 : State) (c vi n k : Nat) (code : BitVec 8) (r : StartRec) (e : REntry) (ri ri' : Ring) (i : BitVec 32)
    (h : Bool) (cores : List Nat),
    let agent := s.group (17 * c + 16)
    let m := s.mail.get {} c
    let runs := agent.live ∧ s.rdymap.getLsbD (c / 64) ∧ s.ownerOf c = some vi ∧ s.owned c = [] ∧ s.inHand = []
    (agent.live = false → exec (.agentReset c code) s = .next s ∧ exec (.agentClaimPass c) s = .next s) ∧
    (agent.live → exec (.agentReset c code) s = .next ((((s.setBlock (agentBid c) agentHandles).setGroup (17 * c + 16)
      (agentStart c { ifn := agent.sr.ifn, agOut := agent.sr.agOut, fwbase := agent.sr.fwbase } s.clock)).passOn c).logNow
        0x41 (locOf 6 c) (code.zeroExtend 64))) ∧
    (s.rdymap.getLsbD (c / 64) = false → exec (.agentClaimPass c) s = .next s) ∧
    (runs → (s.partCores vi).head? = some c → s.rlists = [] → (s.iface vi).restart = some (n, i, h) → s.ring n = ri →
      ri.live → ri.vi = vi → ri.restart i h = some ri' → ∃ t, exec (.agentClaimPass c) s = .next t ∧
        t.ring n = ri' ∧ t.iface vi = { s.iface vi with restart := none, rbusy := false } ∧
        ∀ j, j ≠ n → t.ring j = s.ring j) ∧
    (let p := s.pkts.get {} e.item
     let l : LRec := { live := true, vi := vi, pkt := e.item, remain := p.ncoh * p.kern.cmem, owner := some c
                       ent := s1.copyVa vi k }
     let s3 : State := { s1 with pkts := s1.pkts.set {} e.item { p with st := .running }, lrecs := s1.lrecs.set {} k l }
     runs → (s.iface vi).restart = none → s.freeRec vi = some k → s.lrecs = [] →
       claimFrom vi (if s.polls0 c then [0, 1, 2, 3] else [1, 2, 3]) s = (s1, some e) → e.relaunch = false →
       (∃ x ∈ s.pkts, x.1 = e.item) → p.typ = 1 → p.ncoh = 1 → p.vi = vi →
       ((s.ctx p.vi p.ctxn).cstate ≠ .live → exec (.agentClaimPass c) s = .next s3) ∧
       ((s.ctx p.vi p.ctxn).cstate = .live →
         s3.findCores p.vi p.q p.kern p.kern.cmem (unitsFrom (c / 64) p.kern (Level.ofNum p.kern.clvl)) = some cores →
         s3.placeOn p.vi p.ctxn p.kern cores (fun m =>
           (launchStart { p with st := .running } k 0 m, [launchRecord p.kern p.argp m 0])) = some s2 →
         ∃ t, exec (.agentClaimPass c) s = .next t ∧ t = { s2 with lrecs := t.lrecs } ∧
           t.lrecs.get {} k = { l with next := 1, owner := none })) ∧
    ((∀ x ∈ m.recs, x.1 ≠ m.consumed) → m.rdys.get 0 (m.consumed % 4) ≠ m.consumed + 1 →
      exec (.startRecordTake c) s = .next s) ∧
    (let w := s.recordOfWords vi fun j => m.slots.get 0 (16 * (m.consumed % 4) + j)
     (∀ x ∈ m.recs, x.1 ≠ m.consumed) → m.rdys.get 0 (m.consumed % 4) = m.consumed + 1 → s.ownerOf c = some vi →
       s.adopt w = .ok (s1, r) → ∀ recs, s1.startRecords r = .ok (s2, recs) → exec (.startRecordTake c) s =
         .next (((s2.popStart c).startBlock r c recs).startStopped (bidOf w.vi w.trec))) ∧
    (m.recs = [(m.consumed, r)] → r.nrec = 0 → r.slotm = 1 → r.kern.grp = 1 → s.startOf (bidOf r.vi r.trec) = some r →
      s.batches.get [] (bidOf r.vi r.trec) = [] → (s.ctx r.vi r.ctxn).cstate = .live →
      (s.cohorts.get Cohort.empty r.cohort).members = [bidOf r.vi r.trec] → c < 512 →
      ∃ t, exec (.startRecordTake c) s = .next t ∧
        (t.mail.get {} c).consumed = m.consumed + 1 ∧ (t.mail.get {} c).recs = [] ∧
        (∀ j < 16, (t.mail.get {} c).slots.get 0 (16 * (m.consumed % 4) + j) = s.startWord r j) ∧
        (t.block (bidOf r.vi r.trec)).live ∧ (t.block (bidOf r.vi r.trec)).pcore = c ∧
        (t.block (bidOf r.vi r.trec)).extent = r.extent ∧ (t.block (bidOf r.vi r.trec)).win = r.win ∧
        (t.group (17 * c)).live ∧ (t.group (17 * c)).bid = bidOf r.vi r.trec ∧
        (t.group (17 * c)).s.get 0 0 = r.argp ∧ (t.group (17 * c)).s.get 0 1 = BitVec.ofNat 64 r.coh ∧
        ((t.group (17 * c)).ent 0).pc = mkPc r.kern.entry.toNat 0 ∧ ((t.group (17 * c)).ent 0).mask = Mask.all ∧
        ∀ l < 96, Mask.has (t.group (17 * c)).helper l = decide (r.extent ≤ r.lane0 + l))

/-- R260, R353: a kill takes the block, or its whole cohort where a group of it waits at an MMAC rendezvous, for the
word at which its first group stands; R41, R48, R373: a saved cohort of one member is placed again on a core that it
fits and reloaded there; its context ends with code 0x42 where its save area cannot be read, with 0x41 where that holds
an uncorrectable error, and nothing happens while the save area waits; R358, R359, R409: an exchange delivers the one
stable cycle to its groups and begins anew with its nodes, and of two it delivers first the one with the lower core.
What is not there, or not saved, changes nothing. Points that the rules leave open here are the model's own: log entries
43, 52 and 58. -/
def Obligations.KillResumeExchange : Prop :=
  ∀ (s s1 : State) (c c' bid coh g : Nat) (gs cyc : List Nat),
    let b := s.block bid
    let co := s.cohorts.get Cohort.empty coh
    (b.live = false ∨ b.saved → exec (.blockKill bid) s = .next s) ∧
    (b.live → b.saved = false → s.liveGids b = g :: gs →
      let members := if ∃ i ∈ g :: gs, (s.group i).mmacAt ≠ none then (s.cohorts.get Cohort.empty b.coh).members else [bid]
      exec (.blockKill bid) s = .next (s.killBlocks members g (s.group g).standPc (pcSlot (s.group g).standPc))) ∧
    ((∀ i ∈ co.members, (s.block i).live = false) ∨ (∃ i ∈ co.members, (s.block i).live ∧ (s.block i).saved = false) →
      exec (.resume coh c) s = .next s) ∧
    (co.members = [bid] → b.live → b.saved → (s.ctx b.vi b.ctx).cstate = .live →
      let cores := s.findCores b.vi (s.queueNo b) b.kern 1 (s.unitsFor b.vi (c / 64) b.kern co [bid])
      let loads := (s.reloadCbar coh [bid]).bind fun u => u.resumeBlock bid c'
      (cores = none → exec (.resume coh c) s = .next s) ∧
      (cores = some [c'] →
        (loads = .ok s1 → exec (.resume coh c) s = .next ((State.settleCbar coh 16 s1).resumeDone b.vi b.ctx)) ∧
        (∀ w, loads = .wait w → exec (.resume coh c) s = .next s) ∧
        (loads = .fault → exec (.resume coh c) s = .next (s.endContext b.vi b.ctx b.pcore 0x42)) ∧
        (∀ l, loads = .bad l → exec (.resume coh c) s = .next (s.blockBad bid l)))) ∧
    (cyclesOf (stableNodes s.wnodes s.nodes) = [] → exec .waitCycleExchange s = .next { s with wnodes := s.nodes }) ∧
    (cyclesOf (stableNodes s.wnodes s.nodes) = [cyc] →
      exec .waitCycleExchange s = .next { s.deliverCycle cyc with wnodes := s.nodes.filter fun n => !cyc.contains n.key }) ∧
    (∀ cyc', cyclesOf (stableNodes s.wnodes s.nodes) = [cyc, cyc'] →
      let (x, y) := if s.cycleCore cyc' < s.cycleCore cyc then (cyc', cyc) else (cyc, cyc')
      exec .waitCycleExchange s = .next { (s.deliverCycle x).deliverCycle y with
        wnodes := s.nodes.filter fun n => !cyc.contains n.key && !cyc'.contains n.key })

/-! ### Contexts -/

/-- R362, R363, R368: command 1 makes a free context live where its fields are allowed; command 2 stops a live one,
and one with no block is stopped at once; command 3 makes a stopped one with no saved block live; command 4 ends one
that exists; command 5 lets every party that is parked on a page fault execute its instruction again, and every
stalled engine context go on. A command in a state that does not allow it sets ERR and does nothing else. R362, R366
to R368, R378: the invalidation of a context drops the cached translations of its ASID that meet the range of INVVA
and INVLOG and no other, and BUSY clears when it is complete, the stores that used them having been accepted; an ATS
request drops those of its PASID's contexts; a write of FLTRD sets it, and a record that was held is written where the
ring then has room, with its interrupt. Points that the rules leave open here are the model's own: log entries 52 and
57. -/
def Obligations.ContextCommands : Prop :=
  (∀ (s : State) (vi n : Nat), n < 256 →
    let c := s.ctx vi n
    let becomes := fun (i : Instr) (y : Ctx) => ∃ t, exec i s = .next t ∧ t = { s with ctxs := t.ctxs } ∧
      t.ctx vi n = y ∧ ∀ v' n', n' < 256 → (v', n') ≠ (vi, n) → t.ctx v' n' = s.ctx v' n'
    let refused := fun (i : Instr) => becomes i { c with err := true }
    (c.busy → refused (.ctxCreate vi n) ∧ refused (.ctxStop vi n) ∧ refused (.ctxResume vi n) ∧
      refused (.ctxInvalidate vi n)) ∧
    (c.cstate ≠ .free ∨ s.createOk vi c = false → refused (.ctxCreate vi n)) ∧
    (c.busy = false → c.cstate = .free → s.createOk vi c →
      becomes (.ctxCreate vi n) { c with err := false, cstate := .live, cmd := 0 }) ∧
    (c.cstate ≠ .live → refused (.ctxStop vi n)) ∧
    (c.busy = false → c.cstate = .live → s.blocksOf vi n = [] → s.starting vi n = false →
      becomes (.ctxStop vi n) { c with err := false, cstate := .stopped, cmd := 2, busy := c.invalidating }) ∧
    (c.busy = false → c.cstate = .live → s.starting vi n → s.blocksOf vi n = [] →
      becomes (.ctxStop vi n) { c with err := false, cstate := .stopping, busy := true, cmd := 2 }) ∧
    (c.cstate ≠ .stopped → refused (.ctxResume vi n)) ∧
    (c.busy = false → c.cstate = .stopped → s.blocksOf vi n = [] →
      becomes (.ctxResume vi n) { c with err := false, cstate := .live, cmd := 0 }) ∧
    (∀ b, c.busy = false → c.cstate = .stopped → s.blocksOf vi n = [b] → (s.block b).saved →
      becomes (.ctxResume vi n) { c with err := false, busy := true, cmd := 3 }) ∧
    (c.cstate = .free → refused (.ctxEnd vi n)) ∧
    (c.cstate ≠ .free → exec (.ctxEnd vi n) s =
      .next ((s.setCtx vi n { c with err := false, cmd := 4 }).endContext vi n 0 0)) ∧
    (c.cstate ≠ .free → c.cstate ≠ .ending → Completes (.ctxEnd vi n) s fun t =>
      (t.ctx vi n).cstate = .ending ∧ (t.ctx vi n).busy ∧ ∀ p ∈ t.pkts, ¬(p.2.vi = vi ∧ p.2.ctxn = n)) ∧
    (c.cstate = .free ∨ c.cstate = .stopped ∨ c.cstate = .ending ∨ c.cstate = .live ∧ c.busy → refused (.ctxReplay vi n)) ∧
    (c.cstate = .live ∧ c.busy = false ∨ c.cstate = .stopping → ∃ t, exec (.ctxReplay vi n) s = .next t ∧
      t = { s with ctxs := t.ctxs, groups := t.groups, blocks := t.blocks } ∧ t.ctx vi n = { c with err := false } ∧
      (∀ g ∈ s.ctxParties vi n, (s.ctxParties vi n).Nodup → ∀ k, let e := (s.group g).ent k
        let answered := e.wait = .fault ∨ ∃ k, e.wait = .record k ∧ c.written k
        (e.valid → e.st = .parked → answered →
          (t.group g).ent k = { e with st := .ready, wait := .none, since := s.clock }) ∧
        (e.st ≠ .parked ∨ ¬answered → (t.group g).ent k = e)) ∧
      ∀ b ∈ s.blocksOf vi n, (s.blocksOf vi n).Nodup → ∀ k, let x := (s.block b).tc.get Tc.unbound k
        (t.block b).tc.get Tc.unbound k = if x.held.all c.written then { x with stall := none, held := none } else x)) ∧
  (∀ (s s1 : State) (vi n : Nat) (pasid : BitVec 20) (va : Word64) (lg : Nat) (v : BitVec 32), n < 256 →
    let c := s.ctx vi n
    let size := 2 ^ (12 + c.invlog.toNat)
    let lo := c.invva.toNat / size * size
    let hits := fun (x : TlbEntry) => x.asid = c.asid.toNat ∧
      (c.invlog = 0xFF ∧ x.va < 2 ^ 64 ∨ c.invlog ≠ 0xFF ∧ x.va < lo + size ∧ lo < x.va + 2 ^ x.lg)
    (c.busy = false → c.cstate ≠ .free → ∃ t, exec (.ctxInvalidate vi n) s = .next t ∧
      t = { s with ctxs := t.ctxs, tlb := t.tlb, invs := s.invs ++ [(vi, n)] } ∧
      t.ctx vi n = { c with err := false, busy := true, invalidating := true } ∧
      ∀ x, x ∈ t.tlb ↔ x ∈ s.tlb ∧ ¬hits x) ∧
    (∃ t, exec (.atsInvalidateRequest vi pasid va lg) s = .next t ∧
      t = { s with tlb := t.tlb, invs := s.invs ++ [(vi, 256)] } ∧ (∀ x ∈ t.tlb, x ∈ s.tlb) ∧
      (∀ x ∈ s.tlb, x ∉ t.tlb → ∃ m ∈ s.ctxs, m.1 / 256 = vi ∧ m.2.cstate ≠ .free ∧ m.2.pasid = pasid ∧
        m.2.asid.toNat = x.asid) ∧
      ∀ x ∈ t.tlb, ∀ m ∈ s.ctxs, m.1 / 256 = vi → m.2.cstate ≠ .free → m.2.pasid = pasid → x.asid = m.2.asid.toNat →
        ¬(x.va < va.toNat / 2 ^ lg * 2 ^ lg + 2 ^ lg ∧ va.toNat / 2 ^ lg * 2 ^ lg < x.va + 2 ^ x.lg)) ∧
    ((vi, n) ∉ s.invs → exec (.invalidationComplete vi n) s = .next s) ∧
    ((vi, n) ∈ s.invs → c.invalidating → ∃ t, exec (.invalidationComplete vi n) s = .next t ∧ t.wtq = [] ∧
      t.ctx vi n = { c with invalidating := false, busy := c.cstate == .stopping || c.cstate == .ending } ∧
      (s.wtq = [] → t = { s with ctxs := t.ctxs, invs := s.invs.erase (vi, n) })) ∧
    ((vi, 256) ∈ s.invs → exec (.invalidationComplete vi 256) s =
      .next (({ s with invs := s.invs.erase (vi, 256), wtq := [] } : State).acceptAll s.wtq)) ∧
    (c.recs = [] → ∃ t, exec (.fltrdWrite vi n v) s = .next t ∧ t = { s with ctxs := t.ctxs } ∧
      t.ctx vi n = { c with fltrd := v }) ∧
    (∀ r, c.recs = [r] →
      let d : Ctx := { c with fltrd := v, recs := [] }
      let u := (s.setCtx vi n { c with fltrd := v }).setCtx vi n d
      (d.ringFull → ∃ t, exec (.fltrdWrite vi n v) s = .next t ∧ t = { s with ctxs := t.ctxs } ∧
        t.ctx vi n = { c with fltrd := v }) ∧
      (d.ringFull = false →
        u.ctxWrite 0 vi n (c.fltring + BitVec.ofNat 64 (64 * (c.fltwr.toNat % 2 ^ c.fltlog.toNat))) r = .ok s1 →
        ∃ t, exec (.fltrdWrite vi n v) s = .next t ∧ (t.ctx vi n).fltwr = (s1.ctx vi n).fltwr + 1 ∧
          t.msix = s1.msix ++ [(vi, (s1.ctx vi n).vec.toNat)])))

/-! ### Functions, bring-up, quiesce -/

/-- R19, R20, R82, R379, R380, R383 to R386: a function that becomes ready, once the trust die has released it or its
base die is ready, sets its bit and no other, unless it has failed; one that fails clears it and sets its bit of
rdyfail, and a base die in service takes its stack with it (R394); data that arrives leaves the set of pages without
data. The trust die comes up first, in a new epoch, the next one where power comes back, with the cause of the last
one's end (R417), and with a key for its firmware; a base die is released once both its images are accepted, with the
memory mode of its configuration image where none has been loaded, and marked failed otherwise, and the rest of the
package goes on; links and stacks train on a ready base die; a compute die starts on a ready base die with one HBM stack
ready, once its images are accepted, its time loaded from the trust die's. Points that the rules leave open here are the
model's own: log entries 6, 9, 53 and 56. -/
def Obligations.BringUp : Prop :=
  ∀ (s s1 : State) (f : Func) (page : Nat) (k : Fin 4) (d : Fin 8) (img hd die vault agent : Image)
      (body : List Byte),
    let cfg := Image.append hd body
    let only := fun (t : State) (f : Func) =>
      ∀ j < 64, t.rdymap.getLsbD j = (s.rdymap.getLsbD j || decide (j = Func.bit f))
    let may := match Func.stack f with
      | some b => s.rdymap.getLsbD (16 + b)
      | none => s.released.getLsbD (Func.bit f)
    (may → s.rdyfail.getLsbD (Func.bit f) = false → ∃ t, exec (.functionReady f) s = .next t ∧
      t = { s with rdymap := t.rdymap, times := t.times } ∧ only t f ∧
      ∀ d : Fin 8, f = .die d → s.rdymap.getLsbD d.val = false → t.times.get 0 d.val = s.times.get 0 79) ∧
    (may = false → exec (.functionReady f) s = .next s) ∧
    let lost := fun (j : Nat) => j = Func.bit f ∨ ∃ b, f = .base b ∧ s.rdymap.getLsbD (16 + b.val) ∧
      (j = 28 + b.val ∨ ∃ i < 8, i / 2 = b.val ∧ (j = i ∨ j = 8 + i ∨ j = 20 + i ∨ j = 32 + i))
    ((∀ c ∈ s.ctxs, c.2.exists' = false) → ∃ t, exec (.functionMarkedFailed f) s = .next t ∧
      t = { s with rdymap := t.rdymap, rdyfail := t.rdyfail, released := t.released } ∧ ∀ j < 64,
        (lost j → t.rdymap.getLsbD j = false ∧ t.released.getLsbD j = false ∧ t.rdyfail.getLsbD j) ∧
        (¬lost j → t.rdymap.getLsbD j = s.rdymap.getLsbD j ∧ t.released.getLsbD j = s.released.getLsbD j ∧
          t.rdyfail.getLsbD j = s.rdyfail.getLsbD j)) ∧
    (∀ b, f = .base b → s.rdymap.getLsbD (16 + b.val) = false → Completes (.functionMarkedFailed f) s fun t =>
      t.ctxs = s.ctxs ∧ t.blocks = s.blocks ∧ t.groups = s.groups) ∧
    (Completes (.functionMarkedFailed f) s fun t => t.rdyfail.getLsbD (Func.bit f) ∧
      t.rdymap.getLsbD (Func.bit f) = false) ∧
    (∃ t, exec (.deferredDataArrival page) s = .next t ∧ t = { s with flash := t.flash } ∧
      ∀ p, p ∈ t.flash ↔ p ∈ s.flash ∧ p ≠ page) ∧
    ((∀ vi n, s.outstanding vi n (· == .deferred page) = false) → exec (.secondTierTimeout page) s = .next s) ∧
    (∀ vi n, s.ctxs.map Prod.fst = [256 * vi + n] → n < 256 → (s.ctx vi n).exists' →
      s.outstanding vi n (· == .deferred page) → exec (.secondTierTimeout page) s =
        .next ((s.logNow 0x04 (locOf 8 (1 + page % 3)) (BitVec.ofNat 64
          (page * 4096 % 2 ^ 48 + (s.ctx vi n).asid.toNat * 2 ^ 48))).endContext vi n 0 0x41)) ∧
    (s.log.live = false → s.rdyfail = 0 → ∃ t, exec .powerGood s = .next t ∧ t.rdymap = s.rdymap ||| 1#64 <<< 40 ∧
      t.log.seq = 2 ∧ t.log.live ∧ t.off = false ∧
      t.log.ents.map (fun e => (e.seq, e.typ, e.loc, e.data)) =
        [(1, 0, 0, t.log.boot), (2, 0x60, 0, if s.log.trip then 2 else 0)] ∧
      (s.rdymap.getLsbD 40 = false → t.keys.get Key.none 512 =
        { key := Config.freshKey 512 s.clock, valid := true, gen := 1 }) ∧
      t.log.boot = if s.off then s.log.boot + 1 else s.log.boot) ∧
    (s.log.live → s.off = false → s.rdyfail.getLsbD 40 = false → ∃ t, exec .powerGood s = .next t ∧
      t = { s with rdymap := t.rdymap, released := t.released, keys := t.keys } ∧ only t .key) ∧
    (s.rdymap.getLsbD 40 = false ∨ s.rdymap.getLsbD (16 + k.val) ∨ s.rdyfail.getLsbD (16 + k.val) →
      exec (.baseDieRelease k img hd body) s = .next s) ∧
    (s.rdymap.getLsbD 40 → s.rdymap.getLsbD (16 + k.val) = false → s.rdyfail.getLsbD (16 + k.val) = false →
      let accepted := Image.ok img 1 ∧ Image.ok cfg 5 ∧ (s.hbmSet → Config.fineOf (Image.body cfg) = s.hbmFine)
      (accepted → ∃ t, exec (.baseDieRelease k img hd body) s = .next t ∧ only t (.base k) ∧ t.hbmSet ∧
        t.hbmFine = Config.fineOf (Image.body cfg)) ∧
      (¬accepted → ∃ t, exec (.baseDieRelease k img hd body) s = .next t ∧ t.rdyfail.getLsbD (16 + k.val) ∧
        t.rdymap = s.rdymap ∧ t.ctxs = s.ctxs ∧ t.blocks = s.blocks ∧ t.groups = s.groups)) ∧
    (∀ b, Func.stack f = some b → s.rdymap.getLsbD (16 + b) → s.rdyfail.getLsbD (Func.bit f) = false → ∃ t,
      exec (.linkTrained f) s = .next t ∧ t = { s with rdymap := t.rdymap } ∧ only t f) ∧
    (∀ b, Func.stack f = some b → s.rdymap.getLsbD (16 + b) = false ∨ s.rdyfail.getLsbD (Func.bit f) →
      exec (.linkTrained f) s = .next s) ∧
    (Func.stack f = none → exec (.linkTrained f) s = .next s) ∧
    (s.rdymap.getLsbD (16 + d.val / 2) = false ∨ s.rdymap.toNat / 2 ^ 20 % 256 = 0 ∨ s.rdymap.getLsbD d.val →
      exec (.computeDieRelease d die vault agent) s = .next s) ∧
    (s.rdymap.getLsbD (16 + d.val / 2) → s.rdymap.toNat / 2 ^ 20 % 256 ≠ 0 → s.rdymap.getLsbD d.val = false →
      s.rdyfail.getLsbD d.val = false → (s.dqs.get {} d.val).st = .service →
      (s.verifyDie d.val die vault agent = (s1, true) → s1.rdyfail = 0 → ∃ t,
        exec (.computeDieRelease d die vault agent) s = .next t ∧
        t.rdymap = s1.rdymap ||| 1#64 <<< d.val ||| 1#64 <<< (8 + d.val) ∧
        t.times.get 0 d.val = s1.times.get 0 79 ∧
        ∀ c, 64 * d.val ≤ c → c < 64 * d.val + 64 → (t.group (17 * c + 16)).live ∧
          (t.group (17 * c + 16)).kind = .agent ∧ ((t.group (17 * c + 16)).ent 0).pc = 0) ∧
      ((s.verifyDie d.val die vault agent).2 = (Image.ok die 2 && Image.ok vault 3 && Image.ok agent 4)) ∧
      (s.verifyDie d.val die vault agent = (s1, false) →
        exec (.computeDieRelease d die vault agent) s = .next s1 ∧
          (s1.rdyfail.getLsbD d.val ∨ s1.rdyfail.getLsbD (8 + d.val))))

/-- R337, R339, R345, R391 to R396: a quiesce of a die in service clears its ready bits and those of its vault die,
takes its cores out, and begins; once it is empty it drains, what its caches hold unpublished reaching the home, is
fenced and logged; at its deadline it is fenced at once and its directory is rebuilt: the die holds no copy any more, its
modified lines are on the loss list, a wider unit keeps a line only for a cluster outside the die, and one that a stack
lists as owned through the die takes its last published value there and in the copies left; a rebuild that ends logs the
die's losses and leaves it fenced; a fenced die returns to service when its images are accepted. In another state none of
these changes anything. Points that the rules leave open here are the model's own: log entries 54 and 69. -/
def Obligations.DieQuiesce : Prop :=
  ∀ (s s1 : State) (d : Fin 8) (die vault agent : Image) (line page asid clu st : Nat), line < 2 ^ 41 →
    let q := s.dq d.val
    let quiet := s.log.mirror = none ∧ s.log.dropped = 0 ∧ s.log.ents.length + s.lost.length < 65000
    let up := s.copy (72 + d.val / 2) line
    let wider := [72 + d.val / 2, 76 + d.val / 4, 78]
    let dead := s.blocks = [] ∧ s.cohorts = [] ∧ s.mail = [] ∧ s.coh = [] ∧ s.wtq = [] ∧ s.net = [] ∧ s.ctxs = [] ∧
      s.queues = [] ∧ s.log.mirror = none ∧ s.log.dropped = 0 ∧ s.log.ents.length < 65000
    (q.st ≠ .service ∨ q.busy → exec (.dieQuiesce d) s = .next s) ∧
    (q.st = .service → q.busy = false → s.mail = [] → s.cohorts = [] → ∃ t, exec (.dieQuiesce d) s = .next t ∧
      t.dq d.val = { q with busy := true, st := .quiescing } ∧
      (∀ j < 64, t.rdymap.getLsbD j = (s.rdymap.getLsbD j && decide (j ≠ d.val ∧ j ≠ 8 + d.val))) ∧
      (∀ c < 512, c / 64 = d.val → (t.occOf c).getLsbD 63) ∧ (∀ c < 512, c / 64 ≠ d.val → t.occOf c = s.occOf c) ∧
      t.groups = s.groups ∧ t.blocks = s.blocks ∧ t.mem = s.mem) ∧
    (q.st ≠ .quiescing ∨ s.dieEmpty d.val = false → exec (.dieDrainComplete d) s = .next s) ∧
    (q.st ≠ .quiescing → exec (.dieQuiesceDeadline d) s = .next s) ∧
    (q.st = .quiescing → dead → ∃ t, exec (.dieDrainComplete d) s = .next t ∧
      t.dq d.val = { q with busy := false, forced := false, st := .fenced, dirty := [] } ∧
      (∀ c, 64 * d.val ≤ c → c < 64 * d.val + 64 → (t.group (17 * c + 16)).live = false) ∧
      t.log.ents.map (·.typ) = s.log.ents.map (·.typ) ++ [0x30]) ∧
    (q.st = .quiescing → dead → ∃ t, exec (.dieQuiesceDeadline d) s = .next t ∧
      t.dq d.val = { q with forced := true, st := .rebuilding } ∧
      (∀ v, 64 * d.val ≤ v → v < 64 * d.val + 64 → t.vown.get Vown.reset v = Vown.reset) ∧
      t.log.ents.map (·.typ) = s.log.ents.map (·.typ) ++ [0x30]) ∧
    (q.st = .quiescing → s.dieEmpty d.val → quiet → Completes (.dieDrainComplete d) s fun t =>
      ∀ k, k / 8 = d.val → (t.copy k line).valid = false) ∧
    (q.st = .quiescing → s.dieEmpty d.val → quiet → s.wtq = [] → s.net = [] → clu / 8 = d.val →
      (∀ u < 79, (s.copy u line).valid ↔ u ∈ cluPath clu) → s.llcOf line = some st →
      paKind s.hbmFine (128 * line) ≠ .host → Completes (.dieDrainComplete d) s fun t =>
        (∀ u < 79, (t.copy u line).valid = false) ∧ ∀ j < 128, (s.copy clu line).dirty.getLsbD j →
          (t.copy (llcUnit st) line).data.byte j = (s.copy clu line).data.byte j) ∧
    (q.st = .quiescing → s.ctxs = [] → quiet → Completes (.dieQuiesceDeadline d) s fun t =>
      (∀ u, inUnit u (64 + d.val) → (t.copy u line).valid = false) ∧
      (∀ x ∈ s.lost, x ∈ t.lost) ∧
      (∀ u, inUnit u (64 + d.val) → (s.copy u line).dirty ≠ 0 → (d.val, line / 32, s.tagOf line) ∈ t.lost) ∧
      (up.valid → up.owner = some (64 + d.val) → (d.val, line / 32, s.tagOf line) ∈ t.lost) ∧
      (∀ u ∈ wider, (∀ k < 64, inUnit k u → inUnit k (64 + d.val) = false → (s.copy k line).valid = false) →
        (t.copy u line).valid = false) ∧
      (up.valid → up.owner = some (64 + d.val) → (s.copy (76 + d.val / 4) line).valid →
        (s.copy (76 + d.val / 4) line).owner = none → (s.copy 78 line).owner = none → clu < 64 →
        inUnit clu (72 + d.val / 2) → inUnit clu (64 + d.val) = false → (s.copy clu line).valid →
        (s.copy clu line).dirty = 0 → (s.copy (64 + clu / 8) line).dirty = 0 →
        let v := (s.copy (76 + d.val / 4) line).data
        t.copy (72 + d.val / 2) line = { up with data := v, dirty := 0, owner := none } ∧ (t.copy clu line).data = v)) ∧
    (q.st ≠ .rebuilding → exec (.rebuildComplete d) s = .next s) ∧
    (q.st = .rebuilding → s.lost = [] → dead → ∃ t, exec (.rebuildComplete d) s = .next t ∧
      t.dq d.val = { q with busy := false, st := .fenced } ∧
      t.log.ents.map (·.typ) = s.log.ents.map (·.typ) ++ [0x31]) ∧
    (q.st = .rebuilding → quiet → Completes (.rebuildComplete d) s fun t =>
      t = { s with log := t.log, dqs := t.dqs, lost := s.lost.filter fun x => x.1 != d.val, free := s.free + 1 } ∧
      t.dq d.val = { q with busy := false, st := .fenced } ∧
      (t.log.ents.drop s.log.ents.length).map (fun e => (e.typ, e.data)) =
        ((s.lost.filter fun x => x.1 == d.val).map fun x => (0x32, BitVec.ofNat 64 (x.2.1 * 2 ^ 12 + x.2.2 * 2 ^ 48))) ++
          [(0x31, BitVec.ofNat 64 ((Config.freeWord s.free).toNat % 2 ^ 32))] ∧
      (s.lost = [(d.val, page, asid)] → t.lost = [])) ∧
    (q.st = .service ∨ q.st = .quiescing ∨ q.st = .rebuilding ∨ s.dieMayStart d.val = false →
      exec (.dieReturn d die vault agent) s = .next s) ∧
    (q.st = .fenced → s.dieMayStart d.val → s.verifyDie d.val die vault agent = (s1, true) → s1.rdyfail = 0 → ∃ t,
      exec (.dieReturn d die vault agent) s = .next t ∧ t.dq d.val = { q with busy := false, st := .service } ∧
      t.rdymap = s1.rdymap ||| 1#64 <<< d.val ||| 1#64 <<< (8 + d.val) ∧
      ∀ c < 512, c / 64 = d.val → (s1.ownerOf c).isSome → (t.occOf c).getLsbD 63 = false) ∧
    (q.st = .fenced → s.dieMayStart d.val → s.verifyDie d.val die vault agent = (s1, false) → ∃ t,
      exec (.dieReturn d die vault agent) s = .next t ∧ t.dq d.val = { q with busy := false, st := .returning })

/-! ### Keys, the SPDM responder, outside accesses -/

/-- R387 to R389: a key command in progress, an ASID that contexts use and a seal whose range or key is missing are
refused with ERR; the others are taken, and their work done: a fresh key; the key destroyed, once no line of its ASID
is left in the caches; or every line of the range encrypted under the key of its ASID, so that what stood there in
plaintext reads the same under the key. R381, R411: a request is answered over DOE once those it depends on have been,
and with an error otherwise; the payloads are the SPDM standard's (log entry 9). -/
def Obligations.KeysAndSpdm : Prop :=
  ∀ (s : State) (asid : Fin 512) (slot : Fin 8) (off len a n : Nat) (nonce : BitVec 256) (idx : BitVec 8) (sign : Bool)
    (req : List Byte),
    let r := s.keyr
    let number := BitVec.ofNat 9 asid.val
    let refused := fun (i : Instr) => exec i s = .next { s with keyr := { r with err := true, asid := number } }
    let takes := fun (i : Instr) (op : KeyOp) =>
      exec i s = .next { s with keyr := { r with err := false, busy := some op, asid := number } }
    let inUse := ∃ c ∈ s.ctxs, c.2.exists' ∧ c.2.asid.toNat = asid.val
    let inRange := r.keybase.toNat % 4096 = 0 ∧ 1 ≤ r.keylen.toNat ∧ r.keylen.toNat ≤ 2 ^ 24 ∧
      r.keybase.toNat + 4096 * r.keylen.toNat ≤ 2 ^ 39
    let hasKey := (s.keys.get Key.none asid.val).valid
    let answers := fun (i : Instr) (ok : Bool) (new : Spdm) =>
      (ok → ∃ bs, exec i s = .next { s with doe := s.doe ++ [bs], spdm := new, free := s.free + 1 }) ∧
      (ok = false → exec i s = .next { s with doe := s.doe ++ [[0x7F]] })
    (r.busy.isSome ∨ inUse → refused (.keyInstall asid) ∧ refused (.keyDestroy asid)) ∧
    (r.busy.isSome ∨ ¬inRange ∨ hasKey = false → refused (.keySeal asid)) ∧
    (r.busy = none → ¬inUse →
      takes (.keyInstall asid) (.install asid.val) ∧ takes (.keyDestroy asid) (.destroy asid.val)) ∧
    (r.busy = none → inRange → hasKey → takes (.keySeal asid) (.seal asid.val r.keybase.toNat r.keylen.toNat)) ∧
    (r.busy = none → exec .keyctlComplete s = .next s) ∧
    (r.busy = some (.install asid.val) → ∃ t, exec .keyctlComplete s = .next t ∧
      t = { s with keys := t.keys, keyr := { r with busy := none } } ∧
      t.keys.get Key.none asid.val = { key := Config.freshKey asid.val s.clock, valid := true
                                       gen := (s.keys.get Key.none asid.val).gen + 1 } ∧
      ∀ j, j ≠ asid.val → t.keys.get Key.none j = s.keys.get Key.none j) ∧
    (r.busy = some (.destroy asid.val) → s.coh = [] → s.net = [] → ∃ t, exec .keyctlComplete s = .next t ∧
      t = { s with keys := t.keys, keyr := { r with busy := none } } ∧
      (t.keys.get Key.none asid.val).valid = false ∧ (t.keys.get Key.none asid.val).key = 0 ∧
      ∀ j, j ≠ asid.val → t.keys.get Key.none j = s.keys.get Key.none j) ∧
    (r.busy = some (.destroy asid.val) → Completes .keyctlComplete s fun t =>
      (t.keys.get Key.none asid.val).valid = false ∧
      ∀ u < 79, ∀ line < 2 ^ 41, (t.copy u line).valid → (t.copy u line).tag ≠ asid.val) ∧
    (r.busy = some (.seal asid.val a n) → s.coh = [] → s.net = [] → ∃ t,
      exec .keyctlComplete s = .next t ∧
      t = { s with mem := t.mem, l1 := t.l1, keyr := { r with busy := none } } ∧
      ∀ l, (a / 128 ≤ l ∧ l < a / 128 + 32 * n → t.hbmLine l asid.val = s.memLine l) ∧
        (l < a / 128 ∨ a / 128 + 32 * n ≤ l → t.memLine l = s.memLine l)) ∧
    answers .getVersion true { measured := s.spdm.measured, version := true } ∧
    answers .getCapabilities s.spdm.version { s.spdm with caps := true } ∧
    answers (.negotiateAlgorithms req) s.spdm.caps { s.spdm with algs := true } ∧
    answers .getDigests s.spdm.algs s.spdm ∧ answers (.getCertificate slot off len) s.spdm.algs s.spdm ∧
    answers (.challenge slot nonce) s.spdm.algs s.spdm ∧ answers (.getMeasurements idx sign nonce) s.spdm.algs s.spdm ∧
    answers (.keyExchange req) s.spdm.algs { s.spdm with session := true, finished := false } ∧
    answers (.finish req) s.spdm.session { s.spdm with finished := true }

/-- R85, R86, R390, R398 to R402, R414: an aligned access of the host, or of a ready peer, to ready HBM is performed at
the package directory, where a write leaves its bytes in the home's LLC and no other copy, and a peer's atomic or compare
and exchange is performed at the home on what stood there; one that meets a line with an uncorrectable error is logged,
with no context (log entry 53), and performed; a write to what stands in a firmware region or a context table reaches it.
A peer's read or write of the aperture of an enabled window is performed too, and its atomic is not. A host write of host
memory changes those bytes and leaves no copy; a back-invalidation of a
second-tier line and an invalidating CXL.cache snoop of a host line leave no copy of it; another snoop leaves nothing
of it unpublished to the host. Points that the rules leave open here are the model's own: log entries 35 and 53. -/
def Obligations.OutsideAccesses : Prop :=
  ∀ (s : State) (w : Bool) (pa n h line : Nat) (v : BitVec 64) (l : Fin 8), s.net = [] → line < 2 ^ 41 →
    let size := (n = 1 ∨ n = 2 ∨ n = 4 ∨ n = 8) ∧ pa % n = 0
    let none' := fun (t : State) (line : Nat) => ∀ u < 79, (t.copy u line).valid = false
    let home := llcUnit (h / 2)
    let linked := s.rdymap.getLsbD (32 + l.val)
    let sound := pa / 128 ∉ s.bad ∨ s.log.mirror = none
    let rest := fun (t : State) => MemOnly { s with log := t.log } t ∧ (pa / 128 ∉ s.bad → t.log = s.log)
    let wrote := fun (i : Instr) => ∃ t, exec i s = .next t ∧
      t.getBytes home (pa / 128) (pa % 128) n = toBytes n v.toNat ∧ none' t (pa / 128) ∧ rest t
    let read := fun (i : Instr) => ∃ t, exec i s = .next t ∧
      ((t.copy 78 (pa / 128)).valid ∨ (t.copy home (pa / 128)).valid) ∧ rest t
    let logs := fun (i : Instr) => s.log.mirror = none → s.log.dropped = 0 → s.log.ents.length < 65536 →
      Completes i s fun t => ∃ e, t.log.ents = s.log.ents ++ [e] ∧ e.typ = 4 ∧ e.loc = locOf 7 h ∧
        e.data = BitVec.ofNat 64 (pa / 128 * 128 + 0x1FF * 2 ^ 48)
    let rmw := fun (op : PeerOp) (f : Nat → Nat) => linked → pa / 128 ∉ s.bad → s.fwOfPa pa = none →
      exec (.peerRequest l op pa n v) s =
        .next (s.rmwHome plainAsid pa n fun bs => toBytes n (f (ofBytes bs))).1 ∧
      (s.isCached (pa / 128) = false → Completes (.peerRequest l op pa n v) s fun t =>
        none' t (pa / 128) ∧ t.getBytes home (pa / 128) (pa % 128) n = toBytes n (f (ofBytes
          ((List.range n).map fun k => (s.homeLine (pa / 128) plainAsid).byte (pa % 128 + k)))))
    (¬size → exec (.hostMemoryAccess w pa n v) s = .next s ∧ exec (.peerRequest l .read pa n v) s = .next s ∧
      exec (.peerRequest l .write pa n v) s = .next s) ∧
    (paKind s.hbmFine pa = .hbm h → s.rdymap.getLsbD (20 + h) →
      (size → s.fwOfPa pa = none → sound →
        (s.rdymap.getLsbD 28 → wrote (.hostMemoryAccess true pa n v) ∧ read (.hostMemoryAccess false pa n v)) ∧
        (linked → wrote (.peerRequest l .write pa n v) ∧ read (.peerRequest l .read pa n v))) ∧
      (size → pa / 128 ∈ s.bad →
        (s.rdymap.getLsbD 28 → logs (.hostMemoryAccess w pa n v)) ∧
        (linked → logs (.peerRequest l .read pa n v) ∧ logs (.peerRequest l .write pa n v))) ∧
      (∀ vi tab off, size → pa / 128 ∉ s.bad → s.fwOfPa pa = some (vi, tab, off) →
        let bs := toBytes n v.toNat
        (s.rdymap.getLsbD 28 →
          exec (.hostMemoryAccess true pa n v) s = .next ((s.writePkg plainAsid pa bs).putFw vi tab off bs)) ∧
        (linked → exec (.peerRequest l .write pa n v) s = .next ((s.writePkg plainAsid pa bs).putFw vi tab off bs))) ∧
      (s.rdymap.getLsbD 28 = false → exec (.hostMemoryAccess w pa n v) s = .next s) ∧
      (∀ op ty, n = AType.bits ty / 8 → pa % n = 0 → rmw (.atomic op ty) fun m => atVal op ty m v.toNat) ∧
      (∀ c x, n ∈ [4, 8, 16] → pa % n = 0 → rmw (.cas c x) fun m => if m = c.toNat % 2 ^ (8 * n) then x.toNat else m)) ∧
    (∀ op, ¬linked → exec (.peerRequest l op pa n v) s = .next s) ∧
    (∀ h op, paKind s.hbmFine pa = .hbm h → s.rdymap.getLsbD (20 + h) = false →
      exec (.hostMemoryAccess w pa n v) s = .next s ∧ exec (.peerRequest l op pa n v) s = .next s) ∧
    (paKind s.hbmFine pa = .aperture → pa / 128 ∉ s.bad → s.fwOfPa pa = none →
      (s.windowAt pa = none → ∀ op, exec (.peerRequest l op pa n v) s = .next s) ∧
      (∀ op ty, exec (.peerRequest l (.atomic op ty) pa n v) s = .next s) ∧
      (size → linked → (s.windowAt pa).isSome → s.paWait pa = none →
        exec (.peerRequest l .write pa n v) s = .next (s.writePkg plainAsid pa (toBytes n v.toNat)))) ∧
    ((∀ h, paKind s.hbmFine pa ≠ .hbm h) → paKind s.hbmFine pa ≠ .aperture →
      ∀ op, exec (.peerRequest l op pa n v) s = .next s) ∧
    (size → paKind s.hbmFine pa = .host → ∃ t, exec (.hostMemoryAccess true pa n v) s = .next t ∧
      none' t (pa / 128) ∧ (t.copy (llcUnit 0) (pa / 128)).valid = false ∧
      ∀ k < n, t.memByte (pa + k) = BitVec.ofNat 8 (v.toNat / 2 ^ (8 * k))) ∧
    ((∃ p, paKind s.hbmFine (128 * line) = .second p) → ∃ t, exec (.backInvalidate line) s = .next t ∧ none' t line) ∧
    ((∀ p, paKind s.hbmFine (128 * line) ≠ .second p) → exec (.backInvalidate line) s = .next s) ∧
    (paKind s.hbmFine (128 * line) ≠ .host → exec (.cxlCacheSnoop line w) s = .next s) ∧
    (paKind s.hbmFine (128 * line) = .host →
      (∃ t, exec (.cxlCacheSnoop line true) s = .next t ∧ none' t line ∧ (t.copy (llcUnit 0) line).valid = false) ∧
      (∃ t, exec (.cxlCacheSnoop line false) s = .next t ∧ (t.copy (llcUnit 0) line).dirty = 0 ∧
        ((s.copy 78 line).valid = false → (s.copy (llcUnit 0) line).dirty ≠ 0 →
          t.memLine line = (s.copy (llcUnit 0) line).data)))

/-! ### The log, power and reset -/

/-- R403 to R411, R418: an event of R406's table, at a location that occurs for it, takes the next number, and its
digest covers the digest before it and the entry's first 28 bytes; with no room it is counted as dropped, and the count
is appended before the next one; what is no such event is not appended. A mirror takes the entries not yet acknowledged,
entry i in slot i mod its size, and its write index then, and LOGACK frees what the mirror holds. MIRROR, LOGACK, LOGRD,
CKPT, TELEM and PWRCAP answer as the spec says, and refuse with status 1 and no change what they do not allow, as do the
reserved codes. Power figures are values that the spec leaves open. Points that the rules leave open here are the
model's own: log entries 55, 56 and 61. -/
def Obligations.LogAndRequests : Prop :=
  ∀ (s : State) (typ code : BitVec 8) (loc : BitVec 16) (data addr : BitVec 64) (lg seq n w : Nat) (c : Ckpt),
    let l := s.log
    let replies := fun (t : State) (bs : List Byte) => { t with doe := t.doe ++ [bs] }
    let refused := fun (i : Instr) => exec i s = .next (replies s [1])
    let where' := addr.toNat % 4096 = 0 ∧ 7 ≤ lg ∧ lg ≤ 20 ∧ 2 ^ 44 ≤ addr.toNat ∧
      addr.toNat + 4096 + 32 * 2 ^ lg ≤ 2 ^ 45
    let put := fun (t : State) (a : Nat) (bs : List Byte) => ∀ k < bs.length, t.memByte (a + k) = bs.getD k 0
    (eventOk typ loc data = false → exec (.logAppend typ loc data) s = .next s) ∧
    (10 ≤ loc.toNat / 2 ^ 12 ∨ typ ∈ [0, 0x60, 0x7F] → eventOk typ loc data = false) ∧
    (eventOk typ loc data → 65536 ≤ l.ents.length → exec (.logAppend typ loc data) s =
      .next { s with log := { l with dropped := l.dropped + 1 } }) ∧
    (eventOk typ loc data → l.ents.length < 65535 → l.dropped ≠ 0 → l.mirror = none →
      ∃ t e e', exec (.logAppend typ loc data) s = .next t ∧ t.log.ents = l.ents ++ [e, e'] ∧ t.log.dropped = 0 ∧
        (e.seq, e.typ, e.loc, e.data) = (l.seq + 1, 0x7F, 0, BitVec.ofNat 64 (l.dropped % 2 ^ 32)) ∧
        (e'.seq, e'.typ, e'.loc, e'.data) = (l.seq + 2, typ, loc, data)) ∧
    (eventOk typ loc data → l.ents.length < 65536 → l.dropped = 0 → l.mirror = none →
      ∃ t e, exec (.logAppend typ loc data) s = .next t ∧ t = { s with log := t.log } ∧ t.log.seq = l.seq + 1 ∧
        t.log.ents = l.ents ++ [e] ∧ e.seq = l.seq + 1 ∧ e.time = s.times.get 0 79 ∧ e.typ = typ ∧ e.loc = loc ∧
        e.data = data ∧ t.log.digest = Config.sha384 (toBytes 48 l.digest.toNat ++ (LogEntry.bytes e).take 28) ∧
        e.chk = BitVec.ofNat 32 t.log.digest.toNat) ∧
    (¬where' → refused (.mirror addr lg)) ∧
    (where' → l.ents = [] → exec (.mirror addr lg) s =
      .next (replies { s with log := { l with mirror := some (addr.toNat, lg) } } [0])) ∧
    (∀ e, where' → l.ents = [e] → ∃ t, exec (.mirror addr lg) s = .next (replies t [0]) ∧
      put t (addr.toNat + 4096 + 32 * (e.seq % 2 ^ lg)) (LogEntry.bytes e) ∧ put t addr.toNat (toBytes 8 (e.seq + 1)) ∧
      t.log = { l with mirror := some (addr.toNat, lg), written := e.seq }) ∧
    (l.written < seq → refused (.logack seq)) ∧
    (seq ≤ l.written → ∃ t, exec (.logack seq) s = .next (replies t [0]) ∧ t = { s with log := t.log } ∧
      t.log = { l with ents := t.log.ents, acked := max l.acked seq } ∧
      ∀ e, e ∈ t.log.ents ↔ e ∈ l.ents ∧ seq < e.seq) ∧
    (n = 0 ∨ 127 < n → refused (.logrd seq n)) ∧
    (1 ≤ n → n ≤ 127 → exec (.logrd seq n) s = .next (replies s
      (0 :: ((l.ents.filter fun e => decide (seq ≤ e.seq) && decide (e.seq < seq + n)).map LogEntry.bytes).flatten))) ∧
    ((∀ k ∈ l.ckpts, k.seq ≠ seq) → refused (.ckpt seq)) ∧
    (l.ckpts = [c] → c.seq = seq → exec (.ckpt seq) s = .next (replies s (0 :: c.bytes))) ∧
    (∃ bs, exec .telem s = .next (replies { s with free := s.free + 28 } bs) ∧ bs.length = 8370 ∧
      bs.getD 133 0 = BitVec.ofNat 8 (s.power.temps.get 0 0x1000) ∧
      (bs.drop 134).take 4 = toBytes 4 s.power.cap ∧ (bs.drop 8362).take 8 = toBytes 8 l.seq) ∧
    (w < 1500 ∨ 3000 < w → refused (.pwrcap w)) ∧
    (1500 ≤ w → w ≤ 3000 → exec (.pwrcap w) s = .next (replies { s with power := { s.power with cap := w } } [0])) ∧
    (code = 0 ∨ 7 ≤ code.toNat → refused (.reservedDoeRequest code)) ∧
    (code ≠ 0 → code.toNat < 7 → exec (.reservedDoeRequest code) s = .next s)

/-- R403, R407, R410, R413, R414, R416, R417, R419: a sag opens a cluster's droop interval at its step, and each step
down lowers it; the cap's control loop and a temperature of 95 degrees of a compute or base die stretch every cluster,
as long as that die is so hot; 105 degrees of one, and power
loss, leave the package off, with nothing on it, the trip's entry in the mirror; a package reset starts the next epoch
with no function ready, HBM
cleared and memory outside the package as it was; the scrub corrects and logs up to 16 symbols of an HBM line and one
bit of an SRAM word, an uncorrectable error stands, marks its HBM line, and one of a die's SRAM
quiesces the die, and an error that arises behind the scrub stands until it is met; a migration is logged, takes the
saved blocks of its interface along, which arrive saved at the destination with MIG in their groups, and on
the receiving side no die's time is before the stop time and its groups carry MIG. Points that the rules leave open
here are the model's own: log entries 53 and 56. -/
def Obligations.PowerAndReset : Prop :=
  ∀ (s : State) (clu : Fin 64) (k : Fin 16) (loc : BitVec 16) (temp cause : BitVec 8) (e : EccErr) (vi : Nat)
    (stop : BitVec 64),
    let x := s.power.droop.get {} clu.val
    let cap := s.power.capS
    let now := s.times.get 0 79
    let droops := fun (i : Instr) (y : Stretch) => ∃ t, exec i s = .next t ∧
      t = { s with power := { s.power with droop := t.power.droop } } ∧ t.power.droop.get {} clu.val = y ∧
      ∀ j, j ≠ clu.val → t.power.droop.get {} j = s.power.droop.get {} j
    let gone := fun (t : State) => t.groups = [] ∧ t.blocks = [] ∧ t.ctxs = [] ∧ t.coh = [] ∧ t.queues = [] ∧
      t.keys = [] ∧ t.rdymap = 0 ∧ (∀ a < 2 ^ 40, t.memByte a = 0) ∧ ∀ a, 2 ^ 40 ≤ a → t.memByte a = s.memByte a
    (k = 0 → exec (.droopSag clu k) s = .next s) ∧
    (k ≠ 0 → x = {} → droops (.droopSag clu k) { k := k.val, deep := k.val, start := now, stop := none }) ∧
    (k ≠ 0 → x.stop = none → 0 < x.k →
      droops (.droopSag clu k) { x with k := max x.k k.val, deep := max x.deep k.val }) ∧
    (1 < x.k → droops (.droopStepDown clu) { x with k := x.k - 1, stop := none }) ∧
    (x.k = 1 → droops (.droopStepDown clu) { x with k := 0, stop := some now }) ∧
    (x.k = 0 → x.stop = none → exec (.droopStepDown clu) s = .next s) ∧
    (k = 0 → cap.k = 0 → exec (.powerCapLoop k) s = .next s) ∧
    (k = 0 → cap.k ≠ 0 → exec (.powerCapLoop k) s = .next (({ s with power := { s.power with capS := {} } } : State).logAt
      cap.start 0x11 (locOf 0 0) (BitVec.ofNat 64
        ((now - cap.start).toNat % 2 ^ 32 + cap.deep * 2 ^ 32 + s.power.cap % 4096 * 2 ^ 36)))) ∧
    (k ≠ 0 → exec (.powerCapLoop k) s = .next { s with power := { s.power with
      capS := { k := k.val, deep := max cap.deep k.val, start := if cap.k = 0 then now else cap.start } } }) ∧
    let dies := locIs loc [1, 2, 3, 4]
    let hot := 95 ≤ temp.toNat ∧ locIs loc [2, 3]
    let reported := fun (t : State) (k : Nat) =>
      t = { s with power := { s.power with therm := t.power.therm, temps := t.power.temps } } ∧
      t.power.temps.get 0 loc.toNat = temp.toNat ∧ t.power.therm.get 0 loc.toNat = k ∧
      ∀ j, j ≠ loc.toNat → t.power.temps.get 0 j = s.power.temps.get 0 j ∧ t.power.therm.get 0 j = s.power.therm.get 0 j
    (dies = false → exec (.thermalThrottle loc temp k) s = .next s) ∧
    (dies → ¬hot → ∃ t, exec (.thermalThrottle loc temp k) s = .next t ∧ reported t 0) ∧
    (hot → ∃ t : State, exec (.thermalThrottle loc temp k) s = .next (t.logNow 0x12 loc (BitVec.ofNat 64 temp.toNat)) ∧
      reported t k.val) ∧
    (temp.toNat < 105 ∨ locIs loc [2, 3] = false → exec (.thermalTrip loc temp) s = .next s) ∧
    (105 ≤ temp.toNat → locIs loc [2, 3] →
      (s.log.mirror = none → ∃ t, exec (.thermalTrip loc temp) s = .next t ∧ t.off ∧ gone t ∧
        t.log = { boot := s.log.boot, trip := true }) ∧
      ∀ a lg, s.log.mirror = some (a, lg) → 2 ^ 44 ≤ a → a + 4096 + 32 * 2 ^ lg ≤ 2 ^ 45 → s.log.dropped = 0 →
        s.log.ents.length < 65536 → ∃ t e, exec (.thermalTrip loc temp) s = .next t ∧ t.off ∧ t.log.trip ∧
          (e.seq, e.typ, e.loc, e.data) = (s.log.seq + 1, 0x12, loc, BitVec.ofNat 64 (temp.toNat + 2 ^ 8)) ∧
          ∀ j < 32, t.memByte (a + 4096 + 32 * (e.seq % 2 ^ lg) + j) = (LogEntry.bytes e).getD j 0) ∧
    (∃ t, exec .powerLoss s = .next t ∧ t.off ∧ gone t ∧ t.log = { boot := s.log.boot }) ∧
    (∃ t, exec (.packageReset cause) s = .next t ∧ t.off = false ∧ gone t ∧ t.log.boot = s.log.boot + 1 ∧
      t.log.seq = 2 ∧ t.log.ents.map (fun e => (e.typ, e.data)) =
        [(0, s.log.boot + 1), (0x60, BitVec.ofNat 64 cause.toNat)]) ∧
    let stands := fun (t : State) => ∀ y, y ∈ t.latent ↔ y = (e.place, e.wrong) ∨ y ∈ s.latent ∧ y.1 ≠ e.place
    let spoils := fun (t : State) (line : Nat) => ∀ l, l ∈ t.bad ↔ l ∈ s.bad ∨ l = line
    let cleared := fun (u : State) => ({ u with latent := u.latent.filter fun y => y.1 ≠ e.place } : State)
    (e.wrong = 0 → exec (.patrolScrub e) s = .next s) ∧
    (∀ line, e.place = .hbm line → 2 ^ 32 ≤ line → exec (.patrolScrub e) s = .next s) ∧
    (∀ line, e.place = .hbm line → line < 2 ^ 32 → e.wrong ≠ 0 →
      let entry := fun (typ : BitVec 8) (top : Nat) => s.logNow typ (locOf 7 (hbmStack s.hbmFine (128 * line)))
        (BitVec.ofNat 64 (128 * line + top * 2 ^ 48))
      (e.later → e.wrong ≤ 16 → ∃ t, exec (.patrolScrub e) s = .next t ∧ t = { s with latent := t.latent } ∧ stands t) ∧
      (e.later → 16 < e.wrong → ∃ t, exec (.patrolScrub e) s = .next t ∧ t = { s with bad := t.bad } ∧ spoils t line) ∧
      (e.later = false → e.wrong ≤ 16 → exec (.patrolScrub e) s = .next (cleared (entry 2 e.wrong))) ∧
      (e.later = false → 16 < e.wrong → ∃ t, exec (.patrolScrub e) s = .next t ∧
        t = { entry 4 0x1FF with bad := t.bad } ∧ spoils t line)) ∧
    (∀ part unit word, e.place = .sram part unit word → e.wrong ≠ 0 →
      let loc := s.eccLoc e.place
      let entry := fun (typ : BitVec 8) (top : Nat) => s.logNow typ loc
        (BitVec.ofNat 64 (part.val + word % 2 ^ 40 * 2 ^ 8 + top * 2 ^ 48))
      (e.later → ∃ t, exec (.patrolScrub e) s = .next t ∧ t = { s with latent := t.latent } ∧ stands t) ∧
      (e.later = false → e.wrong = 1 → exec (.patrolScrub e) s = .next (cleared (entry 1 0))) ∧
      (e.later = false → 1 < e.wrong → ∃ t : State, t = { entry 3 0x1FF with latent := t.latent } ∧ stands t ∧
        exec (.patrolScrub e) s = .next (match dieAt loc with
          | some d => t.quiesce d
          | none => t))) ∧
    (∃ t : State, exec (.liveMigration vi false stop) s = .next (t.logNow 0x50 (locOf 0 0)
        (BitVec.ofNat 64 (vi % 256 * 2 ^ 8 + stop.toNat % 2 ^ 48 * 2 ^ 16))) ∧
      t = { s with moved := t.moved } ∧
      (∀ m, m ∈ t.moved → m.vi = vi ∨ m ∈ s.moved) ∧ (∀ m ∈ s.moved, m.vi ≠ vi → m ∈ t.moved) ∧
      ∀ c ∈ s.blocks, c.2.live → c.2.saved → c.2.vi = vi → ∃ m ∈ t.moved, m.vi = vi ∧ m.bid = c.1 ∧ m.block = c.2 ∧
        m.cohort = s.cohorts.get Cohort.empty c.2.coh ∧ ∀ g, g ∈ m.groups ↔ g ∈ s.savedG ∧ g.1 / 16 = c.1) ∧
    ∃ t : State, exec (.liveMigration vi true stop) s = .next (t.logNow 0x50 (locOf 0 0)
        (BitVec.ofNat 64 (1 + vi % 256 * 2 ^ 8 + stop.toNat % 2 ^ 48 * 2 ^ 16))) ∧
      t = { s with groups := t.groups, savedG := t.savedG, times := t.times, blocks := t.blocks, cohorts := t.cohorts
                   moved := t.moved } ∧
      (∀ d ∈ timeKeys, t.times.get 0 d = if s.times.get 0 d < stop then stop else s.times.get 0 d) ∧
      (∀ m, m ∈ t.moved ↔ m ∈ s.moved ∧ m.vi ≠ vi) ∧
      (∀ m j g, s.moved = [m] → m.vi = vi → (s.block m.bid).live = false → m.groups = [(j, g)] →
        t.block m.bid = m.block ∧ t.cohorts.get Cohort.empty m.block.coh = m.cohort ∧
        t.savedG.get Group.empty j = { g with mig := true } ∧ ∀ i, i ≠ m.bid → t.block i = s.block i) ∧
      ∀ g, (s.group g).live → (t.group g).mig =
        ((s.group g).mig || (s.block (s.group g).bid).live && (s.block (s.group g).bid).vi == vi)

/-- R7, R8, R83, R322 to R327, R345, R361, R382, R388, R391: a register write changes the register's writable fields,
and no other: bits written with 1 clear vistat's, a disabled queue's base, context and size are written and an active
queue's stand, a context's fields are the driver's while it is free, windows that are enabled keep their registers, and
read-only registers, and a virtual interface's accesses to another's partition, change nothing, and read 0; the physical
interface's partition registers set a partition or an ASID range (log entry 19). A read gives the fields,
and 0 for write-only ones, reserved ones and unlisted offsets. Points that the rules leave open here are the model's
own: log entries 19, 20, 51 and 57. -/
def Obligations.RegisterWrites : Prop :=
  ∀ (s : State) (vi q n st d c off asid : Nat) (v : BitVec 64), vi < 256 → q < 32 → n < 256 →
    let wr := fun (r : HostReg) => exec (.registerWrite r v) s
    let x := s.iface vi
    let y := s.queue vi q
    let z := s.ctx vi n
    let w := s.win.get Window.reset (16 * st + q)
    let iface := fun (r : HostReg) (x' : Iface) => wr r = .next (s.setIface vi x')
    let queue := fun (r : HostReg) (y' : Queue) => wr r = .next (s.setQueue vi q y')
    let window := fun (r : HostReg) (w' : Window) => wr r = .next { s with win := s.win.set Window.reset (16 * st + q) w' }
    let k := s.keyr
    iface (.vistat vi) { x with ufl := x.ufl && !v.getLsbD 0, rfl := x.rfl && !v.getLsbD 1, dfl := x.dfl && !v.getLsbD 2 } ∧
    iface (.rbase vi) { x with rbase := v } ∧ iface (.rcfg vi) { x with rcfg := v &&& 0x1FF3FFF } ∧
    (v = 1 → wr (.rcmd vi) = exec (.ringCreate vi) s) ∧
    (∀ m < 4096, (v.toNat = 2 + m * 2 ^ 16 → wr (.rcmd vi) = exec (.ringDestroy vi m) s) ∧
      (v.toNat = 3 + m * 2 ^ 16 → wr (.rcmd vi) = exec (.ringRestart vi m) s)) ∧
    (v ≠ 1 → v.toNat % 2 ^ 16 ≠ 2 ∧ v.toNat % 2 ^ 16 ≠ 3 ∨ 2 ^ 28 ≤ v.toNat → iface (.rcmd vi) { x with rerr := true }) ∧
    wr (.qwr vi q) = exec (.queueDoorbell vi q (v.truncate 32)) s ∧ wr (.qdec vi q) = exec (.qdecWrite vi q v) s ∧
    (y.st = .disabled → queue (.qbase vi q) { y with base := v &&& ~~~ 0xFFF } ∧
      queue (.qctx vi q) { y with asid := v.toNat % 512, ctxn := v.toNat / 2 ^ 16 % 2 ^ 16 } ∧
      queue (.qres vi q) { y with res := v.toNat % 128 } ∧
      (v.toNat % 4 ≠ 1 → queue (.qctl vi q)
        { y with vec := BitVec.ofNat 5 (v.toNat / 2 ^ 16), lsize := min 12 (v.toNat / 2 ^ 12 % 16), cls := v.getLsbD 8 })) ∧
    (y.st ≠ .disabled → (∀ r ∈ [HostReg.qbase vi q, .qctx vi q, .qres vi q], wr r = .next s) ∧
      (v.toNat % 4 ≠ 2 → queue (.qctl vi q) { y with vec := BitVec.ofNat 5 (v.toNat / 2 ^ 16) })) ∧
    queue (.qdl vi q) { y with dl := max 1 (v.toNat % 2 ^ 16) } ∧
    (z.cstate = .free → wr (.ctxWord vi n 2) = .next (s.setCtx vi n { z with ptroot := v &&& ~~~ 0xFFF }) ∧
      wr (.ctxWord vi n 3) = .next (s.setCtx vi n { z with saveb := v }) ∧
      wr (.ctxWord vi n 4) = .next (s.setCtx vi n { z with savemap := v }) ∧
      wr (.ctxWord vi n 6) = .next (s.setCtx vi n { z with feat0 := v }) ∧
      wr (.ctxWord vi n 7) = .next (s.setCtx vi n { z with feat1 := v }) ∧
      wr (.ctxWord vi n 12) = .next (s.setCtx vi n { z with fltring := v })) ∧
    (z.cstate ≠ .free → (∀ k ∈ [2, 3, 4, 5, 6, 7, 12], wr (.ctxWord vi n k) = .next (s.setCtx vi n z)) ∧
      (v.toNat / 2 ^ 32 % 16 = 0 → wr (.ctxWord vi n 0) = .next (s.setCtx vi n
        { z with debug := v.getLsbD 16, hold := v.getLsbD 17, vec := BitVec.ofNat 5 (v.toNat / 2 ^ 18) }))) ∧
    (st < 4 → q < 16 → w.en → ∀ r ∈ [HostReg.twap st q, .twsize st q, .twelem st q, .twscale st q], wr r = .next s) ∧
    (st < 4 → q < 16 → w.en = false → w.busy = false →
      window (.twap st q) { w with ap := v.toNat % 2 ^ 48 / 2 ^ 12 * 2 ^ 12 } ∧
      window (.twsize st q) { w with size := v.toNat % 2 ^ 48 } ∧
      window (.twelem st q) { w with elem := v.toNat % 2 ^ 48 / 2 ^ 7 * 2 ^ 7 } ∧
      window (.twscale st q) { w with scale := v.toNat % 2 ^ 48 / 2 ^ 7 * 2 ^ 7 } ∧
      (v.getLsbD 0 = false → window (.twctl st q) { w with blen := v.getLsbD 2, fmt := v.getLsbD 1 })) ∧
    (st < 4 → q < 16 → w.en → (v.getLsbD 0 → wr (.twctl st q) = .next s) ∧
      (v.getLsbD 0 = false → window (.twctl st q) { w with en := false, busy := true })) ∧
    (v.toNat / 2 ^ 16 % 4 = 0 → wr .keyctl = .next { s with keyr := { k with asid := BitVec.ofNat 9 v.toNat } }) ∧
    wr .keybase = .next { s with keyr := { k with keybase := v } } ∧
    wr .keylen = .next { s with keyr := { k with keylen := v } } ∧
    (d < 8 → v.toNat % 4 = 0 → wr (.dqctl d) = .next (s.setDq d { s.dq d with dline := max 1 (v.toNat / 2 ^ 32 % 2 ^ 16) })) ∧
    (c < 512 → ∃ t, wr (.occupancy c) = .next t ∧ t = { s with occ := t.occ } ∧ ∀ j < 64,
      (t.occOf c).getLsbD j = if 57 ≤ j then v.getLsbD j else (s.occOf c).getLsbD j) ∧
    (s.groups = [] → (∀ j, (s.queue vi j).st = .disabled) → (∀ p ∈ s.ifaces, p.1 = vi) → ∃ t,
      wr (.partition 0 vi) = .next t ∧ t = { s with ifaces := t.ifaces } ∧ ∀ j, j ∈ (t.iface vi).clus ↔ j < 64 ∧ v.getLsbD j) ∧
    ((∃ j < 32, (s.queue vi j).st ≠ .disabled) → wr (.partition 0 vi) = .next s ∧ wr (.asidRange 0 vi) = .next s) ∧
    ((∀ j, (s.queue vi j).st = .disabled) → (∀ p ∈ s.ifaces, p.1 = vi) →
      (v.toNat % 2 ^ 16 + v.toNat / 2 ^ 16 % 2 ^ 16 ≤ 512 →
        iface (.asidRange 0 vi) { x with asidBase := v.toNat % 2 ^ 16, asidCount := v.toNat / 2 ^ 16 % 2 ^ 16 }) ∧
      (512 < v.toNat % 2 ^ 16 + v.toNat / 2 ^ 16 % 2 ^ 16 → wr (.asidRange 0 vi) = .next s)) ∧
    (s.groups = [] → canonical (v &&& ~~~ 0xFFF) → v.getLsbD 56 →
      iface (.fwRegion vi) { x with fwbase := v &&& ~~~ 0xFFF }) ∧
    (canonical (v &&& ~~~ 0xFFF) → v.getLsbD 56 → iface (.ctxTable vi) { x with ctxTab := v &&& ~~~ 0xFFF }) ∧
    wr .fwRoot = .next { s with fwRoot := v.toNat / 2 ^ 12 * 2 ^ 12 } ∧
    (∃ t, wr (.lpool asid) = .next t ∧ t = { s with pools := t.pools } ∧
      ∀ p, p ∈ t.pools ↔ if p = (asid, v &&& ~~~ 1) then v.getLsbD 0 = true else p ∈ s.pools) ∧
    (∀ r ∈ [HostReg.viinfo vi, .qrd vi q, .rdymap, .rdyfail, .hbmcfg, .other off], wr r = .next s) ∧
    (vi ≠ 0 → wr (.part vi off) = .next s) ∧
    (Config.partSet off v = none → wr (.part 0 off) = .next s) ∧
    (∀ i < 256, ∀ p, (Config.partSet off v = some (false, i, p) → wr (.part 0 off) = exec (.registerWrite (.partition 0 i) p) s) ∧
      (Config.partSet off v = some (true, i, p) → wr (.part 0 off) = exec (.registerWrite (.asidRange 0 i) p) s)) ∧
    (∀ b ≠ 0, wr (.partition b vi) = .next s ∧ wr (.asidRange b vi) = .next s ∧ s.hostRead (.partition b vi) = 0 ∧
      s.hostRead (.asidRange b vi) = 0) ∧
    let bit := Bool.toNat
    let reads := fun (r : HostReg) (fields : Nat) => s.hostRead r = BitVec.ofNat 64 fields
    reads (.asidRange 0 vi) (x.asidBase + x.asidCount * 2 ^ 16) ∧
    reads (.viinfo vi) (vi + 8 * x.clus.length * 2 ^ 16 + x.asidBase * 2 ^ 32 + x.asidCount * 2 ^ 41) ∧
    reads (.vistat vi) (bit x.ufl + bit x.rfl * 2 + bit x.dfl * 4) ∧
    reads (.rcmd vi) (x.rlast.toNat + bit x.rerr * 2 ^ 30 + bit x.rbusy * 2 ^ 31) ∧
    s.hostRead (.rbase vi) = x.rbase ∧ s.hostRead (.rcfg vi) = x.rcfg ∧
    reads (.qctl vi q) ((match y.st with | .disabled => 0 | .active => 1 | .error => 2 | .resetting => 3) * 2 ^ 4 +
      bit y.cls * 2 ^ 8 + y.lsize * 2 ^ 12 + y.vec.toNat * 2 ^ 16 + y.ecode.toNat * 2 ^ 24) ∧
    s.hostRead (.qbase vi q) = y.base ∧ reads (.qctx vi q) (y.asid + y.ctxn * 2 ^ 16) ∧ reads (.qwr vi q) y.wr.toNat ∧
    reads (.qrd vi q) y.rd.toNat ∧ reads (.qdl vi q) y.dl ∧ reads (.qdec vi q) 0 ∧ reads (.qres vi q) y.res ∧
    reads (.ctxWord vi n 0) (z.asid.toNat + (match z.cstate with
        | .free => 0 | .live => 1 | .stopping => 2 | .stopped => 3 | .ending => 4) * 2 ^ 9 + bit z.debug * 2 ^ 16 +
      bit z.hold * 2 ^ 17 + z.vec.toNat * 2 ^ 18 + bit z.busy * 2 ^ 36 + bit z.err * 2 ^ 37 + z.endc.toNat * 2 ^ 48) ∧
    reads (.ctxWord vi n 11) (z.fltrd.toNat + z.fltwr.toNat * 2 ^ 32) ∧ (∀ k > 12, reads (.ctxWord vi n k) 0) ∧
    reads (.twctl st q) (bit w.en + bit w.fmt * 2 + bit w.blen * 4 + bit w.err * 2 ^ 30 + bit w.busy * 2 ^ 31) ∧
    reads (.keyctl) (k.asid.toNat + bit (s.keys.get Key.none k.asid.toNat).valid * 2 ^ 9 + bit k.err * 2 ^ 62 +
      bit k.busy.isSome * 2 ^ 63) ∧
    reads (.dqctl d) ((match (s.dq d).st with
        | .service => 0 | .quiescing => 1 | .rebuilding => 2 | .fenced => 3 | .returning => 4) * 2 ^ 4 +
      (s.dq d).dline * 2 ^ 32 + bit (s.dq d).forced * 2 ^ 62 + bit (s.dq d).busy * 2 ^ 63) ∧
    s.hostRead .rdymap = s.rdymap ∧ s.hostRead .rdyfail = s.rdyfail ∧ reads .hbmcfg (bit s.hbmFine) ∧
    (vi ≠ 0 → reads (.part vi off) 0) ∧ reads (.other off) 0 ∧
    windowReg vi (0x1000 + 0x40 * q + 0x28) = .qdl vi q ∧ windowReg vi 0x58 = .other 0x58 ∧
    tableReg vi (256 * n + 8) = .ctxWord vi n 1 ∧ (d < 8 → manageReg 0 (0x40 + 8 * d) = .dqctl d) ∧
    (vi ≠ 0 → manageReg vi off = .other off)

/-! ### Encodings, the step, reset, the invariant -/

/-- R134 to R146: decoding is the inverse of encoding. Every well-formed instruction that has a word, encoded in a
packet with room for its literals, decodes to itself and to its number of words, whatever follows it. -/
def Obligations.DecodeEncode : Prop :=
  ∀ (i : Instr) (rest : List Word32) (slot : Nat), i.wf → encode i ≠ [] → slot + (encode i).length ≤ 3 →
    let ws := encode i ++ rest
    decode false slot (ws.getD 0 0) ⟨ws.getD 1 0, ws.getD 2 0⟩ = .ok ⟨i, (encode i).length⟩

/-- The words that the spec's own examples give decode to the instructions that they stand for (R152, R179, R196, R197,
R213, R221, R222, R231, R232, R234, R236, R252, R253, R259, R264, R265, R271, R274, R280, R285, and the reduction
example); BALLOT's word is worked out from R134 and R204. Points that the rules leave open here are the model's own: log
entry 37. -/
def Obligations.SpecWords : Prop :=
  let is := fun (w l : Nat) (i : Instr) (n : Nat) =>
    decode false 0 (BitVec.ofNat 32 w) ⟨BitVec.ofNat 32 l, 0⟩ = .ok ⟨i, n⟩
  let x : Acc := ⟨.core, .rlx⟩
  is 0xE0811091 0 (.ld .b32 4 (.sv 2 1) ⟨.clu, .rlx⟩) 1 ∧ is 0x082187FF 0 (.sadd 3 3 (.imm 0xFF)) 1 ∧ is 0 0 .nop 1 ∧
  is 0x2081427C 1000 (.vadd .s32 5 (.v 4) (.lit32 1000)) 2 ∧ is 0x0078FFFC 0 (.bnz (.s 3) ⟨0xFFF, 0⟩) 1 ∧
  is 0x33807C72 0 (.vcmp .le .s32 1 (.special 0) (.int 2)) 1 ∧
  is 0x00A04006 8 (.brd 1 ⟨1, 2⟩ ⟨0, false, ⟨2, 0⟩⟩) 2 ∧ is 0x00FB8002 0 (.call 14 ⟨0, 2⟩) 1 ∧
  is 0x01201C00 0 (.ret 14) 1 ∧ is 0x0EC20B11 0 (.vtos 4 5 17) 1 ∧ is 0x29C0B880 0 (.vmov .b32 2 (.int 1)) 1 ∧
  is 0x47220103 0 (.ffma .f32 .rz 8 (.v 2) (.v 3)) 1 ∧ is 0x56010309 0 (.cvtiF2i .s32 .f32 .rz 4 (.v 6)) 1 ∧
  is 0x56428488 0 (.dxenc false true false 10 (.v 9)) 1 ∧ is 0x5C200400 0 (.swpr .add .rne false 0 8) 1 ∧
  is 0x62A08183 0x40 (.stt .b64 (.v 2) (.slit 3 0x40) x) 2 ∧ is 0x64040D00 0 (.ldac 16 3 2 false x) 1 ∧
  is 0x68019091 0 (.aadd .s32 6 (.sv 2 1) ⟨.clu, .rlx⟩) 1 ∧ is 0x6E40C280 0 (.redMax64Fp .f32 (.v 3) (.s 5) x) 1 ∧
  is 0x70000038 0 (.fence .stk .rel) 1 ∧ is 0x70400103 0 (.bar 3) 1 ∧ is 0x70810C00 0x4004 (.waitc 2 6 .clu ⟨1, 0⟩) 2 ∧
  is 0x74000200 0x24200000 (.mma ⟨0, false, 4, 0, .bf16, .bf16, false, false, false, true, 0, .core, none⟩) 2 ∧
  is 0x74200300 0x1204000A
    (.mmac ⟨0, false, 6, 0, .dx8, .dx8, false, false, false, false, 16, .core, none⟩ ⟨false, 1, 1⟩) 2 ∧
  is 0x746A0904 0 (.mrd ⟨40, 1, 2, .rne, .bf16, false⟩) 1 ∧ is 0x7A014180 0 (.tcrd 5 3) 1 ∧
  is 0x78210322 0 (.pcpy .w8 false 2 3 .tile .glob 2) 1 ∧ is 0x78818505 0 (.pcpys 0 10 ⟨1, 1⟩) 1 ∧
  is 0x79000600 0 (.zrst 12) 1 ∧ is 0x7B200312 0 (.qrel .clu 2 6) 1 ∧ is 0x7C00CA50 0 (.temit .pkg 0 20 3) 1 ∧
  is 0x599A0100 0 (.ballot 8 2) 1

/-- R20, R131 to R133, R143, R372, R406, R410, R414 (log entries 6, 7, 10, 37, 53 and 65). In a package without power
faults, events pass without effect, but for those of `happensOff`; the head of the agenda is the event that happens;
with no event, hardware work that is due comes first, then the chosen fragment's word or chain, and with none the units
work in the background; then time passes. A fetch that meets a page fault or a function that is not ready parks the
fragment at the word, and a barred one traps. The words fetched are checked as R143 orders: a packet's literals and
chain bits, one word for each pipe and destination, the opcodes, the agents' instructions, the encodings; the trap names
the slot of the first word that fails. A word is executed, in a save handler after the copies of what it overwrites, at
the word after it or at the fragment's continuation. Of a chain of which words would stop, the deciding one takes its
trap and no other word takes effect; else all take effect, on the registers of before the chain, the word of the B pipe
last. Words of a party with vault writes that a die holds back, and words that meet an uncorrectable error, stop as R20
and R414 say. -/
def Obligations.StepRuns : Prop :=
  ∀ (s s1 s2 s3 : State) (e : Instr) (t : List Instr) (c : Cur) (cs : List Cur) (w : Word32) (ls : List Word32)
    (d : Decoded) (is : List Item) (o : Host.Outcome State Fault Refusal) (r : LRes) (p : PC) (line : Nat),
    let ends := fun (o : Host.Outcome State Fault Refusal) => step s = andThen o fun v => .next v.finish
    (s.off → s.agenda = [] → step s = .fault .powerOff) ∧
    (s.off → s.agenda = e :: t → happensOff e → ends (exec e { s with agenda := t })) ∧
    (s.off → s.agenda = e :: t → happensOff e = false → step s = .next { s with agenda := t }.finish) ∧
    (s.off = false → s.agenda = e :: t → ends (exec e { s with agenda := t })) ∧
    (s.off = false → s.agenda = [] → s.internal = some o → ends o) ∧
    (s.off = false → s.agenda = [] → s.internal = none → s.unitsFirst = some s1 → step s = .next s1.finish) ∧
    (s.off = false → s.agenda = [] → s.internal = none → s.unitsFirst = none → s.pick = none →
      step s = .next s.idle.finish) ∧
    (s.off = false → s.agenda = [] → s.internal = none → s.unitsFirst = none → s.pick = some (c, cs) →
      let u : State := s.issuing c cs
      let pc := u.e.pc
      let agent := u.g.isAgent
      -- what the word meets before it is fetched
      (∀ x, agent = false → u.sramMet.find? (fun x => !correctable x) = some x →
        step s = .next ((u.logEcc x u.blk.asid).endContext u.blk.vi u.blk.ctx u.core 0x41).finish) ∧
      (u.sramMet ≠ [] → (agent ∨ ∀ x ∈ u.sramMet, correctable x) → ends (issueWith exec { u with met := u.met ++ u.sramMet })) ∧
      (∀ q qs v, u.sramMet = [] → u.vaultWaits u.cur.gid = q :: qs → issueChain exec u = .next v →
        step s = .next (if v.g.live ∧ (v.vaultWaits u.cur.gid).length ≤ qs.length
          then (u.parkHere (Wait.join (q :: qs))).stop else v).finish) ∧
      (u.sramMet = [] → u.vaultWaits u.cur.gid = [] →
        let op := w.toNat / 2 ^ 21 % 2 ^ 10
        let k := litLen u.pool op (w.toNat % 2 ^ 31)
        let i : Item := ⟨pc, w, ⟨ls.getD 0 0, ls.getD 1 0⟩⟩
        let traps := fun (r : Trap) (slot : Nat) =>
          step s = .next (s2.takeTrap ⟨u.cur.gid, u.cur.ent, pc, slot⟩ r).stop.finish
        let clean := fun (is : List Item) => agent ∨ s2.badCode (itemPcs u.pool is) = none
        let unread := fun (p : PC) (r : LRes) =>
          (r = .page → step s = .next (u.takePage u.here none (u.codeVa p)).stop.finish) ∧
          (∀ n, r = .prot n → step s = .next (u.takeTrap u.here (tProt n none (some (u.codeVa p)))).stop.finish) ∧
          (∀ q, r = .wait q → step s = .next (u.parkHere q).stop.finish)
        let copies := fun (is : List Item) =>
          (∀ q, s2.cowCopy (is.flatMap Item.dests) = .wait q → step s = .next (u.parkHere q).stop.finish) ∧
          (s2.cowCopy (is.flatMap Item.dests) = .fault → step s = .next (u.saveFail u.g.bid 0x42).finish) ∧
          (∀ n, s2.cowCopy (is.flatMap Item.dests) = .bad n → step s = .next (u.blockBad u.g.bid n).finish)
        -- the fetch
        (u.codeWord pc = (s1, .error r) → unread pc r) ∧
        (u.codeWord pc = (s1, .ok w) → s1.codeWords (Nat.min k (2 - pcSlot pc)) (pcAdd pc 1) = (s2, .error (p, r)) →
          unread p r) ∧
        (State.fetchChain u.pool u.e.cont.isSome 3 pc u = (s2, .ok is) → agent = false →
          s2.badCode (itemPcs u.pool is) = some line → step s = .next (s2.uncorrectable line).stop.finish) ∧
        -- a word alone
        (u.codeWord pc = (s1, .ok w) → w.msb = false ∨ u.e.cont.isSome →
          s1.codeWords (Nat.min k (2 - pcSlot pc)) (pcAdd pc 1) = (s2, .ok ls) → clean [i] →
          (3 < pcSlot pc + 1 + k → traps tPacket (pcSlot pc)) ∧
          (pcSlot pc + 1 + k ≤ 3 →
            (assigned op = false → traps tInstruction (pcSlot pc)) ∧
            (op = 0x3DC → agent = false → traps (tProt 6 none none) (pcSlot pc)) ∧
            (assigned op → op ≠ 0x3DC ∨ agent →
              (decode u.pool (pcSlot pc) w i.l = .error .illegalEncoding → traps tEncoding (pcSlot pc)) ∧
              (decode u.pool (pcSlot pc) w i.l = .ok d →
                (agentReg d.instr → agent = false → traps tEncoding (pcSlot pc)) ∧
                (agentReg d.instr = false ∨ agent →
                  copies [i] ∧
                  (s2.cowCopy i.dests = .ok s3 →
                    step s = andThen
                      (exec d.instr { s3 with chain := u.aloneChain pc, next := u.e.cont.getD (pcAdd pc d.words) })
                      fun v => .next (v.settleAlone u.cur u.e).finish)))))) ∧
        -- a chain
        (u.e.cont = none → State.fetchChain u.pool false 3 pc u = (s2, .ok is) → clean is →
          (∀ i ∈ is, i.badPacket u.pool false is ↔ (3 < pcSlot i.pc + 1 + i.lits u.pool ∨
            chainBit i.w ∧ (pcSlot i.pc = 2 ∨ i.lits u.pool ≠ 0) ∨
            ∃ j ∈ is, i.pc ≠ j.pc ∧
              ((∃ y, pipeOf i.op = some y ∧ pipeOf j.op = some y) ∨ ∃ y ∈ i.dests, y ∈ j.dests))) ∧
          (∀ i, is.find? (Item.badPacket u.pool false is) = some i → traps tPacket (pcSlot i.pc)) ∧
          (is.find? (Item.badPacket u.pool false is) = none →
            (∀ i, is.find? (fun i => !assigned i.op) = some i → traps tInstruction (pcSlot i.pc)) ∧
            ((∀ i ∈ is, assigned i.op) →
              (∀ i, agent = false → is.find? (fun i => i.op == 0x3DC) = some i → traps (tProt 6 none none) (pcSlot i.pc)) ∧
              (agent ∨ (∀ i ∈ is, i.op ≠ 0x3DC) →
                (∀ i, is.find? (Item.badEncoding u.pool agent) = some i → traps tEncoding (pcSlot i.pc)) ∧
                (is.find? (Item.badEncoding u.pool agent) = none → copies is ∧
                  (∀ last n, 2 ≤ is.length → s2.cowCopy (is.flatMap Item.dests) = .ok s3 → is.getLast? = some last →
                    last.instr u.pool = .ok ⟨e, n⟩ →
                    let v : State := { s3 with chain := some ⟨pc, pcSlot pc, s3.g⟩, next := pcAdd last.pc n }
                    let os := is.map (runItem exec u.pool v)
                    (∀ x, os.find? (misfielded v) = some x → ends x) ∧
                    (∀ x, os.find? (misfielded v) = none → os.find? (stopped v) = some x → ends x) ∧
                    (os.find? (misfielded v) = none → os.find? (stopped v) = none → ends (runChain exec u.pool is v)) ∧
                    (∀ i j b, is = [i, j] → (b = i ∨ b = j) → waits i.op = false → waits j.op = false →
                      pipeOf b.op = some .b →
                      let a := if b = i then j else i
                      runChain exec u.pool is v = andThen (runItem exec u.pool v a) fun x =>
                        if x.running then runItem exec u.pool x b else .next x)))))))))

/-- R19, R74, R77, R83, R326, R345, R361, R387, R391, R417: after package reset no function is ready or failed; no
group, block, ring, key, vault owner or enabled window exists; every queue is disabled with a deadline of 100 us,
every context is free with a fault ring of 4; every core's occupancy word has OUT and all its resources; every die is
in service with a deadline of 500 us; the cap is 3,000 W, the log is empty, and memory is in canonical form. That a
byte which nothing has written reads as 0 is the model's choice (log entry 1). -/
def Obligations.ResetState : Prop :=
  let s := State.reset
  s.rdymap = 0 ∧ s.rdyfail = 0 ∧ s.off = false ∧ (∀ g, (s.group g).live = false) ∧ (∀ b, (s.block b).live = false) ∧
  (∀ r, (s.ring r).live = false) ∧ (∀ k, (s.keys.get Key.none k).valid = false) ∧
  (∀ v, (s.vown.get Vown.reset v).valid = false) ∧
  (∀ w, (s.win.get Window.reset w).en = false ∧ (s.win.get Window.reset w).busy = false) ∧
  (∀ vi q, (s.queue vi q).st = .disabled ∧ (s.queue vi q).dl = 100) ∧
  (∀ vi n, (s.ctx vi n).cstate = .free ∧ (s.ctx vi n).fltlog = 4) ∧ (∀ c, s.occOf c = 0x8000FFFF808003FF) ∧
  (∀ d, (s.dq d).st = .service ∧ (s.dq d).dline = 500) ∧ s.power.cap = 3000 ∧ s.log.seq = 0 ∧ s.log.ents = [] ∧
  (∀ a, s.memByte a = 0) ∧ s.memWf

/-- The model's own invariant of its memories, physical memory and the vaults: addresses strictly rising, and no entry
equal to what an unlisted address reads as (log entry 1). Every step keeps it. -/
def Obligations.StepKeepsMemWf : Prop :=
 ∀ (s t : State), s.memWf → step s = .next t → t.memWf
end

