-- ==== Sys2Proof/Laws/Store.lean ====
section
/-! SUPPORT. Sparse maps: a read after a write, and the canonical form that every operation keeps. -/

namespace Sys2Proof.Machine

variable {α : Type}

@[simp] theorem Store.get_nil (d : α) (k : Nat) : Store.get d [] k = d := rfl

@[simp] theorem Store.get_cons (d : α) (c : Nat × α) (t : Store α) (k : Nat) :
    Store.get d (c :: t) k = if c.1 = k then c.2 else Store.get d t k := rfl

@[simp] theorem Store.get_erase_self (d : α) (m : Store α) (k : Nat) : (m.erase k).get d k = d := by
  induction m with
  | nil => rfl
  | cons c t ih => by_cases h : c.1 = k <;> simp [Store.erase, h, ih]

theorem Store.get_erase_ne (d : α) (m : Store α) {j k : Nat} (h : j ≠ k) : (m.erase k).get d j = m.get d j := by
  induction m with
  | nil => rfl
  | cons c t ih =>
    by_cases hk : c.1 = k
    · simp [Store.erase, hk, ih, Ne.symm h]
    · simp [Store.erase, hk, ih]

theorem Store.get_insert_self (d : α) (m : Store α) (k : Nat) (v : α) (h : ∀ c ∈ m, c.1 ≠ k) :
    (m.insert k v).get d k = v := by
  induction m with
  | nil => simp [Store.insert]
  | cons c t ih =>
    by_cases hk : k < c.1
    · simp [Store.insert, hk]
    · have hc : c.1 ≠ k := h c (by simp)
      simpa [Store.insert, hk, hc] using ih fun x hx => h x (by simp [hx])

theorem Store.get_insert_ne (d : α) (m : Store α) {j k : Nat} (v : α) (h : j ≠ k) :
    (m.insert k v).get d j = m.get d j := by
  induction m with
  | nil => simp [Store.insert, Ne.symm h]
  | cons c t ih => by_cases hk : k < c.1 <;> simp [Store.insert, hk, ih, Ne.symm h]

theorem Store.key_of_mem_erase {m : Store α} {k : Nat} {c : Nat × α} (h : c ∈ m.erase k) : c.1 ≠ k ∧ c ∈ m := by
  induction m with
  | nil => simp [Store.erase] at h
  | cons x t ih =>
    by_cases hk : x.1 = k
    · rw [Store.erase, if_pos hk] at h
      exact ⟨(ih h).1, by simp [(ih h).2]⟩
    · rw [Store.erase, if_neg hk] at h
      rcases List.mem_cons.mp h with rfl | h'
      · exact ⟨hk, by simp⟩
      · exact ⟨(ih h').1, by simp [(ih h').2]⟩

/-- A read after a write of the same key. -/
@[simp] theorem Store.get_set_self [DecidableEq α] (d : α) (m : Store α) (k : Nat) (v : α) :
    (m.set d k v).get d k = v := by
  by_cases h : v = d
  · simp [Store.set, h]
  · rw [Store.set, if_neg h]
    exact Store.get_insert_self d _ k v fun _ hc => (Store.key_of_mem_erase hc).1

/-- A write leaves every other key alone. -/
@[simp] theorem Store.get_set_ne [DecidableEq α] (d : α) (m : Store α) {j k : Nat} (v : α) (h : j ≠ k) :
    (m.set d k v).get d j = m.get d j := by
  by_cases hv : v = d
  · simp [Store.set, hv, Store.get_erase_ne d m h]
  · rw [Store.set, if_neg hv, Store.get_insert_ne d _ v h, Store.get_erase_ne d m h]

theorem Store.get_set [DecidableEq α] (d : α) (m : Store α) (j k : Nat) (v : α) :
    (m.set d k v).get d j = if j = k then v else m.get d j := by
  by_cases h : j = k
  · subst h; simp
  · simp [h]

theorem Store.erase_erase (m : Store α) (k : Nat) : (m.erase k).erase k = m.erase k := by
  induction m with
  | nil => rfl
  | cons c t ih => by_cases h : c.1 = k <;> simp [Store.erase, h, ih]

theorem Store.erase_insert (m : Store α) (k : Nat) (v : α) : (m.insert k v).erase k = m.erase k := by
  induction m with
  | nil => simp [Store.insert, Store.erase]
  | cons c t ih =>
    by_cases hk : k < c.1
    · simp [Store.insert, hk, Store.erase]
    · by_cases h : c.1 = k <;> simp [Store.insert, hk, Store.erase, h, ih]

/-- The later of two writes of one key stands. -/
@[simp] theorem Store.set_set [DecidableEq α] (d : α) (m : Store α) (k : Nat) (v w : α) :
    (m.set d k v).set d k w = m.set d k w := by
  have h : (m.set d k v).erase k = m.erase k := by
    by_cases hv : v = d <;> simp [Store.set, hv, Store.erase_insert, Store.erase_erase]
  unfold Store.set at h ⊢
  rw [h]

/-! ### The canonical form -/

/-- Strictly rising keys, as a pairwise relation. -/
theorem Store.sorted_iff (m : Store α) : m.sorted = true ↔ m.Pairwise fun a b => a.1 < b.1 := by
  match m with
  | [] => simp [Store.sorted]
  | [_] => simp [Store.sorted]
  | a :: b :: t =>
    have ih := Store.sorted_iff (b :: t)
    simp only [Store.sorted, Bool.and_eq_true, decide_eq_true_eq, ih]
    constructor
    · rintro ⟨h, hs⟩
      refine List.pairwise_cons.mpr ⟨fun c hc => ?_, hs⟩
      rcases List.mem_cons.mp hc with rfl | hc
      · exact h
      · exact lt_trans h ((List.pairwise_cons.mp hs).1 c hc)
    · intro h
      exact ⟨(List.pairwise_cons.mp h).1 b (by simp), (List.pairwise_cons.mp h).2⟩

theorem Store.wf_iff [DecidableEq α] (d : α) (m : Store α) :
    m.wf d = true ↔ (m.Pairwise fun a b => a.1 < b.1) ∧ ∀ c ∈ m, c.2 ≠ d := by
  simp [Store.wf, Store.sorted_iff]

@[simp] theorem Store.wf_nil [DecidableEq α] (d : α) : Store.wf d [] = true := rfl

theorem Store.erase_sublist (m : Store α) (k : Nat) : (m.erase k).Sublist m := by
  induction m with
  | nil => simp [Store.erase]
  | cons c t ih =>
    by_cases h : c.1 = k
    · simpa [Store.erase, h] using ih.trans (List.sublist_cons_self c t)
    · simpa [Store.erase, h] using ih.cons_cons c

theorem Store.wf_of_sublist [DecidableEq α] {d : α} {m n : Store α} (h : n.Sublist m) (hm : m.wf d = true) :
    n.wf d = true := by
  rw [Store.wf_iff] at hm ⊢
  exact ⟨hm.1.sublist h, fun c hc => hm.2 c (h.subset hc)⟩

theorem Store.wf_erase [DecidableEq α] {d : α} {m : Store α} (k : Nat) (hm : m.wf d = true) : (m.erase k).wf d = true :=
  Store.wf_of_sublist (m.erase_sublist k) hm

theorem Store.wf_filter [DecidableEq α] {d : α} {m : Store α} (f : Nat × α → Bool) (hm : m.wf d = true) :
    Store.wf d (List.filter f m) = true :=
  Store.wf_of_sublist List.filter_sublist hm

theorem Store.mem_insert {m : Store α} {k : Nat} {v : α} {c : Nat × α} (h : c ∈ m.insert k v) : c = (k, v) ∨ c ∈ m := by
  induction m with
  | nil => simpa [Store.insert] using h
  | cons x t ih =>
    by_cases hk : k < x.1
    · simpa [Store.insert, hk] using h
    · simp only [Store.insert, hk, if_false, List.mem_cons] at h ⊢
      rcases h with rfl | h
      · simp
      · rcases ih h with h | h <;> simp [h]

theorem Store.pairwise_insert {m : Store α} {k : Nat} {v : α} (hs : m.Pairwise fun a b => a.1 < b.1)
    (hk : ∀ c ∈ m, c.1 ≠ k) : (m.insert k v).Pairwise fun a b => a.1 < b.1 := by
  induction m with
  | nil => simp [Store.insert]
  | cons x t ih =>
    have hx := List.pairwise_cons.mp hs
    by_cases h : k < x.1
    · simp only [Store.insert, h, if_true]
      refine List.pairwise_cons.mpr ⟨fun c hc => ?_, hs⟩
      rcases List.mem_cons.mp hc with rfl | hc
      · exact h
      · exact lt_trans h (hx.1 c hc)
    · simp only [Store.insert, h, if_false]
      refine List.pairwise_cons.mpr ⟨fun c hc => ?_, ih hx.2 fun c hc => hk c (by simp [hc])⟩
      rcases Store.mem_insert hc with rfl | hc
      · have := hk x (by simp)
        omega
      · exact hx.1 c hc

theorem Store.wf_set [DecidableEq α] {d : α} {m : Store α} (k : Nat) (v : α) (hm : m.wf d = true) :
    (m.set d k v).wf d = true := by
  by_cases h : v = d
  · simpa [Store.set, h] using Store.wf_erase k hm
  · rw [Store.set, if_neg h, Store.wf_iff]
    have he := (Store.wf_iff d _).mp (Store.wf_erase k hm)
    refine ⟨Store.pairwise_insert he.1 fun c hc => (Store.key_of_mem_erase hc).1, fun c hc => ?_⟩
    rcases Store.mem_insert hc with rfl | hc
    · exact h
    · exact he.2 c hc

theorem Store.wf_upd [DecidableEq α] {d : α} {m : Store α} (k : Nat) (f : α → α) (hm : m.wf d = true) :
    (m.upd d k f).wf d = true := Store.wf_set k _ hm

end Sys2Proof.Machine
end

