-- ==== Sys2Proof/Laws/State.lean ====
section
/-! SUPPORT. The updates of the state: one lemma per field that an update leaves alone, and what the accessors read
after one. -/

namespace Sys2Proof.Machine

section
variable (s : State) (g : Group)

@[simp] theorem State.blocks_setG : (s.setG g).blocks = s.blocks := rfl
@[simp] theorem State.cohorts_setG : (s.setG g).cohorts = s.cohorts := rfl
@[simp] theorem State.mem_setG : (s.setG g).mem = s.mem := rfl
@[simp] theorem State.coh_setG : (s.setG g).coh = s.coh := rfl
@[simp] theorem State.l1_setG : (s.setG g).l1 = s.l1 := rfl
@[simp] theorem State.consts_setG : (s.setG g).consts = s.consts := rfl
@[simp] theorem State.wtq_setG : (s.setG g).wtq = s.wtq := rfl
@[simp] theorem State.net_setG : (s.setG g).net = s.net := rfl
@[simp] theorem State.vault_setG : (s.setG g).vault = s.vault := rfl
@[simp] theorem State.vown_setG : (s.setG g).vown = s.vown := rfl
@[simp] theorem State.vq_setG : (s.setG g).vq = s.vq := rfl
@[simp] theorem State.pred_setG : (s.setG g).pred = s.pred := rfl
@[simp] theorem State.win_setG : (s.setG g).win = s.win := rfl
@[simp] theorem State.tlb_setG : (s.setG g).tlb = s.tlb := rfl
@[simp] theorem State.flash_setG : (s.setG g).flash = s.flash := rfl
@[simp] theorem State.keys_setG : (s.setG g).keys = s.keys := rfl
@[simp] theorem State.rings_setG : (s.setG g).rings = s.rings := rfl
@[simp] theorem State.ctxs_setG : (s.setG g).ctxs = s.ctxs := rfl
@[simp] theorem State.savedG_setG : (s.setG g).savedG = s.savedG := rfl
@[simp] theorem State.msix_setG : (s.setG g).msix = s.msix := rfl
@[simp] theorem State.occ_setG : (s.setG g).occ = s.occ := rfl
@[simp] theorem State.hbmFine_setG : (s.setG g).hbmFine = s.hbmFine := rfl
@[simp] theorem State.hbmSet_setG : (s.setG g).hbmSet = s.hbmSet := rfl
@[simp] theorem State.released_setG : (s.setG g).released = s.released := rfl
@[simp] theorem State.lastAth_setG : (s.setG g).lastAth = s.lastAth := rfl
@[simp] theorem State.fwRoot_setG : (s.setG g).fwRoot = s.fwRoot := rfl
@[simp] theorem State.fwCode_setG : (s.setG g).fwCode = s.fwCode := rfl
@[simp] theorem State.queues_setG : (s.setG g).queues = s.queues := rfl
@[simp] theorem State.pkts_setG : (s.setG g).pkts = s.pkts := rfl
@[simp] theorem State.pktNext_setG : (s.setG g).pktNext = s.pktNext := rfl
@[simp] theorem State.rlists_setG : (s.setG g).rlists = s.rlists := rfl
@[simp] theorem State.lrecs_setG : (s.setG g).lrecs = s.lrecs := rfl
@[simp] theorem State.mail_setG : (s.setG g).mail = s.mail := rfl
@[simp] theorem State.batches_setG : (s.setG g).batches = s.batches := rfl
@[simp] theorem State.starts_setG : (s.setG g).starts = s.starts := rfl
@[simp] theorem State.ifaces_setG : (s.setG g).ifaces = s.ifaces := rfl
@[simp] theorem State.decs_setG : (s.setG g).decs = s.decs := rfl
@[simp] theorem State.frees_setG : (s.setG g).frees = s.frees := rfl
@[simp] theorem State.ends_setG : (s.setG g).ends = s.ends := rfl
@[simp] theorem State.inHand_setG : (s.setG g).inHand = s.inHand := rfl
@[simp] theorem State.pools_setG : (s.setG g).pools = s.pools := rfl
@[simp] theorem State.invs_setG : (s.setG g).invs = s.invs := rfl
@[simp] theorem State.dqs_setG : (s.setG g).dqs = s.dqs := rfl
@[simp] theorem State.lost_setG : (s.setG g).lost = s.lost := rfl
@[simp] theorem State.keyr_setG : (s.setG g).keyr = s.keyr := rfl
@[simp] theorem State.spdm_setG : (s.setG g).spdm = s.spdm := rfl
@[simp] theorem State.doe_setG : (s.setG g).doe = s.doe := rfl
@[simp] theorem State.log_setG : (s.setG g).log = s.log := rfl
@[simp] theorem State.power_setG : (s.setG g).power = s.power := rfl
@[simp] theorem State.bad_setG : (s.setG g).bad = s.bad := rfl
@[simp] theorem State.latent_setG : (s.setG g).latent = s.latent := rfl
@[simp] theorem State.met_setG : (s.setG g).met = s.met := rfl
@[simp] theorem State.moved_setG : (s.setG g).moved = s.moved := rfl
@[simp] theorem State.wnodes_setG : (s.setG g).wnodes = s.wnodes := rfl
@[simp] theorem State.off_setG : (s.setG g).off = s.off := rfl
@[simp] theorem State.rdymap_setG : (s.setG g).rdymap = s.rdymap := rfl
@[simp] theorem State.rdyfail_setG : (s.setG g).rdyfail = s.rdyfail := rfl
@[simp] theorem State.times_setG : (s.setG g).times = s.times := rfl
@[simp] theorem State.cur_setG : (s.setG g).cur = s.cur := rfl
@[simp] theorem State.next_setG : (s.setG g).next = s.next := rfl
@[simp] theorem State.chain_setG : (s.setG g).chain = s.chain := rfl
@[simp] theorem State.agenda_setG : (s.setG g).agenda = s.agenda := rfl
@[simp] theorem State.sched_setG : (s.setG g).sched = s.sched := rfl
@[simp] theorem State.cool_setG : (s.setG g).cool = s.cool := rfl
@[simp] theorem State.decA_setG : (s.setG g).decA = s.decA := rfl
@[simp] theorem State.cuts_setG : (s.setG g).cuts = s.cuts := rfl
@[simp] theorem State.clock_setG : (s.setG g).clock = s.clock := rfl
@[simp] theorem State.free_setG : (s.setG g).free = s.free := rfl
@[simp] theorem State.stops_setG : (s.setG g).stops = s.stops := rfl
@[simp] theorem State.fails_setG : (s.setG g).fails = s.fails := rfl

end

section
variable (s : State) (e : Entry)

@[simp] theorem State.blocks_setE : (s.setE e).blocks = s.blocks := rfl
@[simp] theorem State.cohorts_setE : (s.setE e).cohorts = s.cohorts := rfl
@[simp] theorem State.mem_setE : (s.setE e).mem = s.mem := rfl
@[simp] theorem State.coh_setE : (s.setE e).coh = s.coh := rfl
@[simp] theorem State.l1_setE : (s.setE e).l1 = s.l1 := rfl
@[simp] theorem State.consts_setE : (s.setE e).consts = s.consts := rfl
@[simp] theorem State.wtq_setE : (s.setE e).wtq = s.wtq := rfl
@[simp] theorem State.net_setE : (s.setE e).net = s.net := rfl
@[simp] theorem State.vault_setE : (s.setE e).vault = s.vault := rfl
@[simp] theorem State.vown_setE : (s.setE e).vown = s.vown := rfl
@[simp] theorem State.vq_setE : (s.setE e).vq = s.vq := rfl
@[simp] theorem State.pred_setE : (s.setE e).pred = s.pred := rfl
@[simp] theorem State.win_setE : (s.setE e).win = s.win := rfl
@[simp] theorem State.tlb_setE : (s.setE e).tlb = s.tlb := rfl
@[simp] theorem State.flash_setE : (s.setE e).flash = s.flash := rfl
@[simp] theorem State.keys_setE : (s.setE e).keys = s.keys := rfl
@[simp] theorem State.rings_setE : (s.setE e).rings = s.rings := rfl
@[simp] theorem State.ctxs_setE : (s.setE e).ctxs = s.ctxs := rfl
@[simp] theorem State.savedG_setE : (s.setE e).savedG = s.savedG := rfl
@[simp] theorem State.msix_setE : (s.setE e).msix = s.msix := rfl
@[simp] theorem State.occ_setE : (s.setE e).occ = s.occ := rfl
@[simp] theorem State.hbmFine_setE : (s.setE e).hbmFine = s.hbmFine := rfl
@[simp] theorem State.hbmSet_setE : (s.setE e).hbmSet = s.hbmSet := rfl
@[simp] theorem State.released_setE : (s.setE e).released = s.released := rfl
@[simp] theorem State.lastAth_setE : (s.setE e).lastAth = s.lastAth := rfl
@[simp] theorem State.fwRoot_setE : (s.setE e).fwRoot = s.fwRoot := rfl
@[simp] theorem State.fwCode_setE : (s.setE e).fwCode = s.fwCode := rfl
@[simp] theorem State.queues_setE : (s.setE e).queues = s.queues := rfl
@[simp] theorem State.pkts_setE : (s.setE e).pkts = s.pkts := rfl
@[simp] theorem State.pktNext_setE : (s.setE e).pktNext = s.pktNext := rfl
@[simp] theorem State.rlists_setE : (s.setE e).rlists = s.rlists := rfl
@[simp] theorem State.lrecs_setE : (s.setE e).lrecs = s.lrecs := rfl
@[simp] theorem State.mail_setE : (s.setE e).mail = s.mail := rfl
@[simp] theorem State.batches_setE : (s.setE e).batches = s.batches := rfl
@[simp] theorem State.starts_setE : (s.setE e).starts = s.starts := rfl
@[simp] theorem State.ifaces_setE : (s.setE e).ifaces = s.ifaces := rfl
@[simp] theorem State.decs_setE : (s.setE e).decs = s.decs := rfl
@[simp] theorem State.frees_setE : (s.setE e).frees = s.frees := rfl
@[simp] theorem State.ends_setE : (s.setE e).ends = s.ends := rfl
@[simp] theorem State.inHand_setE : (s.setE e).inHand = s.inHand := rfl
@[simp] theorem State.pools_setE : (s.setE e).pools = s.pools := rfl
@[simp] theorem State.invs_setE : (s.setE e).invs = s.invs := rfl
@[simp] theorem State.dqs_setE : (s.setE e).dqs = s.dqs := rfl
@[simp] theorem State.lost_setE : (s.setE e).lost = s.lost := rfl
@[simp] theorem State.keyr_setE : (s.setE e).keyr = s.keyr := rfl
@[simp] theorem State.spdm_setE : (s.setE e).spdm = s.spdm := rfl
@[simp] theorem State.doe_setE : (s.setE e).doe = s.doe := rfl
@[simp] theorem State.log_setE : (s.setE e).log = s.log := rfl
@[simp] theorem State.power_setE : (s.setE e).power = s.power := rfl
@[simp] theorem State.bad_setE : (s.setE e).bad = s.bad := rfl
@[simp] theorem State.latent_setE : (s.setE e).latent = s.latent := rfl
@[simp] theorem State.met_setE : (s.setE e).met = s.met := rfl
@[simp] theorem State.moved_setE : (s.setE e).moved = s.moved := rfl
@[simp] theorem State.wnodes_setE : (s.setE e).wnodes = s.wnodes := rfl
@[simp] theorem State.off_setE : (s.setE e).off = s.off := rfl
@[simp] theorem State.rdymap_setE : (s.setE e).rdymap = s.rdymap := rfl
@[simp] theorem State.rdyfail_setE : (s.setE e).rdyfail = s.rdyfail := rfl
@[simp] theorem State.times_setE : (s.setE e).times = s.times := rfl
@[simp] theorem State.cur_setE : (s.setE e).cur = s.cur := rfl
@[simp] theorem State.next_setE : (s.setE e).next = s.next := rfl
@[simp] theorem State.chain_setE : (s.setE e).chain = s.chain := rfl
@[simp] theorem State.agenda_setE : (s.setE e).agenda = s.agenda := rfl
@[simp] theorem State.sched_setE : (s.setE e).sched = s.sched := rfl
@[simp] theorem State.cool_setE : (s.setE e).cool = s.cool := rfl
@[simp] theorem State.decA_setE : (s.setE e).decA = s.decA := rfl
@[simp] theorem State.cuts_setE : (s.setE e).cuts = s.cuts := rfl
@[simp] theorem State.clock_setE : (s.setE e).clock = s.clock := rfl
@[simp] theorem State.free_setE : (s.setE e).free = s.free := rfl
@[simp] theorem State.stops_setE : (s.setE e).stops = s.stops := rfl
@[simp] theorem State.fails_setE : (s.setE e).fails = s.fails := rfl

end

section
variable (s : State) (i : Nat) (g : Group)

@[simp] theorem State.blocks_setGroup : (s.setGroup i g).blocks = s.blocks := rfl
@[simp] theorem State.cohorts_setGroup : (s.setGroup i g).cohorts = s.cohorts := rfl
@[simp] theorem State.mem_setGroup : (s.setGroup i g).mem = s.mem := rfl
@[simp] theorem State.coh_setGroup : (s.setGroup i g).coh = s.coh := rfl
@[simp] theorem State.l1_setGroup : (s.setGroup i g).l1 = s.l1 := rfl
@[simp] theorem State.consts_setGroup : (s.setGroup i g).consts = s.consts := rfl
@[simp] theorem State.wtq_setGroup : (s.setGroup i g).wtq = s.wtq := rfl
@[simp] theorem State.net_setGroup : (s.setGroup i g).net = s.net := rfl
@[simp] theorem State.vault_setGroup : (s.setGroup i g).vault = s.vault := rfl
@[simp] theorem State.vown_setGroup : (s.setGroup i g).vown = s.vown := rfl
@[simp] theorem State.vq_setGroup : (s.setGroup i g).vq = s.vq := rfl
@[simp] theorem State.pred_setGroup : (s.setGroup i g).pred = s.pred := rfl
@[simp] theorem State.win_setGroup : (s.setGroup i g).win = s.win := rfl
@[simp] theorem State.tlb_setGroup : (s.setGroup i g).tlb = s.tlb := rfl
@[simp] theorem State.flash_setGroup : (s.setGroup i g).flash = s.flash := rfl
@[simp] theorem State.keys_setGroup : (s.setGroup i g).keys = s.keys := rfl
@[simp] theorem State.rings_setGroup : (s.setGroup i g).rings = s.rings := rfl
@[simp] theorem State.ctxs_setGroup : (s.setGroup i g).ctxs = s.ctxs := rfl
@[simp] theorem State.savedG_setGroup : (s.setGroup i g).savedG = s.savedG := rfl
@[simp] theorem State.msix_setGroup : (s.setGroup i g).msix = s.msix := rfl
@[simp] theorem State.occ_setGroup : (s.setGroup i g).occ = s.occ := rfl
@[simp] theorem State.hbmFine_setGroup : (s.setGroup i g).hbmFine = s.hbmFine := rfl
@[simp] theorem State.hbmSet_setGroup : (s.setGroup i g).hbmSet = s.hbmSet := rfl
@[simp] theorem State.released_setGroup : (s.setGroup i g).released = s.released := rfl
@[simp] theorem State.lastAth_setGroup : (s.setGroup i g).lastAth = s.lastAth := rfl
@[simp] theorem State.fwRoot_setGroup : (s.setGroup i g).fwRoot = s.fwRoot := rfl
@[simp] theorem State.fwCode_setGroup : (s.setGroup i g).fwCode = s.fwCode := rfl
@[simp] theorem State.queues_setGroup : (s.setGroup i g).queues = s.queues := rfl
@[simp] theorem State.pkts_setGroup : (s.setGroup i g).pkts = s.pkts := rfl
@[simp] theorem State.pktNext_setGroup : (s.setGroup i g).pktNext = s.pktNext := rfl
@[simp] theorem State.rlists_setGroup : (s.setGroup i g).rlists = s.rlists := rfl
@[simp] theorem State.lrecs_setGroup : (s.setGroup i g).lrecs = s.lrecs := rfl
@[simp] theorem State.mail_setGroup : (s.setGroup i g).mail = s.mail := rfl
@[simp] theorem State.batches_setGroup : (s.setGroup i g).batches = s.batches := rfl
@[simp] theorem State.starts_setGroup : (s.setGroup i g).starts = s.starts := rfl
@[simp] theorem State.ifaces_setGroup : (s.setGroup i g).ifaces = s.ifaces := rfl
@[simp] theorem State.decs_setGroup : (s.setGroup i g).decs = s.decs := rfl
@[simp] theorem State.frees_setGroup : (s.setGroup i g).frees = s.frees := rfl
@[simp] theorem State.ends_setGroup : (s.setGroup i g).ends = s.ends := rfl
@[simp] theorem State.inHand_setGroup : (s.setGroup i g).inHand = s.inHand := rfl
@[simp] theorem State.pools_setGroup : (s.setGroup i g).pools = s.pools := rfl
@[simp] theorem State.invs_setGroup : (s.setGroup i g).invs = s.invs := rfl
@[simp] theorem State.dqs_setGroup : (s.setGroup i g).dqs = s.dqs := rfl
@[simp] theorem State.lost_setGroup : (s.setGroup i g).lost = s.lost := rfl
@[simp] theorem State.keyr_setGroup : (s.setGroup i g).keyr = s.keyr := rfl
@[simp] theorem State.spdm_setGroup : (s.setGroup i g).spdm = s.spdm := rfl
@[simp] theorem State.doe_setGroup : (s.setGroup i g).doe = s.doe := rfl
@[simp] theorem State.log_setGroup : (s.setGroup i g).log = s.log := rfl
@[simp] theorem State.power_setGroup : (s.setGroup i g).power = s.power := rfl
@[simp] theorem State.bad_setGroup : (s.setGroup i g).bad = s.bad := rfl
@[simp] theorem State.latent_setGroup : (s.setGroup i g).latent = s.latent := rfl
@[simp] theorem State.met_setGroup : (s.setGroup i g).met = s.met := rfl
@[simp] theorem State.moved_setGroup : (s.setGroup i g).moved = s.moved := rfl
@[simp] theorem State.wnodes_setGroup : (s.setGroup i g).wnodes = s.wnodes := rfl
@[simp] theorem State.off_setGroup : (s.setGroup i g).off = s.off := rfl
@[simp] theorem State.rdymap_setGroup : (s.setGroup i g).rdymap = s.rdymap := rfl
@[simp] theorem State.rdyfail_setGroup : (s.setGroup i g).rdyfail = s.rdyfail := rfl
@[simp] theorem State.times_setGroup : (s.setGroup i g).times = s.times := rfl
@[simp] theorem State.cur_setGroup : (s.setGroup i g).cur = s.cur := rfl
@[simp] theorem State.next_setGroup : (s.setGroup i g).next = s.next := rfl
@[simp] theorem State.chain_setGroup : (s.setGroup i g).chain = s.chain := rfl
@[simp] theorem State.agenda_setGroup : (s.setGroup i g).agenda = s.agenda := rfl
@[simp] theorem State.sched_setGroup : (s.setGroup i g).sched = s.sched := rfl
@[simp] theorem State.cool_setGroup : (s.setGroup i g).cool = s.cool := rfl
@[simp] theorem State.decA_setGroup : (s.setGroup i g).decA = s.decA := rfl
@[simp] theorem State.cuts_setGroup : (s.setGroup i g).cuts = s.cuts := rfl
@[simp] theorem State.clock_setGroup : (s.setGroup i g).clock = s.clock := rfl
@[simp] theorem State.free_setGroup : (s.setGroup i g).free = s.free := rfl
@[simp] theorem State.stops_setGroup : (s.setGroup i g).stops = s.stops := rfl
@[simp] theorem State.fails_setGroup : (s.setGroup i g).fails = s.fails := rfl

end

section
variable (s : State) (i : Nat) (b : Block)

@[simp] theorem State.groups_setBlock : (s.setBlock i b).groups = s.groups := rfl
@[simp] theorem State.cohorts_setBlock : (s.setBlock i b).cohorts = s.cohorts := rfl
@[simp] theorem State.mem_setBlock : (s.setBlock i b).mem = s.mem := rfl
@[simp] theorem State.coh_setBlock : (s.setBlock i b).coh = s.coh := rfl
@[simp] theorem State.l1_setBlock : (s.setBlock i b).l1 = s.l1 := rfl
@[simp] theorem State.consts_setBlock : (s.setBlock i b).consts = s.consts := rfl
@[simp] theorem State.wtq_setBlock : (s.setBlock i b).wtq = s.wtq := rfl
@[simp] theorem State.net_setBlock : (s.setBlock i b).net = s.net := rfl
@[simp] theorem State.vault_setBlock : (s.setBlock i b).vault = s.vault := rfl
@[simp] theorem State.vown_setBlock : (s.setBlock i b).vown = s.vown := rfl
@[simp] theorem State.vq_setBlock : (s.setBlock i b).vq = s.vq := rfl
@[simp] theorem State.pred_setBlock : (s.setBlock i b).pred = s.pred := rfl
@[simp] theorem State.win_setBlock : (s.setBlock i b).win = s.win := rfl
@[simp] theorem State.tlb_setBlock : (s.setBlock i b).tlb = s.tlb := rfl
@[simp] theorem State.flash_setBlock : (s.setBlock i b).flash = s.flash := rfl
@[simp] theorem State.keys_setBlock : (s.setBlock i b).keys = s.keys := rfl
@[simp] theorem State.rings_setBlock : (s.setBlock i b).rings = s.rings := rfl
@[simp] theorem State.ctxs_setBlock : (s.setBlock i b).ctxs = s.ctxs := rfl
@[simp] theorem State.savedG_setBlock : (s.setBlock i b).savedG = s.savedG := rfl
@[simp] theorem State.msix_setBlock : (s.setBlock i b).msix = s.msix := rfl
@[simp] theorem State.occ_setBlock : (s.setBlock i b).occ = s.occ := rfl
@[simp] theorem State.hbmFine_setBlock : (s.setBlock i b).hbmFine = s.hbmFine := rfl
@[simp] theorem State.hbmSet_setBlock : (s.setBlock i b).hbmSet = s.hbmSet := rfl
@[simp] theorem State.released_setBlock : (s.setBlock i b).released = s.released := rfl
@[simp] theorem State.lastAth_setBlock : (s.setBlock i b).lastAth = s.lastAth := rfl
@[simp] theorem State.fwRoot_setBlock : (s.setBlock i b).fwRoot = s.fwRoot := rfl
@[simp] theorem State.fwCode_setBlock : (s.setBlock i b).fwCode = s.fwCode := rfl
@[simp] theorem State.queues_setBlock : (s.setBlock i b).queues = s.queues := rfl
@[simp] theorem State.pkts_setBlock : (s.setBlock i b).pkts = s.pkts := rfl
@[simp] theorem State.pktNext_setBlock : (s.setBlock i b).pktNext = s.pktNext := rfl
@[simp] theorem State.rlists_setBlock : (s.setBlock i b).rlists = s.rlists := rfl
@[simp] theorem State.lrecs_setBlock : (s.setBlock i b).lrecs = s.lrecs := rfl
@[simp] theorem State.mail_setBlock : (s.setBlock i b).mail = s.mail := rfl
@[simp] theorem State.batches_setBlock : (s.setBlock i b).batches = s.batches := rfl
@[simp] theorem State.starts_setBlock : (s.setBlock i b).starts = s.starts := rfl
@[simp] theorem State.ifaces_setBlock : (s.setBlock i b).ifaces = s.ifaces := rfl
@[simp] theorem State.decs_setBlock : (s.setBlock i b).decs = s.decs := rfl
@[simp] theorem State.frees_setBlock : (s.setBlock i b).frees = s.frees := rfl
@[simp] theorem State.ends_setBlock : (s.setBlock i b).ends = s.ends := rfl
@[simp] theorem State.inHand_setBlock : (s.setBlock i b).inHand = s.inHand := rfl
@[simp] theorem State.pools_setBlock : (s.setBlock i b).pools = s.pools := rfl
@[simp] theorem State.invs_setBlock : (s.setBlock i b).invs = s.invs := rfl
@[simp] theorem State.dqs_setBlock : (s.setBlock i b).dqs = s.dqs := rfl
@[simp] theorem State.lost_setBlock : (s.setBlock i b).lost = s.lost := rfl
@[simp] theorem State.keyr_setBlock : (s.setBlock i b).keyr = s.keyr := rfl
@[simp] theorem State.spdm_setBlock : (s.setBlock i b).spdm = s.spdm := rfl
@[simp] theorem State.doe_setBlock : (s.setBlock i b).doe = s.doe := rfl
@[simp] theorem State.log_setBlock : (s.setBlock i b).log = s.log := rfl
@[simp] theorem State.power_setBlock : (s.setBlock i b).power = s.power := rfl
@[simp] theorem State.bad_setBlock : (s.setBlock i b).bad = s.bad := rfl
@[simp] theorem State.latent_setBlock : (s.setBlock i b).latent = s.latent := rfl
@[simp] theorem State.met_setBlock : (s.setBlock i b).met = s.met := rfl
@[simp] theorem State.moved_setBlock : (s.setBlock i b).moved = s.moved := rfl
@[simp] theorem State.wnodes_setBlock : (s.setBlock i b).wnodes = s.wnodes := rfl
@[simp] theorem State.off_setBlock : (s.setBlock i b).off = s.off := rfl
@[simp] theorem State.rdymap_setBlock : (s.setBlock i b).rdymap = s.rdymap := rfl
@[simp] theorem State.rdyfail_setBlock : (s.setBlock i b).rdyfail = s.rdyfail := rfl
@[simp] theorem State.times_setBlock : (s.setBlock i b).times = s.times := rfl
@[simp] theorem State.cur_setBlock : (s.setBlock i b).cur = s.cur := rfl
@[simp] theorem State.next_setBlock : (s.setBlock i b).next = s.next := rfl
@[simp] theorem State.chain_setBlock : (s.setBlock i b).chain = s.chain := rfl
@[simp] theorem State.agenda_setBlock : (s.setBlock i b).agenda = s.agenda := rfl
@[simp] theorem State.sched_setBlock : (s.setBlock i b).sched = s.sched := rfl
@[simp] theorem State.cool_setBlock : (s.setBlock i b).cool = s.cool := rfl
@[simp] theorem State.decA_setBlock : (s.setBlock i b).decA = s.decA := rfl
@[simp] theorem State.cuts_setBlock : (s.setBlock i b).cuts = s.cuts := rfl
@[simp] theorem State.clock_setBlock : (s.setBlock i b).clock = s.clock := rfl
@[simp] theorem State.free_setBlock : (s.setBlock i b).free = s.free := rfl
@[simp] theorem State.stops_setBlock : (s.setBlock i b).stops = s.stops := rfl
@[simp] theorem State.fails_setBlock : (s.setBlock i b).fails = s.fails := rfl

end

section
variable (s : State) (i n : Nat) (c : Ctx)

@[simp] theorem State.groups_setCtx : (s.setCtx i n c).groups = s.groups := by unfold State.setCtx; split <;> rfl
@[simp] theorem State.blocks_setCtx : (s.setCtx i n c).blocks = s.blocks := by unfold State.setCtx; split <;> rfl
@[simp] theorem State.cohorts_setCtx : (s.setCtx i n c).cohorts = s.cohorts := by unfold State.setCtx; split <;> rfl
@[simp] theorem State.mem_setCtx : (s.setCtx i n c).mem = s.mem := by unfold State.setCtx; split <;> rfl
@[simp] theorem State.coh_setCtx : (s.setCtx i n c).coh = s.coh := by unfold State.setCtx; split <;> rfl
@[simp] theorem State.l1_setCtx : (s.setCtx i n c).l1 = s.l1 := by unfold State.setCtx; split <;> rfl
@[simp] theorem State.consts_setCtx : (s.setCtx i n c).consts = s.consts := by unfold State.setCtx; split <;> rfl
@[simp] theorem State.wtq_setCtx : (s.setCtx i n c).wtq = s.wtq := by unfold State.setCtx; split <;> rfl
@[simp] theorem State.net_setCtx : (s.setCtx i n c).net = s.net := by unfold State.setCtx; split <;> rfl
@[simp] theorem State.vault_setCtx : (s.setCtx i n c).vault = s.vault := by unfold State.setCtx; split <;> rfl
@[simp] theorem State.vown_setCtx : (s.setCtx i n c).vown = s.vown := by unfold State.setCtx; split <;> rfl
@[simp] theorem State.vq_setCtx : (s.setCtx i n c).vq = s.vq := by unfold State.setCtx; split <;> rfl
@[simp] theorem State.pred_setCtx : (s.setCtx i n c).pred = s.pred := by unfold State.setCtx; split <;> rfl
@[simp] theorem State.win_setCtx : (s.setCtx i n c).win = s.win := by unfold State.setCtx; split <;> rfl
@[simp] theorem State.tlb_setCtx : (s.setCtx i n c).tlb = s.tlb := by unfold State.setCtx; split <;> rfl
@[simp] theorem State.flash_setCtx : (s.setCtx i n c).flash = s.flash := by unfold State.setCtx; split <;> rfl
@[simp] theorem State.keys_setCtx : (s.setCtx i n c).keys = s.keys := by unfold State.setCtx; split <;> rfl
@[simp] theorem State.rings_setCtx : (s.setCtx i n c).rings = s.rings := by unfold State.setCtx; split <;> rfl
@[simp] theorem State.savedG_setCtx : (s.setCtx i n c).savedG = s.savedG := by unfold State.setCtx; split <;> rfl
@[simp] theorem State.msix_setCtx : (s.setCtx i n c).msix = s.msix := by unfold State.setCtx; split <;> rfl
@[simp] theorem State.occ_setCtx : (s.setCtx i n c).occ = s.occ := by unfold State.setCtx; split <;> rfl
@[simp] theorem State.hbmFine_setCtx : (s.setCtx i n c).hbmFine = s.hbmFine := by unfold State.setCtx; split <;> rfl
@[simp] theorem State.hbmSet_setCtx : (s.setCtx i n c).hbmSet = s.hbmSet := by unfold State.setCtx; split <;> rfl
@[simp] theorem State.released_setCtx : (s.setCtx i n c).released = s.released := by unfold State.setCtx; split <;> rfl
@[simp] theorem State.lastAth_setCtx : (s.setCtx i n c).lastAth = s.lastAth := by unfold State.setCtx; split <;> rfl
@[simp] theorem State.fwRoot_setCtx : (s.setCtx i n c).fwRoot = s.fwRoot := by unfold State.setCtx; split <;> rfl
@[simp] theorem State.fwCode_setCtx : (s.setCtx i n c).fwCode = s.fwCode := by unfold State.setCtx; split <;> rfl
@[simp] theorem State.queues_setCtx : (s.setCtx i n c).queues = s.queues := by unfold State.setCtx; split <;> rfl
@[simp] theorem State.pkts_setCtx : (s.setCtx i n c).pkts = s.pkts := by unfold State.setCtx; split <;> rfl
@[simp] theorem State.pktNext_setCtx : (s.setCtx i n c).pktNext = s.pktNext := by unfold State.setCtx; split <;> rfl
@[simp] theorem State.rlists_setCtx : (s.setCtx i n c).rlists = s.rlists := by unfold State.setCtx; split <;> rfl
@[simp] theorem State.lrecs_setCtx : (s.setCtx i n c).lrecs = s.lrecs := by unfold State.setCtx; split <;> rfl
@[simp] theorem State.mail_setCtx : (s.setCtx i n c).mail = s.mail := by unfold State.setCtx; split <;> rfl
@[simp] theorem State.batches_setCtx : (s.setCtx i n c).batches = s.batches := by unfold State.setCtx; split <;> rfl
@[simp] theorem State.starts_setCtx : (s.setCtx i n c).starts = s.starts := by unfold State.setCtx; split <;> rfl
@[simp] theorem State.ifaces_setCtx : (s.setCtx i n c).ifaces = s.ifaces := by unfold State.setCtx; split <;> rfl
@[simp] theorem State.decs_setCtx : (s.setCtx i n c).decs = s.decs := by unfold State.setCtx; split <;> rfl
@[simp] theorem State.frees_setCtx : (s.setCtx i n c).frees = s.frees := by unfold State.setCtx; split <;> rfl
@[simp] theorem State.ends_setCtx : (s.setCtx i n c).ends = s.ends := by unfold State.setCtx; split <;> rfl
@[simp] theorem State.inHand_setCtx : (s.setCtx i n c).inHand = s.inHand := by unfold State.setCtx; split <;> rfl
@[simp] theorem State.pools_setCtx : (s.setCtx i n c).pools = s.pools := by unfold State.setCtx; split <;> rfl
@[simp] theorem State.invs_setCtx : (s.setCtx i n c).invs = s.invs := by unfold State.setCtx; split <;> rfl
@[simp] theorem State.dqs_setCtx : (s.setCtx i n c).dqs = s.dqs := by unfold State.setCtx; split <;> rfl
@[simp] theorem State.lost_setCtx : (s.setCtx i n c).lost = s.lost := by unfold State.setCtx; split <;> rfl
@[simp] theorem State.keyr_setCtx : (s.setCtx i n c).keyr = s.keyr := by unfold State.setCtx; split <;> rfl
@[simp] theorem State.spdm_setCtx : (s.setCtx i n c).spdm = s.spdm := by unfold State.setCtx; split <;> rfl
@[simp] theorem State.doe_setCtx : (s.setCtx i n c).doe = s.doe := by unfold State.setCtx; split <;> rfl
@[simp] theorem State.log_setCtx : (s.setCtx i n c).log = s.log := by unfold State.setCtx; split <;> rfl
@[simp] theorem State.power_setCtx : (s.setCtx i n c).power = s.power := by unfold State.setCtx; split <;> rfl
@[simp] theorem State.bad_setCtx : (s.setCtx i n c).bad = s.bad := by unfold State.setCtx; split <;> rfl
@[simp] theorem State.latent_setCtx : (s.setCtx i n c).latent = s.latent := by unfold State.setCtx; split <;> rfl
@[simp] theorem State.met_setCtx : (s.setCtx i n c).met = s.met := by unfold State.setCtx; split <;> rfl
@[simp] theorem State.moved_setCtx : (s.setCtx i n c).moved = s.moved := by unfold State.setCtx; split <;> rfl
@[simp] theorem State.wnodes_setCtx : (s.setCtx i n c).wnodes = s.wnodes := by unfold State.setCtx; split <;> rfl
@[simp] theorem State.off_setCtx : (s.setCtx i n c).off = s.off := by unfold State.setCtx; split <;> rfl
@[simp] theorem State.rdymap_setCtx : (s.setCtx i n c).rdymap = s.rdymap := by unfold State.setCtx; split <;> rfl
@[simp] theorem State.rdyfail_setCtx : (s.setCtx i n c).rdyfail = s.rdyfail := by unfold State.setCtx; split <;> rfl
@[simp] theorem State.times_setCtx : (s.setCtx i n c).times = s.times := by unfold State.setCtx; split <;> rfl
@[simp] theorem State.cur_setCtx : (s.setCtx i n c).cur = s.cur := by unfold State.setCtx; split <;> rfl
@[simp] theorem State.next_setCtx : (s.setCtx i n c).next = s.next := by unfold State.setCtx; split <;> rfl
@[simp] theorem State.chain_setCtx : (s.setCtx i n c).chain = s.chain := by unfold State.setCtx; split <;> rfl
@[simp] theorem State.agenda_setCtx : (s.setCtx i n c).agenda = s.agenda := by unfold State.setCtx; split <;> rfl
@[simp] theorem State.sched_setCtx : (s.setCtx i n c).sched = s.sched := by unfold State.setCtx; split <;> rfl
@[simp] theorem State.cool_setCtx : (s.setCtx i n c).cool = s.cool := by unfold State.setCtx; split <;> rfl
@[simp] theorem State.decA_setCtx : (s.setCtx i n c).decA = s.decA := by unfold State.setCtx; split <;> rfl
@[simp] theorem State.cuts_setCtx : (s.setCtx i n c).cuts = s.cuts := by unfold State.setCtx; split <;> rfl
@[simp] theorem State.clock_setCtx : (s.setCtx i n c).clock = s.clock := by unfold State.setCtx; split <;> rfl
@[simp] theorem State.free_setCtx : (s.setCtx i n c).free = s.free := by unfold State.setCtx; split <;> rfl
@[simp] theorem State.stops_setCtx : (s.setCtx i n c).stops = s.stops := by unfold State.setCtx; split <;> rfl
@[simp] theorem State.fails_setCtx : (s.setCtx i n c).fails = s.fails := by unfold State.setCtx; split <;> rfl

end

section
variable (s : State) (i : Nat) (c : Ring)

@[simp] theorem State.groups_setRing : (s.setRing i c).groups = s.groups := rfl
@[simp] theorem State.blocks_setRing : (s.setRing i c).blocks = s.blocks := rfl
@[simp] theorem State.cohorts_setRing : (s.setRing i c).cohorts = s.cohorts := rfl
@[simp] theorem State.mem_setRing : (s.setRing i c).mem = s.mem := rfl
@[simp] theorem State.coh_setRing : (s.setRing i c).coh = s.coh := rfl
@[simp] theorem State.l1_setRing : (s.setRing i c).l1 = s.l1 := rfl
@[simp] theorem State.consts_setRing : (s.setRing i c).consts = s.consts := rfl
@[simp] theorem State.wtq_setRing : (s.setRing i c).wtq = s.wtq := rfl
@[simp] theorem State.net_setRing : (s.setRing i c).net = s.net := rfl
@[simp] theorem State.vault_setRing : (s.setRing i c).vault = s.vault := rfl
@[simp] theorem State.vown_setRing : (s.setRing i c).vown = s.vown := rfl
@[simp] theorem State.vq_setRing : (s.setRing i c).vq = s.vq := rfl
@[simp] theorem State.pred_setRing : (s.setRing i c).pred = s.pred := rfl
@[simp] theorem State.win_setRing : (s.setRing i c).win = s.win := rfl
@[simp] theorem State.tlb_setRing : (s.setRing i c).tlb = s.tlb := rfl
@[simp] theorem State.flash_setRing : (s.setRing i c).flash = s.flash := rfl
@[simp] theorem State.keys_setRing : (s.setRing i c).keys = s.keys := rfl
@[simp] theorem State.ctxs_setRing : (s.setRing i c).ctxs = s.ctxs := rfl
@[simp] theorem State.savedG_setRing : (s.setRing i c).savedG = s.savedG := rfl
@[simp] theorem State.msix_setRing : (s.setRing i c).msix = s.msix := rfl
@[simp] theorem State.occ_setRing : (s.setRing i c).occ = s.occ := rfl
@[simp] theorem State.hbmFine_setRing : (s.setRing i c).hbmFine = s.hbmFine := rfl
@[simp] theorem State.hbmSet_setRing : (s.setRing i c).hbmSet = s.hbmSet := rfl
@[simp] theorem State.released_setRing : (s.setRing i c).released = s.released := rfl
@[simp] theorem State.lastAth_setRing : (s.setRing i c).lastAth = s.lastAth := rfl
@[simp] theorem State.fwRoot_setRing : (s.setRing i c).fwRoot = s.fwRoot := rfl
@[simp] theorem State.fwCode_setRing : (s.setRing i c).fwCode = s.fwCode := rfl
@[simp] theorem State.queues_setRing : (s.setRing i c).queues = s.queues := rfl
@[simp] theorem State.pkts_setRing : (s.setRing i c).pkts = s.pkts := rfl
@[simp] theorem State.pktNext_setRing : (s.setRing i c).pktNext = s.pktNext := rfl
@[simp] theorem State.rlists_setRing : (s.setRing i c).rlists = s.rlists := rfl
@[simp] theorem State.lrecs_setRing : (s.setRing i c).lrecs = s.lrecs := rfl
@[simp] theorem State.mail_setRing : (s.setRing i c).mail = s.mail := rfl
@[simp] theorem State.batches_setRing : (s.setRing i c).batches = s.batches := rfl
@[simp] theorem State.starts_setRing : (s.setRing i c).starts = s.starts := rfl
@[simp] theorem State.ifaces_setRing : (s.setRing i c).ifaces = s.ifaces := rfl
@[simp] theorem State.decs_setRing : (s.setRing i c).decs = s.decs := rfl
@[simp] theorem State.frees_setRing : (s.setRing i c).frees = s.frees := rfl
@[simp] theorem State.ends_setRing : (s.setRing i c).ends = s.ends := rfl
@[simp] theorem State.inHand_setRing : (s.setRing i c).inHand = s.inHand := rfl
@[simp] theorem State.pools_setRing : (s.setRing i c).pools = s.pools := rfl
@[simp] theorem State.invs_setRing : (s.setRing i c).invs = s.invs := rfl
@[simp] theorem State.dqs_setRing : (s.setRing i c).dqs = s.dqs := rfl
@[simp] theorem State.lost_setRing : (s.setRing i c).lost = s.lost := rfl
@[simp] theorem State.keyr_setRing : (s.setRing i c).keyr = s.keyr := rfl
@[simp] theorem State.spdm_setRing : (s.setRing i c).spdm = s.spdm := rfl
@[simp] theorem State.doe_setRing : (s.setRing i c).doe = s.doe := rfl
@[simp] theorem State.log_setRing : (s.setRing i c).log = s.log := rfl
@[simp] theorem State.power_setRing : (s.setRing i c).power = s.power := rfl
@[simp] theorem State.bad_setRing : (s.setRing i c).bad = s.bad := rfl
@[simp] theorem State.latent_setRing : (s.setRing i c).latent = s.latent := rfl
@[simp] theorem State.met_setRing : (s.setRing i c).met = s.met := rfl
@[simp] theorem State.moved_setRing : (s.setRing i c).moved = s.moved := rfl
@[simp] theorem State.wnodes_setRing : (s.setRing i c).wnodes = s.wnodes := rfl
@[simp] theorem State.off_setRing : (s.setRing i c).off = s.off := rfl
@[simp] theorem State.rdymap_setRing : (s.setRing i c).rdymap = s.rdymap := rfl
@[simp] theorem State.rdyfail_setRing : (s.setRing i c).rdyfail = s.rdyfail := rfl
@[simp] theorem State.times_setRing : (s.setRing i c).times = s.times := rfl
@[simp] theorem State.cur_setRing : (s.setRing i c).cur = s.cur := rfl
@[simp] theorem State.next_setRing : (s.setRing i c).next = s.next := rfl
@[simp] theorem State.chain_setRing : (s.setRing i c).chain = s.chain := rfl
@[simp] theorem State.agenda_setRing : (s.setRing i c).agenda = s.agenda := rfl
@[simp] theorem State.sched_setRing : (s.setRing i c).sched = s.sched := rfl
@[simp] theorem State.cool_setRing : (s.setRing i c).cool = s.cool := rfl
@[simp] theorem State.decA_setRing : (s.setRing i c).decA = s.decA := rfl
@[simp] theorem State.cuts_setRing : (s.setRing i c).cuts = s.cuts := rfl
@[simp] theorem State.clock_setRing : (s.setRing i c).clock = s.clock := rfl
@[simp] theorem State.free_setRing : (s.setRing i c).free = s.free := rfl
@[simp] theorem State.stops_setRing : (s.setRing i c).stops = s.stops := rfl
@[simp] theorem State.fails_setRing : (s.setRing i c).fails = s.fails := rfl

end

section
variable (s : State) (u l : Nat) (c : Copy)

@[simp] theorem State.groups_setCopy : (s.setCopy u l c).groups = s.groups := rfl
@[simp] theorem State.blocks_setCopy : (s.setCopy u l c).blocks = s.blocks := rfl
@[simp] theorem State.cohorts_setCopy : (s.setCopy u l c).cohorts = s.cohorts := rfl
@[simp] theorem State.mem_setCopy : (s.setCopy u l c).mem = s.mem := rfl
@[simp] theorem State.l1_setCopy : (s.setCopy u l c).l1 = s.l1 := rfl
@[simp] theorem State.consts_setCopy : (s.setCopy u l c).consts = s.consts := rfl
@[simp] theorem State.wtq_setCopy : (s.setCopy u l c).wtq = s.wtq := rfl
@[simp] theorem State.net_setCopy : (s.setCopy u l c).net = s.net := rfl
@[simp] theorem State.vault_setCopy : (s.setCopy u l c).vault = s.vault := rfl
@[simp] theorem State.vown_setCopy : (s.setCopy u l c).vown = s.vown := rfl
@[simp] theorem State.vq_setCopy : (s.setCopy u l c).vq = s.vq := rfl
@[simp] theorem State.pred_setCopy : (s.setCopy u l c).pred = s.pred := rfl
@[simp] theorem State.win_setCopy : (s.setCopy u l c).win = s.win := rfl
@[simp] theorem State.tlb_setCopy : (s.setCopy u l c).tlb = s.tlb := rfl
@[simp] theorem State.flash_setCopy : (s.setCopy u l c).flash = s.flash := rfl
@[simp] theorem State.keys_setCopy : (s.setCopy u l c).keys = s.keys := rfl
@[simp] theorem State.rings_setCopy : (s.setCopy u l c).rings = s.rings := rfl
@[simp] theorem State.ctxs_setCopy : (s.setCopy u l c).ctxs = s.ctxs := rfl
@[simp] theorem State.savedG_setCopy : (s.setCopy u l c).savedG = s.savedG := rfl
@[simp] theorem State.msix_setCopy : (s.setCopy u l c).msix = s.msix := rfl
@[simp] theorem State.occ_setCopy : (s.setCopy u l c).occ = s.occ := rfl
@[simp] theorem State.hbmFine_setCopy : (s.setCopy u l c).hbmFine = s.hbmFine := rfl
@[simp] theorem State.hbmSet_setCopy : (s.setCopy u l c).hbmSet = s.hbmSet := rfl
@[simp] theorem State.released_setCopy : (s.setCopy u l c).released = s.released := rfl
@[simp] theorem State.lastAth_setCopy : (s.setCopy u l c).lastAth = s.lastAth := rfl
@[simp] theorem State.fwRoot_setCopy : (s.setCopy u l c).fwRoot = s.fwRoot := rfl
@[simp] theorem State.fwCode_setCopy : (s.setCopy u l c).fwCode = s.fwCode := rfl
@[simp] theorem State.queues_setCopy : (s.setCopy u l c).queues = s.queues := rfl
@[simp] theorem State.pkts_setCopy : (s.setCopy u l c).pkts = s.pkts := rfl
@[simp] theorem State.pktNext_setCopy : (s.setCopy u l c).pktNext = s.pktNext := rfl
@[simp] theorem State.rlists_setCopy : (s.setCopy u l c).rlists = s.rlists := rfl
@[simp] theorem State.lrecs_setCopy : (s.setCopy u l c).lrecs = s.lrecs := rfl
@[simp] theorem State.mail_setCopy : (s.setCopy u l c).mail = s.mail := rfl
@[simp] theorem State.batches_setCopy : (s.setCopy u l c).batches = s.batches := rfl
@[simp] theorem State.starts_setCopy : (s.setCopy u l c).starts = s.starts := rfl
@[simp] theorem State.ifaces_setCopy : (s.setCopy u l c).ifaces = s.ifaces := rfl
@[simp] theorem State.decs_setCopy : (s.setCopy u l c).decs = s.decs := rfl
@[simp] theorem State.frees_setCopy : (s.setCopy u l c).frees = s.frees := rfl
@[simp] theorem State.ends_setCopy : (s.setCopy u l c).ends = s.ends := rfl
@[simp] theorem State.inHand_setCopy : (s.setCopy u l c).inHand = s.inHand := rfl
@[simp] theorem State.pools_setCopy : (s.setCopy u l c).pools = s.pools := rfl
@[simp] theorem State.invs_setCopy : (s.setCopy u l c).invs = s.invs := rfl
@[simp] theorem State.dqs_setCopy : (s.setCopy u l c).dqs = s.dqs := rfl
@[simp] theorem State.lost_setCopy : (s.setCopy u l c).lost = s.lost := rfl
@[simp] theorem State.keyr_setCopy : (s.setCopy u l c).keyr = s.keyr := rfl
@[simp] theorem State.spdm_setCopy : (s.setCopy u l c).spdm = s.spdm := rfl
@[simp] theorem State.doe_setCopy : (s.setCopy u l c).doe = s.doe := rfl
@[simp] theorem State.log_setCopy : (s.setCopy u l c).log = s.log := rfl
@[simp] theorem State.power_setCopy : (s.setCopy u l c).power = s.power := rfl
@[simp] theorem State.bad_setCopy : (s.setCopy u l c).bad = s.bad := rfl
@[simp] theorem State.latent_setCopy : (s.setCopy u l c).latent = s.latent := rfl
@[simp] theorem State.met_setCopy : (s.setCopy u l c).met = s.met := rfl
@[simp] theorem State.moved_setCopy : (s.setCopy u l c).moved = s.moved := rfl
@[simp] theorem State.wnodes_setCopy : (s.setCopy u l c).wnodes = s.wnodes := rfl
@[simp] theorem State.off_setCopy : (s.setCopy u l c).off = s.off := rfl
@[simp] theorem State.rdymap_setCopy : (s.setCopy u l c).rdymap = s.rdymap := rfl
@[simp] theorem State.rdyfail_setCopy : (s.setCopy u l c).rdyfail = s.rdyfail := rfl
@[simp] theorem State.times_setCopy : (s.setCopy u l c).times = s.times := rfl
@[simp] theorem State.cur_setCopy : (s.setCopy u l c).cur = s.cur := rfl
@[simp] theorem State.next_setCopy : (s.setCopy u l c).next = s.next := rfl
@[simp] theorem State.chain_setCopy : (s.setCopy u l c).chain = s.chain := rfl
@[simp] theorem State.agenda_setCopy : (s.setCopy u l c).agenda = s.agenda := rfl
@[simp] theorem State.sched_setCopy : (s.setCopy u l c).sched = s.sched := rfl
@[simp] theorem State.cool_setCopy : (s.setCopy u l c).cool = s.cool := rfl
@[simp] theorem State.decA_setCopy : (s.setCopy u l c).decA = s.decA := rfl
@[simp] theorem State.cuts_setCopy : (s.setCopy u l c).cuts = s.cuts := rfl
@[simp] theorem State.clock_setCopy : (s.setCopy u l c).clock = s.clock := rfl
@[simp] theorem State.free_setCopy : (s.setCopy u l c).free = s.free := rfl
@[simp] theorem State.stops_setCopy : (s.setCopy u l c).stops = s.stops := rfl
@[simp] theorem State.fails_setCopy : (s.setCopy u l c).fails = s.fails := rfl

end

section
variable (s : State) (a : Nat) (b : Byte)

@[simp] theorem State.groups_setMemByte : (s.setMemByte a b).groups = s.groups := rfl
@[simp] theorem State.blocks_setMemByte : (s.setMemByte a b).blocks = s.blocks := rfl
@[simp] theorem State.cohorts_setMemByte : (s.setMemByte a b).cohorts = s.cohorts := rfl
@[simp] theorem State.coh_setMemByte : (s.setMemByte a b).coh = s.coh := rfl
@[simp] theorem State.l1_setMemByte : (s.setMemByte a b).l1 = s.l1 := rfl
@[simp] theorem State.consts_setMemByte : (s.setMemByte a b).consts = s.consts := rfl
@[simp] theorem State.wtq_setMemByte : (s.setMemByte a b).wtq = s.wtq := rfl
@[simp] theorem State.net_setMemByte : (s.setMemByte a b).net = s.net := rfl
@[simp] theorem State.vault_setMemByte : (s.setMemByte a b).vault = s.vault := rfl
@[simp] theorem State.vown_setMemByte : (s.setMemByte a b).vown = s.vown := rfl
@[simp] theorem State.vq_setMemByte : (s.setMemByte a b).vq = s.vq := rfl
@[simp] theorem State.pred_setMemByte : (s.setMemByte a b).pred = s.pred := rfl
@[simp] theorem State.win_setMemByte : (s.setMemByte a b).win = s.win := rfl
@[simp] theorem State.tlb_setMemByte : (s.setMemByte a b).tlb = s.tlb := rfl
@[simp] theorem State.flash_setMemByte : (s.setMemByte a b).flash = s.flash := rfl
@[simp] theorem State.keys_setMemByte : (s.setMemByte a b).keys = s.keys := rfl
@[simp] theorem State.rings_setMemByte : (s.setMemByte a b).rings = s.rings := rfl
@[simp] theorem State.ctxs_setMemByte : (s.setMemByte a b).ctxs = s.ctxs := rfl
@[simp] theorem State.savedG_setMemByte : (s.setMemByte a b).savedG = s.savedG := rfl
@[simp] theorem State.msix_setMemByte : (s.setMemByte a b).msix = s.msix := rfl
@[simp] theorem State.occ_setMemByte : (s.setMemByte a b).occ = s.occ := rfl
@[simp] theorem State.hbmFine_setMemByte : (s.setMemByte a b).hbmFine = s.hbmFine := rfl
@[simp] theorem State.hbmSet_setMemByte : (s.setMemByte a b).hbmSet = s.hbmSet := rfl
@[simp] theorem State.released_setMemByte : (s.setMemByte a b).released = s.released := rfl
@[simp] theorem State.lastAth_setMemByte : (s.setMemByte a b).lastAth = s.lastAth := rfl
@[simp] theorem State.fwRoot_setMemByte : (s.setMemByte a b).fwRoot = s.fwRoot := rfl
@[simp] theorem State.fwCode_setMemByte : (s.setMemByte a b).fwCode = s.fwCode := rfl
@[simp] theorem State.queues_setMemByte : (s.setMemByte a b).queues = s.queues := rfl
@[simp] theorem State.pkts_setMemByte : (s.setMemByte a b).pkts = s.pkts := rfl
@[simp] theorem State.pktNext_setMemByte : (s.setMemByte a b).pktNext = s.pktNext := rfl
@[simp] theorem State.rlists_setMemByte : (s.setMemByte a b).rlists = s.rlists := rfl
@[simp] theorem State.lrecs_setMemByte : (s.setMemByte a b).lrecs = s.lrecs := rfl
@[simp] theorem State.mail_setMemByte : (s.setMemByte a b).mail = s.mail := rfl
@[simp] theorem State.batches_setMemByte : (s.setMemByte a b).batches = s.batches := rfl
@[simp] theorem State.starts_setMemByte : (s.setMemByte a b).starts = s.starts := rfl
@[simp] theorem State.ifaces_setMemByte : (s.setMemByte a b).ifaces = s.ifaces := rfl
@[simp] theorem State.decs_setMemByte : (s.setMemByte a b).decs = s.decs := rfl
@[simp] theorem State.frees_setMemByte : (s.setMemByte a b).frees = s.frees := rfl
@[simp] theorem State.ends_setMemByte : (s.setMemByte a b).ends = s.ends := rfl
@[simp] theorem State.inHand_setMemByte : (s.setMemByte a b).inHand = s.inHand := rfl
@[simp] theorem State.pools_setMemByte : (s.setMemByte a b).pools = s.pools := rfl
@[simp] theorem State.invs_setMemByte : (s.setMemByte a b).invs = s.invs := rfl
@[simp] theorem State.dqs_setMemByte : (s.setMemByte a b).dqs = s.dqs := rfl
@[simp] theorem State.lost_setMemByte : (s.setMemByte a b).lost = s.lost := rfl
@[simp] theorem State.keyr_setMemByte : (s.setMemByte a b).keyr = s.keyr := rfl
@[simp] theorem State.spdm_setMemByte : (s.setMemByte a b).spdm = s.spdm := rfl
@[simp] theorem State.doe_setMemByte : (s.setMemByte a b).doe = s.doe := rfl
@[simp] theorem State.log_setMemByte : (s.setMemByte a b).log = s.log := rfl
@[simp] theorem State.power_setMemByte : (s.setMemByte a b).power = s.power := rfl
@[simp] theorem State.bad_setMemByte : (s.setMemByte a b).bad = s.bad := rfl
@[simp] theorem State.latent_setMemByte : (s.setMemByte a b).latent = s.latent := rfl
@[simp] theorem State.met_setMemByte : (s.setMemByte a b).met = s.met := rfl
@[simp] theorem State.moved_setMemByte : (s.setMemByte a b).moved = s.moved := rfl
@[simp] theorem State.wnodes_setMemByte : (s.setMemByte a b).wnodes = s.wnodes := rfl
@[simp] theorem State.off_setMemByte : (s.setMemByte a b).off = s.off := rfl
@[simp] theorem State.rdymap_setMemByte : (s.setMemByte a b).rdymap = s.rdymap := rfl
@[simp] theorem State.rdyfail_setMemByte : (s.setMemByte a b).rdyfail = s.rdyfail := rfl
@[simp] theorem State.times_setMemByte : (s.setMemByte a b).times = s.times := rfl
@[simp] theorem State.cur_setMemByte : (s.setMemByte a b).cur = s.cur := rfl
@[simp] theorem State.next_setMemByte : (s.setMemByte a b).next = s.next := rfl
@[simp] theorem State.chain_setMemByte : (s.setMemByte a b).chain = s.chain := rfl
@[simp] theorem State.agenda_setMemByte : (s.setMemByte a b).agenda = s.agenda := rfl
@[simp] theorem State.sched_setMemByte : (s.setMemByte a b).sched = s.sched := rfl
@[simp] theorem State.cool_setMemByte : (s.setMemByte a b).cool = s.cool := rfl
@[simp] theorem State.decA_setMemByte : (s.setMemByte a b).decA = s.decA := rfl
@[simp] theorem State.cuts_setMemByte : (s.setMemByte a b).cuts = s.cuts := rfl
@[simp] theorem State.clock_setMemByte : (s.setMemByte a b).clock = s.clock := rfl
@[simp] theorem State.free_setMemByte : (s.setMemByte a b).free = s.free := rfl
@[simp] theorem State.stops_setMemByte : (s.setMemByte a b).stops = s.stops := rfl
@[simp] theorem State.fails_setMemByte : (s.setMemByte a b).fails = s.fails := rfl

end

/-! ### Accessors after an update -/

section
variable (s : State)

@[simp] theorem State.groups_setG (g : Group) : (s.setG g).groups = s.groups.set Group.empty s.cur.gid g := rfl
@[simp] theorem State.g_setG (g : Group) : (s.setG g).g = g := by simp [State.g]
@[simp] theorem State.group_setG_self (g : Group) : (s.setG g).group s.cur.gid = g := by simp [State.group]
@[simp] theorem State.group_setG_ne (g : Group) {i : Nat} (h : i ≠ s.cur.gid) : (s.setG g).group i = s.group i := by
  simp [State.group, h]
@[simp] theorem State.group_setGroup_self (i : Nat) (g : Group) : (s.setGroup i g).group i = g := by
  simp [State.group, State.setGroup]
@[simp] theorem State.group_setGroup_ne {i j : Nat} (g : Group) (h : j ≠ i) : (s.setGroup i g).group j = s.group j := by
  simp [State.group, State.setGroup, h]
@[simp] theorem State.setG_setG (g h : Group) : (s.setG g).setG h = s.setG h := by simp [State.setG]
@[simp] theorem State.e_setE (e : Entry) : (s.setE e).e = e := by simp [State.e, State.setE, Group.ent, Group.setEnt]
@[simp] theorem State.g_setE (e : Entry) : (s.setE e).g = s.g.setEnt s.cur.ent e := by simp [State.setE]
@[simp] theorem State.block_setBlock_self (i : Nat) (b : Block) : (s.setBlock i b).block i = b := by
  simp [State.block, State.setBlock]
@[simp] theorem State.block_setBlock_ne {i j : Nat} (b : Block) (h : j ≠ i) : (s.setBlock i b).block j = s.block j := by
  simp [State.block, State.setBlock, h]
@[simp] theorem State.ring_setRing_self (i : Nat) (c : Ring) : (s.setRing i c).ring i = c := by
  simp [State.ring, State.setRing]
@[simp] theorem State.ring_setRing_ne {i j : Nat} (c : Ring) (h : j ≠ i) : (s.setRing i c).ring j = s.ring j := by
  simp [State.ring, State.setRing, h]
@[simp] theorem State.ctx_setCtx_self (i n : Nat) (c : Ctx) (h : n < 256) : (s.setCtx i n c).ctx i n = c := by
  simp [State.ctx, State.setCtx, h]
@[simp] theorem State.copy_setCopy_self (u l : Nat) (c : Copy) : (s.setCopy u l c).copy u l = c := by
  simp [State.copy, State.setCopy]
@[simp] theorem State.memByte_setMemByte_self (a : Nat) (b : Byte) : (s.setMemByte a b).memByte a = b := by
  simp [State.memByte, State.setMemByte]
@[simp] theorem State.memByte_setMemByte_ne {a c : Nat} (b : Byte) (h : c ≠ a) :
    (s.setMemByte a b).memByte c = s.memByte c := by simp [State.memByte, State.setMemByte, h]

end

section
variable (g : Group) (e : Entry)

@[simp] theorem Group.ent_setEnt_self (i : Nat) : (g.setEnt i e).ent i = e := by simp [Group.ent, Group.setEnt]
@[simp] theorem Group.ent_setEnt_ne {i j : Nat} (h : j ≠ i) : (g.setEnt i e).ent j = g.ent j := by
  simp [Group.ent, Group.setEnt, h]

end

section
variable (g : Group) (i : Nat) (e : Entry)

@[simp] theorem Group.live_setEnt : (g.setEnt i e).live = g.live := rfl
@[simp] theorem Group.kind_setEnt : (g.setEnt i e).kind = g.kind := rfl
@[simp] theorem Group.bid_setEnt : (g.setEnt i e).bid = g.bid := rfl
@[simp] theorem Group.gix_setEnt : (g.setEnt i e).gix = g.gix := rfl
@[simp] theorem Group.v_setEnt : (g.setEnt i e).v = g.v := rfl
@[simp] theorem Group.p_setEnt : (g.setEnt i e).p = g.p := rfl
@[simp] theorem Group.s_setEnt : (g.setEnt i e).s = g.s := rfl
@[simp] theorem Group.helper_setEnt : (g.setEnt i e).helper = g.helper := rfl
@[simp] theorem Group.exited_setEnt : (g.setEnt i e).exited = g.exited := rfl
@[simp] theorem Group.defer_setEnt : (g.setEnt i e).defer = g.defer := rfl
@[simp] theorem Group.recs_setEnt : (g.setEnt i e).recs = g.recs := rfl
@[simp] theorem Group.sr_setEnt : (g.setEnt i e).sr = g.sr := rfl
@[simp] theorem Group.mig_setEnt : (g.setEnt i e).mig = g.mig := rfl
@[simp] theorem Group.sweep_setEnt : (g.setEnt i e).sweep = g.sweep := rfl
@[simp] theorem Group.sweep0_setEnt : (g.setEnt i e).sweep0 = g.sweep0 := rfl
@[simp] theorem Group.keep_setEnt : (g.setEnt i e).keep = g.keep := rfl
@[simp] theorem Group.syncm_setEnt : (g.setEnt i e).syncm = g.syncm := rfl
@[simp] theorem Group.hnd_setEnt : (g.setEnt i e).hnd = g.hnd := rfl
@[simp] theorem Group.hdr_setEnt : (g.setEnt i e).hdr = g.hdr := rfl
@[simp] theorem Group.cow_setEnt : (g.setEnt i e).cow = g.cow := rfl
@[simp] theorem Group.pend_setEnt : (g.setEnt i e).pend = g.pend := rfl
@[simp] theorem Group.onRings_setEnt : (g.setEnt i e).onRings = g.onRings := rfl
@[simp] theorem Group.mmacN_setEnt : (g.setEnt i e).mmacN = g.mmacN := rfl
@[simp] theorem Group.mmacAt_setEnt : (g.setEnt i e).mmacAt = g.mmacAt := rfl
@[simp] theorem Group.hdone_setEnt : (g.setEnt i e).hdone = g.hdone := rfl
@[simp] theorem Group.forced_setEnt : (g.setEnt i e).forced = g.forced := rfl
@[simp] theorem Group.frozen_setEnt : (g.setEnt i e).frozen = g.frozen := rfl

end

end Sys2Proof.Machine
end

