-- ==== Sys2Proof/Laws/Exec.lean ====
section
/-! SUPPORT. What a meaning comes to: the next state of an outcome, and the shared operations that write a register
and go on at the next word. -/

namespace Sys2Proof.Machine

/-! ### Going on -/

section
variable (s : State)

theorem State.advance_eq (pc : PC) : s.advance pc = s.setG (s.g.setEnt s.cur.ent (s.e.onAt pc s.clock)) := rfl

/-- A meaning that has rewritten its own group and goes on. -/
theorem commit_ok_setG (g : Group) : commit (.ok (s.setG g)) =
    .next (s.setG (g.setEnt s.cur.ent ((g.ent s.cur.ent).onAt s.next s.clock))) := by
  simp [commit, Eff.state, State.advance_eq, State.e]

theorem commit_jump_setG (g : Group) (pc : PC) : commit (.jump pc (s.setG g)) =
    .next (s.setG (g.setEnt s.cur.ent ((g.ent s.cur.ent).onAt pc s.clock))) := by
  simp [commit, Eff.state, State.advance_eq, State.e]

theorem commit_ok : commit (.ok s) = .next (s.setG (s.g.setEnt s.cur.ent (s.e.onAt s.next s.clock))) := rfl

theorem commit_jump (pc : PC) : commit (.jump pc s) = .next (s.setG (s.g.setEnt s.cur.ent (s.e.onAt pc s.clock))) := rfl

theorem commit_trap (t : Trap) : commit (.trap t s) = .next ((s.takeTrap s.here t).failed t) := rfl

end

/-! ### Frames -/

theorem SameMemory.refl (s : State) : SameMemory s s := ⟨fun _ => rfl, fun _ _ => rfl, fun _ _ => rfl, rfl, fun _ => rfl, rfl, fun _ _ => rfl⟩

/-- Rewriting the executing group changes nothing else. -/
theorem onlyGroup_setG (s : State) (g : Group) : OnlyGroup s (s.setG g) :=
  ⟨rfl, fun _ h => s.group_setG_ne g h, ⟨fun _ => rfl, fun _ _ => rfl, fun _ _ => rfl, rfl, fun _ => rfl, rfl, fun _ _ => rfl⟩⟩

theorem went_setG (s : State) (g : Group) (pc : PC) (h : g.tab = s.g.tab) :
    Went s (s.setG (g.setEnt s.cur.ent ((g.ent s.cur.ent).onAt pc s.clock))) pc := by
  have he : ∀ i, g.ent i = s.g.ent i := fun i => by simp [Group.ent, h]
  refine ⟨?_, fun i hi => ?_⟩
  · simp [State.e, he]
  · simp [Group.ent_setEnt_ne _ _ hi, he]

/-- A transfer of control. -/
theorem moves_jump {i : Instr} {s : State} {pc : PC} (h : exec i s = commit (.jump pc s)) : Moves i s pc :=
  ⟨_, h.trans (commit_jump s pc), onlyGroup_setG _ _, went_setG s s.g pc rfl, by simp [Group.setEnt]⟩

theorem moves_ok {i : Instr} {s : State} (h : exec i s = commit (.ok s)) : Moves i s s.next := moves_jump h

/-! ### Scalar results -/

/-- Writing a scalar register and going on. -/
theorem setS_writeS (s : State) (d : Nat) (x : Word64) (pc : PC) :
    SetS s ((s.writeS d x).advance pc) d x pc ∧ OnlyGroup s ((s.writeS d x).advance pc) := by
  by_cases hd : d < 61
  · have hw : s.writeS d x = s.setG { s.g with s := s.g.s.set 0 d x } := by simp [State.writeS, hd]
    rw [hw, State.advance_eq]
    simp only [State.setG_setG, State.g_setG, State.cur_setG, State.clock_setG, State.e]
    refine ⟨⟨fun _ => ⟨by simp, ?_⟩, fun h => by omega, fun r hr => ?_, by simp [Group.setEnt]⟩, onlyGroup_setG _ _⟩
    · exact went_setG s { s.g with s := s.g.s.set 0 d x } pc rfl
    · rcases hr with hr | hr
      · simp [hr]
      · omega
  · have hw : s.writeS d x = s.setE (s.e.writeMask (d - 61) x) := by simp [State.writeS, hd]
    rw [hw, State.advance_eq]
    simp only [State.setE, State.setG_setG]
    exact ⟨⟨fun h => by omega, fun _ => ⟨by simp [State.e], fun i hi => by simp [hi]⟩, fun r _ => by simp [Group.setEnt],
      by simp [Group.setEnt]⟩, onlyGroup_setG _ _⟩

/-- What a scalar form does. -/
theorem setsS_scalar {i : Instr} {s : State} {d : Fin 64} {x : Word64} (h : exec i s = s.scalar d x) : SetsS i s d.val x := by
  have hn : (s.writeS d.val x).next = s.next := by unfold State.writeS; split <;> rfl
  have := setS_writeS s d.val x s.next
  refine ⟨(s.writeS d.val x).advance s.next, ?_, this.2, this.1⟩
  rw [h, State.scalar, commit, Eff.state, hn]

/-! ### Lane sets -/

theorem Mask.has_foldl (f : Nat → Bool) (l : Nat) (xs : List Lane) (m : Mask) :
    Mask.has (xs.foldl (fun m x => if f x.val then m ||| Mask.one x.val else m) m) l =
      (Mask.has m l || decide (l < 96) && f l && decide (∃ x ∈ xs, x.val = l)) := by
  induction xs generalizing m with
  | nil => simp
  | cons x t ih =>
    rw [List.foldl_cons, ih]
    have h1 : Mask.has (Mask.one x.val) l = (decide (l < 96) && decide (x.val = l)) := by
      simp only [Mask.has, Mask.one, BitVec.getLsbD_shiftLeft, BitVec.getLsbD_one]
      rcases Nat.lt_trichotomy l x.val with h | h | h
      · have : x.val ≠ l := by omega
        simp [h, this]
      · subst h; simp
      · have h2 : l - x.val ≠ 0 := by omega
        have : x.val ≠ l := by omega
        simp [h2, this]
    by_cases hx : f x.val
    · simp only [hx, if_true]
      have : Mask.has (m ||| Mask.one x.val) l = (Mask.has m l || Mask.has (Mask.one x.val) l) := by
        simp [Mask.has]
      rw [this, h1]
      by_cases hl : x.val = l
      · subst hl; simp [hx]
      · simp [hl]
    · simp only [hx]
      by_cases hl : x.val = l
      · subst hl; simp [hx]
      · simp [hl]

theorem Mask.has_ofFn (f : Nat → Bool) (l : Nat) (h : l < 96) : Mask.has (Mask.ofFn f) l = f l := by
  have : ∃ x ∈ lanes, x.val = l := ⟨⟨l, h⟩, by simp [lanes], rfl⟩
  rw [Mask.ofFn, Mask.has_foldl]
  simp [h, this, Mask.has]

/-! ### Lane-wise results -/

@[simp] theorem Row.at_ofFn (f : Lane → Word32) (l : Nat) (h : l < 96) : (Row.ofFn f).at l = f ⟨l, h⟩ := by
  simp [Row.at, Row.ofFn, h]

@[simp] theorem Row.at_merge (m : Mask) (r : Row) (f : Lane → Word32) (l : Nat) (h : l < 96) :
    (Row.merge m r f).at l = if Mask.has m l then f ⟨l, h⟩ else r.at l := by simp [Row.merge, h]

/-- v-registers d to d + n - 1 of a group took f in the lanes of m. -/
structure TookV (g : Group) (m : Mask) (d n : Nat) (f : Nat → Lane → Word32) (v : Store Row) : Prop where
  value : ∀ k < n, v.get Row.zero (d + k) = Row.merge m (g.v.get Row.zero (d + k)) (f k)
  others : ∀ r, r < d ∨ d + n ≤ r → v.get Row.zero r = g.v.get Row.zero r

/-- One write of a register extends what a group has taken. -/
theorem TookV.step {g : Group} {m : Mask} {d n : Nat} {f : Nat → Lane → Word32} {v : Store Row} (hh : TookV g m d n f v) :
    TookV g m d (n + 1) f (v.set Row.zero (d + n) (Row.merge m (v.get Row.zero (d + n)) (f n))) where
  value k hk := by
    by_cases hkn : k = n
    · subst hkn; simp [hh.others (d + k) (Or.inr (Nat.le_refl _))]
    · rw [Store.get_set_ne _ _ _ (by omega), hh.value k (by omega)]
  others r hr := by rw [Store.get_set_ne _ _ _ (by omega), hh.others r (by omega)]

theorem TookV.none (g : Group) (m : Mask) (d : Nat) (f : Nat → Lane → Word32) : TookV g m d 0 f g.v :=
  ⟨by simp, fun _ _ => rfl⟩

theorem writeVs_succ (s : State) (m : Mask) (d n : Nat) (f : Nat → Lane → Word32) :
    s.writeVs m d (n + 1) f = (s.writeVs m d n f).writeV m (d + n) (f n) := by
  simp [State.writeVs, List.range_succ]

theorem setG_v_writeV (s : State) (m : Mask) (r : Nat) (f : Lane → Word32) (v : Store Row) :
    (s.setG { s.g with v := v }).writeV m r f = s.setG { s.g with v := v.set Row.zero r (Row.merge m (v.get Row.zero r) f) } := by
  simp [State.writeV]

/-- Writing n + 1 registers in the lanes of m. -/
theorem writeVs_tookV (s : State) (m : Mask) (d n : Nat) (f : Nat → Lane → Word32) :
    ∃ v, s.writeVs m d (n + 1) f = s.setG { s.g with v := v } ∧ TookV s.g m d (n + 1) f v := by
  induction n with
  | zero => exact ⟨_, rfl, (TookV.none s.g m d f).step⟩
  | succ n ih =>
    obtain ⟨v, h, ht⟩ := ih
    exact ⟨_, by rw [writeVs_succ, h, setG_v_writeV], ht.step⟩

theorem lowWord (x : Nat) : (BitVec.ofNat 64 x).truncate 32 = BitVec.ofNat 32 (x / 2 ^ (32 * 0)) := by
  apply BitVec.eq_of_toNat_eq
  simp

theorem highWord (x : Nat) : (BitVec.ofNat 64 x).extractLsb' 32 32 = BitVec.ofNat 32 (x / 2 ^ (32 * 1)) := by
  apply BitVec.eq_of_toNat_eq
  simp only [BitVec.extractLsb'_toNat, BitVec.toNat_ofNat, Nat.shiftRight_eq_div_pow]
  omega

/-- A lane-wise write is a write of one register, or of a pair. -/
theorem writeLanes_eq (s : State) (signed : Bool) (w : Nat) (d : Fin 96) (f : Nat → Nat) :
    s.writeLanes signed w d f = s.writeVs s.active d.val (regCount w) fun k l => regWord signed w (f l.val) k := by
  by_cases h : w = 64
  · simp only [State.writeLanes, State.writeVs, State.writeV64, regCount, regWord, h, if_true, lowWord, highWord]
    rfl
  · simp only [State.writeLanes, State.writeVs, regCount, regWord, h, if_false]
    rfl

/-- A write of registers, flags, and on to the next word. -/
theorem setsV_of {i : Instr} {s : State} {m : Mask} {d n : Nat} {f : Nat → Nat → Word32} {fl : Flags}
    (h : exec i s = commit (.ok ((s.writeVs m d (n + 1) fun k l => f k l.val).orFlags fl))) :
    SetsV i s m d (n + 1) f fl := by
  obtain ⟨v, hw, ht⟩ := writeVs_tookV s m d n fun k l => f k l.val
  have hf : (s.setG { s.g with v := v }).orFlags fl =
      s.setG { s.g with v := v, sr := { s.g.sr with fpstat := s.g.sr.fpstat ||| fl } } := by
    by_cases h0 : fl = 0
    · simp [State.orFlags, h0]
    · simp only [State.orFlags, if_neg h0, State.g_setG, State.setG_setG]
  rw [hw, hf, commit_ok_setG] at h
  refine ⟨_, h, onlyGroup_setG _ _, went_setG s _ _ rfl, ⟨fun k hk l hl => ?_, fun r hr => ?_, by simp⟩, by simp [Group.setEnt]⟩
  · simp [ht.value k hk, hl]
  · simpa using ht.others r hr

/-- A write of a predicate, flags, and on to the next word. -/
theorem setsP_of {i : Instr} {s : State} {p : Nat} {f : Nat → Bool} {fl : Flags}
    (h : exec i s = commit (.ok ((s.writeP s.active p f).orFlags fl))) : SetsP i s p f fl := by
  obtain ⟨q, hw, hq⟩ : ∃ q, s.writeP s.active p f = s.setG { s.g with p := s.g.p.set 0 p q } ∧
      ∀ l < 96, Mask.has q l = if Mask.has s.active l then f l else Mask.has (s.g.p.get 0 p) l := by
    refine ⟨_, rfl, fun l hl => ?_⟩
    simp only [Mask.has, BitVec.getLsbD_or, BitVec.getLsbD_and, BitVec.getLsbD_not, hl, decide_true, Bool.true_and]
    have := Mask.has_ofFn f l hl
    simp only [Mask.has] at this
    rw [this]
    by_cases hb : s.active.getLsbD l = true <;> simp [hb]
  have hf : (s.setG { s.g with p := s.g.p.set 0 p q }).orFlags fl =
      s.setG { s.g with p := s.g.p.set 0 p q, sr := { s.g.sr with fpstat := s.g.sr.fpstat ||| fl } } := by
    by_cases h0 : fl = 0
    · simp [State.orFlags, h0]
    · simp only [State.orFlags, if_neg h0, State.g_setG, State.setG_setG]
  rw [hw, hf, commit_ok_setG] at h
  refine ⟨_, h, onlyGroup_setG _ _, went_setG s _ _ rfl, fun l hl => ?_, fun r hr => ?_, by simp, by simp [Group.setEnt]⟩
  · simpa using hq l hl
  · simp [hr]

/-- What a lane-wise form with flags does. -/
theorem setsLanes_of {i : Instr} {s : State} {signed : Bool} {w : Nat} {d : Fin 96} {f : Nat → Nat × Flags}
    (h : exec i s = commit (.ok ((s.writeLanes signed w d fun l => (f l).1).orFlags (s.laneFlags fun l => (f l).2)))) :
    SetsLanes i s signed w d f := by
  rw [writeLanes_eq] at h
  unfold SetsLanes
  by_cases hw : w = 64
  · simp only [regCount, hw, if_true] at h ⊢; exact setsV_of h
  · simp only [regCount, hw, if_false] at h ⊢; exact setsV_of h

/-- What a lane-wise form without flags does. -/
theorem setsInts_of {i : Instr} {s : State} {signed : Bool} {w : Nat} {d : Fin 96} {f : Nat → Nat}
    (h : exec i s = commit (.ok (s.writeLanes signed w d f))) : SetsInts i s signed w d f := by
  have h0 : ∀ t : State, t.orFlags 0 = t := fun t => rfl
  rw [writeLanes_eq, ← h0 (s.writeVs _ _ _ _)] at h
  unfold SetsInts
  by_cases hw : w = 64
  · simp only [regCount, hw, if_true] at h ⊢; exact setsV_of h
  · simp only [regCount, hw, if_false] at h ⊢; exact setsV_of h

end Sys2Proof.Machine
end

