-- ==== Sys2Proof/Laws/Memory.lean ====
section
/-! SUPPORT. What the operations on memory can do, said once: a fact about the state that no write of a byte of memory
and no change of a copy, buffer, predictor, time counter or dirty set touches is kept by every one of them. Two such
facts: the memories keep their canonical form, and nothing outside the memory system differs. -/

namespace Sys2Proof.Machine

/-- A fact that only what lies outside the memory system can touch. -/
structure MemSafe (P : State → Prop) : Prop where
  byte : ∀ s a b, P s → P (s.setMemByte a b)
  errors : ∀ s b l m, (s.bad = [] → b = []) → P s → P { s with bad := b, latent := l, met := m }
  coh : ∀ s c, P s → P { s with coh := c }
  times : ∀ s t, P s → P { s with times := t }
  dqs : ∀ s q, P s → P { s with dqs := q }
  l1 : ∀ s c, P s → P { s with l1 := c }
  wtq : ∀ s q, P s → P { s with wtq := q }
  pred : ∀ s p l, P s → P { s with pred := p, lastAth := l }

theorem foldl_keeps {α β : Type} {P : β → Prop} (f : β → α → β) (h : ∀ s x, P s → P (f s x)) (l : List α) {s : β}
    (hs : P s) : P (l.foldl f s) := by
  induction l generalizing s with
  | nil => exact hs
  | cons x t ih => exact ih (h s x hs)

namespace MemSafe

variable {P : State → Prop} (h : MemSafe P) {s : State}

include h

theorem setMemBytes (a : Nat) (bs : List Byte) (hs : P s) : P (s.setMemBytes a bs) := by
  induction bs generalizing s a with
  | nil => exact hs
  | cons b t ih => exact ih _ (h.byte _ _ _ hs)

theorem setHbmLine (n asid : Nat) (d : Line) (hs : P s) : P (s.setHbmLine n asid d) := by
  unfold State.setHbmLine State.setMemLine
  exact h.setMemBytes _ _ hs

theorem sound (n : Nat) (m : BitVec 128) (hs : P s) : P (s.sound n m) := by
  unfold State.sound
  split
  · exact h.errors _ _ _ _ (fun e => by rw [e]; rfl) hs
  · exact hs

theorem meetFill (n : Nat) (hs : P s) : P (s.meetFill n) := by
  unfold State.meetFill
  split
  · exact hs
  · exact h.errors _ _ _ _ id hs

theorem setHbmByte (a asid : Nat) (b : Byte) (hs : P s) : P (s.setHbmByte a asid b) := h.setHbmLine _ _ _ hs

theorem setWindowByte (w : Window) (asid n j : Nat) (v : Byte) (hs : P s) : P (s.setWindowByte w asid n j v) := by
  unfold State.setWindowByte
  dsimp only
  split
  · exact hs
  · split
    · split
      · exact h.setHbmByte _ _ _ hs
      · exact h.setHbmByte _ _ _ hs
    · exact h.setHbmByte _ _ _ hs

theorem writeBackPlain (n asid : Nat) (d : Line) (hs : P s) : P (s.writeBackPlain n asid d) := by
  unfold State.writeBackPlain
  split
  · exact h.setHbmLine _ _ _ hs
  · exact hs
  · exact h.setMemBytes _ _ hs

theorem setCopy (u n : Nat) (c : Copy) (hs : P s) : P (s.setCopy u n c) := h.coh _ _ hs

theorem carryTime (u v : Nat) (hs : P s) : P (s.carryTime u v) := by
  unfold State.carryTime
  dsimp only
  split_ifs
  · exact h.times _ _ hs
  · exact hs

theorem homeRead (n asid : Nat) (hs : P s) : P (s.homeRead n asid).1 := by
  unfold State.homeRead
  split
  · dsimp only
    split_ifs
    · exact hs
    · exact h.setCopy _ _ _ (h.meetFill _ hs)
  · exact hs

theorem homeMerge (n asid : Nat) (d : Line) (m : BitVec 128) (hs : P s) : P (s.homeMerge n asid d m) := by
  unfold State.homeMerge
  split_ifs
  · exact hs
  · split
    · exact h.setCopy _ _ _ (h.homeRead _ _ hs)
    · exact h.setMemBytes _ _ hs

theorem toHome (n : Nat) (hs : P s) : P (s.toHome n) := by
  unfold State.toHome
  dsimp only
  split_ifs
  · exact hs
  · exact h.setCopy _ _ _ (h.homeMerge _ _ _ _ hs)

theorem invalidateOthers (p : Nat) (keep : Nat → Bool) (n : Nat) (hs : P s) : P (s.invalidateOthers p keep n) := by
  have ho := foldl_keeps (P := P) (fun (s : State) (u : Nat) => s.setCopy u n Copy.empty) (fun _ _ hs => h.setCopy _ _ _ hs)
    (s.others p keep n) hs
  unfold State.invalidateOthers
  dsimp only
  split_ifs
  · exact ho
  · exact foldl_keeps _ (fun _ _ hs => h.setCopy _ _ _ hs) _ (h.setCopy _ _ _ ho)

theorem receive (c p n : Nat) (d : Line) (m : BitVec 128) (hs : P s) : P (s.receive c p n d m) := by
  unfold State.receive
  dsimp only
  split_ifs
  · exact h.toHome _ (h.invalidateOthers _ _ _ (h.setCopy _ _ _ hs))
  · exact h.invalidateOthers _ _ _ (h.setCopy _ _ _ hs)

theorem raise (c p n : Nat) (hs : P s) : P (s.raise c p n) := by
  unfold State.raise
  dsimp only
  split_ifs
  · exact hs
  · exact h.receive _ _ _ _ _ (h.setCopy _ _ _ hs)

theorem publish (c p n : Nat) (hs : P s) : P (s.publish c p n) := by
  unfold State.publish
  split_ifs
  · exact hs
  · exact h.carryTime _ _ (h.raise _ _ _ (h.carryTime _ _ hs))

theorem gather (n f p : Nat) (hs : P s) : P (State.gather n f p s) := by
  induction f generalizing s p with
  | zero => exact hs
  | succ f ih =>
    unfold State.gather
    split
    · exact hs
    · split_ifs
      · exact h.raise _ _ _ (ih _ hs)
      · exact hs

theorem fetch (n asid : Nat) (path : List Nat) (hs : P s) : P (State.fetch n asid path s) := by
  induction path generalizing s with
  | nil => exact hs
  | cons u rest ih =>
    unfold State.fetch
    split_ifs
    · exact hs
    · split
      · exact h.setCopy _ _ _ (h.homeRead _ _ hs)
      · exact h.setCopy _ _ _ (h.gather _ _ _ (ih hs))

theorem request (k n asid : Nat) (hs : P s) : P (s.request k n asid) := by
  unfold State.request
  dsimp only
  split_ifs
  · exact hs
  · exact h.carryTime _ _ (h.fetch _ _ _ hs)

theorem carryUp (n asid f : Nat) (path : List Nat) (hs : P s) : P (State.carryUp n asid f path s) := by
  induction f generalizing s path with
  | zero => exact hs
  | succ f ih =>
    rcases path with _ | ⟨c, _ | ⟨p, rest⟩⟩
    · exact hs
    · exact hs
    · exact ih _ (h.publish _ _ _ (h.fetch _ _ _ hs))

theorem setOwners (n f : Nat) (path : List Nat) (hs : P s) : P (State.setOwners n f path s) := by
  induction f generalizing s path with
  | zero => exact hs
  | succ f ih =>
    rcases path with _ | ⟨c, _ | ⟨p, rest⟩⟩
    · exact hs
    · exact hs
    · exact ih _ (h.setCopy _ _ _ hs)

theorem obtain' (n asid d k : Nat) (hs : P s) : P (State.obtain n asid d k s) := by
  have hc := h.carryUp n asid d (cluPath k) (h.request k n asid hs)
  unfold State.obtain
  dsimp only
  split_ifs
  · exact hc
  · exact h.setOwners _ _ _ (h.invalidateOthers _ _ _ hc)

theorem putBytes (n k : Nat) (path : List Nat) (d : Line) (m : BitVec 128) (hs : P s) :
    P (State.putBytes n k path d m s) := by
  have hf := foldl_keeps (P := P) (fun (s : State) (u : Nat) =>
    s.setCopy u n { s.copy u n with data := mergeBytes (s.copy u n).data d m })
    (fun _ _ hs => h.setCopy _ _ _ hs) (path.take (k + 1)) hs
  unfold State.putBytes
  dsimp only
  split_ifs
  · exact h.toHome _ (h.setCopy _ _ _ hf)
  · exact h.setCopy _ _ _ hf

theorem noteDirty (k asid : Nat) (hs : P s) : P (s.noteDirty k asid) := by
  unfold State.noteDirty
  split_ifs
  · exact hs
  · exact h.dqs _ _ hs

theorem writeLine (k : Nat) (x : Scope) (asid n : Nat) (d : Line) (m : BitVec 128) (hs : P s) :
    P (s.writeLine k x asid n d m) := h.putBytes _ _ _ _ _ (h.obtain' _ _ _ _ (h.noteDirty _ _ hs))

theorem writeFrom (k : Nat) (x : Scope) (asid a : Nat) (bs : List Byte) (hs : P s) : P (s.writeFrom k x asid a bs) :=
  h.writeLine _ _ _ _ _ _ hs

theorem readFrom (k asid a n : Nat) (hs : P s) : P (s.readFrom k asid a n).1 := h.request _ _ _ hs

theorem recallHome (n asid : Nat) (hs : P s) : P (s.recallHome n asid) :=
  h.setCopy _ _ _ (h.toHome _ (h.invalidateOthers _ _ _ (h.gather _ _ _ (h.fetch _ _ _ hs))))

theorem readPkg (asid a n : Nat) (hs : P s) : P (s.readPkg asid a n).1 := by
  unfold State.readPkg
  dsimp only
  split_ifs
  · exact h.gather _ _ _ hs
  · exact h.homeRead _ _ hs

theorem writePkg (asid a : Nat) (bs : List Byte) (hs : P s) : P (s.writePkg asid a bs) :=
  h.homeMerge _ _ _ _ (h.recallHome _ _ hs)

theorem readPkgs (asid a n : Nat) (hs : P s) : P (s.readPkgs asid a n).1 := by
  induction n generalizing s a with
  | zero => exact hs
  | succ n ih => exact ih _ (h.readPkg asid a 1 hs)

theorem writePkgs (asid a : Nat) (bs : List Byte) (hs : P s) : P (s.writePkgs asid a bs) := by
  induction bs generalizing s a with
  | nil => exact hs
  | cons b t ih => exact ih _ (h.writePkg _ _ _ hs)

theorem l1Merge (c n : Nat) (d : Line) (m : BitVec 128) (hs : P s) : P (s.l1Merge c n d m) := by
  unfold State.l1Merge
  dsimp only
  split_ifs
  · exact h.l1 _ _ hs
  · exact hs

theorem l1Put (c a : Nat) (bs : List Byte) (hs : P s) : P (s.l1Put c a bs) := h.l1Merge _ _ _ _ hs

theorem acceptWt (e : WtEntry) (hs : P s) : P (s.acceptWt e) := h.l1Merge _ _ _ _ (h.writeLine _ _ _ _ _ _ hs)

theorem acceptAll (q : List WtEntry) (hs : P s) : P (s.acceptAll q) := foldl_keeps _ (fun _ _ hs => h.acceptWt _ hs) _ hs

theorem drainCore (c : Nat) (hs : P s) : P (s.drainCore c) := h.acceptAll _ (h.wtq _ _ hs)

theorem wtOne (c : Nat) (hs : P s) : P (s.wtOne c) := by
  unfold State.wtOne
  split
  · exact hs
  · exact h.acceptWt _ (h.wtq _ _ hs)

theorem issueStore (e : WtEntry) (hs : P s) : P (s.issueStore e) := by
  have hd : P (if s.pendingStores e.gid < 1023 then s else s.drainCore e.core) := by
    split_ifs
    · exact hs
    · exact h.drainCore _ hs
  exact h.l1Merge _ _ _ _ (h.wtq _ _ hd)

theorem loadCore (c asid a n : Nat) (y : Bool) (hs : P s) : P (s.loadCore c asid a n y).1 := by
  unfold State.loadCore
  dsimp only
  split_ifs
  · exact hs
  · exact h.l1 _ _ (h.request _ _ _ hs)

theorem flushL1 (c : Nat) (hs : P s) : P (s.flushL1 c) := h.l1 _ _ hs

theorem publishAll (c p : Nat) (rest : List Nat) (hs : P s) : P (s.publishAll c p rest) :=
  foldl_keeps _ (fun _ _ hs => h.publish _ _ _ (h.fetch _ _ _ hs)) _ hs

theorem drainPath (f : Nat) (path : List Nat) (hs : P s) : P (State.drainPath f path s) := by
  induction f generalizing s path with
  | zero => exact hs
  | succ f ih =>
    rcases path with _ | ⟨c, _ | ⟨p, rest⟩⟩
    · exact hs
    · exact hs
    · exact ih _ (h.publishAll _ _ _ hs)

theorem drain (k : Nat) (y : Scope) (hs : P s) : P (s.drain k y) :=
  foldl_keeps _ (fun _ _ hs => h.carryTime _ _ hs) _ (h.drainPath _ _ hs)

theorem predict (k a : Nat) (ath r : Bool) (hs : P s) : P (s.predict k a ath r) := h.pred _ _ _ hs

theorem rmwHome (asid a n : Nat) (f : List Byte → List Byte) (hs : P s) : P (s.rmwHome asid a n f).1 :=
  h.homeMerge _ _ _ _ (h.homeRead _ _ (h.recallHome _ _ hs))

theorem rmwOwned (k : Nat) (x : Scope) (asid a n : Nat) (f : List Byte → List Byte) (hs : P s) :
    P (s.rmwOwned k x asid a n f).1 := h.putBytes _ _ _ _ _ (h.obtain' _ _ _ _ (h.noteDirty _ _ hs))

theorem atomicFrom (k : Nat) (x : Scope) (asid a n : Nat) (f : List Byte → List Byte) (hs : P s) :
    P (s.atomicFrom k x asid a n f).1 := by
  unfold State.atomicFrom
  split_ifs
  · exact h.carryTime _ _ (h.rmwHome _ _ _ _ (h.predict _ _ _ _ hs))
  · exact h.rmwOwned _ _ _ _ _ _ (h.predict _ _ _ _ hs)
  · exact h.rmwOwned _ _ _ _ _ _ hs

theorem unlist (n : Nat) (path : List Nat) (hs : P s) : P (State.unlist n path s) := by
  induction path generalizing s with
  | nil => exact hs
  | cons c t ih =>
    rcases t with _ | ⟨p, rest⟩
    · exact hs
    · unfold State.unlist
      dsimp only
      split_ifs
      · exact ih (h.setCopy _ _ _ hs)
      · exact ih (h.setCopy _ _ _ hs)
      · exact ih hs

theorem evictPlain (n : Nat) (hs : P s) : P (s.evictPlain n) := by
  unfold State.evictPlain
  split
  · exact hs
  · dsimp only
    split_ifs
    · exact hs
    · exact h.setCopy _ _ _ hs
    · exact h.setCopy _ _ _ (h.sound _ _ (h.writeBackPlain _ _ _ hs))

theorem recallPlain (n : Nat) (hs : P s) : P (s.recallPlain n) := by
  unfold State.recallPlain
  split_ifs
  · exact h.evictPlain _ (h.recallHome _ _ hs)
  · exact hs

theorem setHomeLine (n asid : Nat) (d : Line) (hs : P s) : P (s.setHomeLine n asid d) := by
  unfold State.setHomeLine
  split
  · exact foldl_keeps _ (fun _ _ hs => h.setWindowByte _ _ _ _ _ hs) _
      (foldl_keeps _ (fun _ _ hs => h.recallPlain _ hs) _ hs)
  · exact h.writeBackPlain _ _ _ hs

theorem evictLlc (n : Nat) (hs : P s) : P (s.evictLlc n) := by
  have hw : ∀ (s : State) (c : Copy) (u : Nat), P s →
      P ((if c.dirty = 0 then s else (s.setHomeLine n c.tag c.data).sound n c.dirty).setCopy u n Copy.empty) :=
    fun s c u hs => by
      split
      · exact h.setCopy _ _ _ hs
      · exact h.setCopy _ _ _ (h.sound _ _ (h.setHomeLine _ _ _ hs))
  unfold State.evictLlc
  split
  · exact hs
  · dsimp only
    split
    · exact hs
    · split
      · exact hw _ _ _ (h.recallHome _ _ hs)
      · exact hw _ _ _ hs

theorem toHost (n : Nat) (hs : P s) : P (s.toHost n) := by
  unfold State.toHost
  split
  · dsimp only
    split_ifs
    · exact hs
    · exact h.setCopy _ _ _ (h.setMemBytes _ _ hs)
  · exact hs

theorem evictCluster (k n : Nat) (hs : P s) : P (s.evictCluster k n) := by
  unfold State.evictCluster
  dsimp only
  split_ifs
  · exact hs
  · exact h.unlist _ _ (h.setCopy _ _ _ (h.toHost _ (h.toHome _ (h.carryUp _ _ _ _ hs))))

theorem recallLine (n : Nat) (hs : P s) : P (s.recallLine n) := by
  unfold State.recallLine
  split_ifs
  · exact h.evictLlc _ (h.recallHome _ _ hs)
  · exact hs

theorem recallEvery (n : Nat) (hs : P s) : P (s.recallEvery n) := h.l1 _ _ (h.recallLine _ hs)

end MemSafe

/-- The memories keep their canonical form. -/
theorem memWf_memSafe : MemSafe fun s => s.memWf = true where
  byte s a b hs := by
    simp only [State.memWf, Bool.and_eq_true] at hs ⊢
    exact ⟨Store.wf_set _ _ hs.1, hs.2⟩
  errors _ _ _ _ _ hs := hs
  coh _ _ hs := hs
  times _ _ hs := hs
  dqs _ _ hs := hs
  l1 _ _ hs := hs
  wtq _ _ hs := hs
  pred _ _ _ hs := hs

theorem MemOnly.refl (s : State) : MemOnly s s := ⟨rfl, fun _ => ⟨rfl, rfl, rfl, rfl, rfl, rfl⟩⟩

/-- Nothing outside the memory system differs. -/
theorem memOnly_memSafe (s0 : State) : MemSafe (MemOnly s0) where
  byte _ _ _ hs := ⟨by rw [hs.1]; rfl, hs.2⟩
  errors _ _ _ _ _ hs := ⟨by rw [hs.1], hs.2⟩
  coh _ _ hs := ⟨by rw [hs.1], hs.2⟩
  times _ _ hs := ⟨by rw [hs.1], hs.2⟩
  dqs _ _ hs := ⟨by rw [hs.1], hs.2⟩
  l1 _ _ hs := ⟨by rw [hs.1], hs.2⟩
  wtq _ _ hs := ⟨by rw [hs.1], hs.2⟩
  pred _ _ _ hs := ⟨by rw [hs.1], hs.2⟩

/-- The machine as it stands after reset has its memories in canonical form. -/
theorem memWf_reset : State.reset.memWf = true := rfl

/-- Writes of a vault's bytes keep the canonical form. -/
theorem memWf_setVault {s : State} (a : Nat) (b : Byte) (hs : s.memWf = true) :
    ({ s with vault := s.vault.set 0 a b } : State).memWf = true := by
  simp only [State.memWf, Bool.and_eq_true] at hs ⊢
  exact ⟨hs.1, Store.wf_set _ _ hs.2⟩

/-- So does keeping some of the bytes of memory, as a loss of power does, and of the vaults, as a scrub does. -/
theorem memWf_filter {s : State} (f g : Nat × Byte → Bool) (hs : s.memWf = true) :
    ({ s with mem := s.mem.filter f, vault := s.vault.filter g } : State).memWf = true := by
  simp only [State.memWf, Bool.and_eq_true] at hs ⊢
  exact ⟨Store.wf_filter f hs.1, Store.wf_filter g hs.2⟩

end Sys2Proof.Machine
end

