-- ==== Sys2Proof/Laws/Hw.lean ====
section
/-! SUPPORT. What hardware accesses to an address space, and the placing of a cohort, leave as it was. -/

namespace Sys2Proof.Machine

namespace MemSafe

variable {P : State → Prop} (h : MemSafe P) (ht : ∀ s q, P s → P { s with tlb := q }) {s : State}
include h

theorem walk (unit asid va lvl table : Nat) (hs : P s) : P (Machine.walk s unit asid va lvl table).1 := by
  induction lvl generalizing s table with
  | zero => exact hs
  | succ l ih =>
    unfold Machine.walk
    have hr := h.readPkg asid (table + va / 2 ^ (12 + 9 * l) % 512 * 8) 8 hs
    dsimp only
    split
    · exact hs
    · split_ifs <;> first | exact hr | exact ih _ hr

include ht

theorem translateIn (unit asid root va : Nat) (need : Need) (tw t2 : Bool) (hs : P s) :
    P (s.translateIn unit asid root va need tw t2).1 := by
  unfold State.translateIn
  have hw := h.walk unit asid (va % 2 ^ 57) 5 root hs
  split
  · exact hs
  · split
    · next heq => rw [heq] at hw; exact hw
    · next heq => rw [heq] at hw; exact ht _ _ hw

theorem hwMap (sp : Sp) (need : Need) (va n : Nat) (hs : P s) : P (Machine.hwMap sp need va n s).1 := by
  induction n generalizing s va with
  | zero => exact hs
  | succ n ih =>
    unfold Machine.hwMap
    have h1 := h.translateIn ht 576 sp.asid sp.root va need sp.twin sp.tier2 hs
    unfold State.spTranslate
    split
    · next heq =>
      rw [heq] at h1
      have h2 := ih (va + 1) h1
      split
      · next heq' => rw [heq'] at h2; exact h2
      · exact h2
    · next heq => rw [heq] at h1; exact h1

omit ht in
theorem readPas (asid : Nat) (l : List Nat) (hs : P s) : P (Machine.readPas asid l s).1 := by
  induction l generalizing s with
  | nil => exact hs
  | cons a t ih => exact ih (h.readPkg asid a 1 hs)

theorem hwRmw {sp : Sp} {va : Word64} {n : Nat} {need : Need} {f : List Byte → List Byte} {r : State × List Byte}
    (hs : P s) (hr : s.hwRmw sp va n need f = .ok r) : P r.1 := by
  unfold State.hwRmw at hr
  split at hr
  · cases hr
  · have h1 := h.hwMap ht sp need va.toNat n hs
    split at hr
    · next x _ => cases x <;> cases hr
    · next heq =>
      rw [heq] at h1
      split at hr
      · cases hr
      · cases hr
        have h2 := fun pas => h.readPas sp.asid pas (ht _ s.tlb h1)
        dsimp only
        split_ifs
        · exact h2 _
        · exact foldl_keeps _ (fun _ _ hs => h.writePkg _ _ _ hs) _ (h2 _)

theorem takeAreaFrom (sp : Sp) (map : Word64) (n f k : Nat) {r : State × Nat} (hs : P s)
    (hr : Machine.takeAreaFrom sp map n f k s = some r) : P r.1 := by
  induction f generalizing s k with
  | zero => cases hr
  | succ f ih =>
    unfold Machine.takeAreaFrom at hr
    dsimp only at hr
    split at hr
    · next heq =>
      have h1 := h.hwRmw ht hs heq
      split at hr
      · exact ih _ h1 hr
      · split at hr
        · next heq' => cases hr; exact h.hwRmw ht h1 heq'
        · cases hr
    · cases hr

theorem takeAreas (vi ctxn n : Nat) {r : State × List Nat} (hs : P s) (hr : Machine.takeAreas vi ctxn n s = some r) :
    P r.1 := by
  induction n generalizing s r with
  | zero => cases hr; exact hs
  | succ n ih =>
    unfold Machine.takeAreas at hr
    split at hr
    · cases hr
    · next heq =>
      split at hr
      · cases hr
      · next heq' =>
        cases hr
        have h1 := h.takeAreaFrom ht _ _ _ _ _ hs heq
        have h2 := ih h1 heq'
        exact h2

end MemSafe

/-- Placing a cohort touches the memory system, the cohort, its start records, its record batches and the cores'
occupancy, and nothing else of what a property P looks at. -/
theorem placeOn_keeps {P : State → Prop} (h : MemSafe P) (ht : ∀ s q, P s → P { s with tlb := q })
    (hc : ∀ s x, P s → P { s with cohorts := x }) (hb : ∀ s x, P s → P { s with batches := x })
    (ho : ∀ s x y z, P s → P { s with occ := x, mail := y, starts := z }) {s t : State} {vi n : Nat} {k : Kernel}
    {cores : List Nat} {mk : Nat → StartRec × List (List Byte)} (hs : P s) (hr : s.placeOn vi n k cores mk = some t) :
    P t := by
  unfold State.placeOn at hr
  dsimp only at hr
  split at hr
  · cases hr
  · split at hr
    · cases hr
    · next heq =>
      cases hr
      exact foldl_keeps _ (fun _ _ hs => ho _ _ _ _ (hb _ _ hs)) _ (hc _ _ (h.takeAreas ht _ _ _ hs heq))

/-- Launch records and packets stand while a cohort is placed. -/
theorem placeOn_records {s t : State} {vi n : Nat} {k : Kernel} {cores : List Nat}
    {mk : Nat → StartRec × List (List Byte)} (hr : s.placeOn vi n k cores mk = some t) :
    t.lrecs = s.lrecs ∧ t.pkts = s.pkts := by
  have hm : MemSafe fun u => u.lrecs = s.lrecs ∧ u.pkts = s.pkts :=
    ⟨fun _ _ _ hs => hs, fun _ _ _ _ _ hs => hs, fun _ _ hs => hs, fun _ _ hs => hs, fun _ _ hs => hs, fun _ _ hs => hs,
      fun _ _ hs => hs, fun _ _ _ hs => hs⟩
  exact placeOn_keeps hm (fun _ _ hs => hs) (fun _ _ hs => hs) (fun _ _ hs => hs) (fun _ _ _ _ hs => hs) ⟨rfl, rfl⟩ hr

end Sys2Proof.Machine
end

