-- ==== Sys2Proof/Laws/Save.lean ====
section
/-! SUPPORT. Fields of a group are written to its save area where every address of the area can be translated and no
line holds an uncorrectable error. -/

namespace Sys2Proof.Machine

/-- Only the memory system may differ, and cached translations and contexts do not, nor does a line go bad. -/
def SameTlb (s0 s : State) : Prop :=
  (s.tlb = s0.tlb ∧ s.ctxs = s0.ctxs ∧ (s0.bad = [] → s.bad = [])) ∧ MemOnly s0 s

theorem sameTlb_memSafe (s0 : State) : MemSafe (SameTlb s0) where
  byte s a b hs := ⟨hs.1, (memOnly_memSafe s0).byte s a b hs.2⟩
  errors s b l m hb hs := ⟨⟨hs.1.1, hs.1.2.1, fun h => hb (hs.1.2.2 h)⟩, (memOnly_memSafe s0).errors s b l m hb hs.2⟩
  coh s c hs := ⟨hs.1, (memOnly_memSafe s0).coh s c hs.2⟩
  times s t hs := ⟨hs.1, (memOnly_memSafe s0).times s t hs.2⟩
  dqs s q hs := ⟨hs.1, (memOnly_memSafe s0).dqs s q hs.2⟩
  l1 s c hs := ⟨hs.1, (memOnly_memSafe s0).l1 s c hs.2⟩
  wtq s q hs := ⟨hs.1, (memOnly_memSafe s0).wtq s q hs.2⟩
  pred s p l hs := ⟨hs.1, (memOnly_memSafe s0).pred s p l hs.2⟩

/-- A cached page of ready HBM that may be written translates its addresses for stores. -/
theorem translateIn_page {s0 s : State} {unit asid root va lg base : Nat} {t : TlbEntry} {rest : List TlbEntry}
    (hs : SameTlb s0 s) (hT : s0.tlb = t :: rest) (hu : t.unit = unit) (ha : t.asid = asid) (hv : t.va = base) (hl : t.lg = lg)
    (hb : va / 2 ^ lg * 2 ^ lg = base) (hw : t.w = true) (hp : t.pa + 2 ^ lg ≤ 2 ^ 36) (hf : s0.hbmFine = false)
    (hr : s0.rdymap.getLsbD 20 = true) (tw t2 : Bool) :
    ∃ pa, s.translateIn unit asid root va .store tw t2 = (s, .ok pa) := by
  have hfind : s.tlbFind unit asid va = some t := by
    simp [State.tlbFind, hs.1.1, hT, hu, ha, hv, hl, hb]
  have hf' : s.hbmFine = false := by rw [hs.2.1]; exact hf
  have hr' : s.rdymap.getLsbD 20 = true := by rw [hs.2.1]; exact hr
  have hlt : va % 2 ^ t.lg < 2 ^ lg := by rw [hl]; exact Nat.mod_lt _ (Nat.two_pow_pos lg)
  have hk : paKind s.hbmFine (t.pa + va % 2 ^ t.lg) = .hbm 0 := by
    have h1 : t.pa + va % 2 ^ t.lg < 2 ^ 36 := by omega
    have h2 : (t.pa + va % 2 ^ t.lg) / 2 ^ 36 = 0 := Nat.div_eq_of_lt h1
    have h3 : t.pa + va % 2 ^ t.lg < 2 ^ 39 := by omega
    simp only [paKind, hbmStack, hf', if_pos h3, h2]
    rfl
  refine ⟨t.pa + va % 2 ^ t.lg, ?_⟩
  simp [State.translateIn, hfind, State.pageAllows, State.rangeRefuses, hk, TlbEntry.grants, hw, State.paWait, hr']

theorem ctxWriteGo_ok {P : State → Prop} (hP : MemSafe P) {pcore : Nat} {sp : Sp} {lo hi : Nat}
    (ht : ∀ s va, P s → lo ≤ va → va < hi → ∃ pa, s.spTranslate pcore sp va .store = (s, .ok pa))
    (hbad : ∀ s, P s → s.bad = []) (f va : Nat) (bs : List Byte) (s : State) (hs : P s) (hb : bs = [] ∨ lo ≤ va ∧ va + bs.length ≤ hi) :
    ∃ t, ctxWriteGo pcore sp f va bs s = .ok t ∧ P t := by
  induction f generalizing va bs s with
  | zero => exact ⟨s, rfl, hs⟩
  | succ f ih =>
    unfold ctxWriteGo
    by_cases he : bs.isEmpty = true
    · exact ⟨s, by rw [if_pos he], hs⟩
    · have hne : bs ≠ [] := by simpa using he
      have hpos : 0 < bs.length := List.length_pos_iff.2 hne
      obtain ⟨hlo, hhi⟩ := hb.resolve_left hne
      obtain ⟨pa, hpa⟩ := ht s va hs hlo (by omega)
      rw [if_neg he]
      simp only [hpa, hbad s hs, List.contains_nil, Bool.false_and, Bool.false_eq_true, if_false]
      refine ih _ _ _ (hP.writePkg _ _ _ hs) ?_
      by_cases hm : bs.length ≤ 128 - va % 128
      · exact .inl (List.drop_eq_nil_of_le hm)
      · right
        rw [List.length_drop]
        omega

/-- Every field is written where its bytes lie in an area that translates. -/
theorem saveFlds_ok {P : State → Prop} (hP : MemSafe P) {pcore vi n lo hi : Nat} {g : Group}
    (ht : ∀ s va, P s → lo ≤ va → va < hi →
      ∃ pa, s.spTranslate pcore ((s.ctx vi n).sp (s.ctx vi n).asid.toNat) va .store = (s, .ok pa))
    (hc : ∀ s s', P s → P s' → s.ctx vi n = s'.ctx vi n) (hbad : ∀ s, P s → s.bad = []) (fs : List SaveFld)
    (hf : ∀ f ∈ fs, lo ≤ (g.sr.ctxsave + BitVec.ofNat 64 f.off).toNat ∧
      (g.sr.ctxsave + BitVec.ofNat 64 f.off).toNat + f.len ≤ hi) {s : State} (hs : P s) :
    ∃ t, s.saveFlds pcore vi n g fs = .ok t ∧ P t := by
  induction fs generalizing s with
  | nil => exact ⟨s, rfl, hs⟩
  | cons f fs ih =>
    have h1 := hf f (List.mem_cons_self ..)
    have ht' : ∀ s' va, P s' → lo ≤ va → va < hi → ∃ pa,
        s'.spTranslate pcore ((s.ctx vi n).sp (s.ctx vi n).asid.toNat) va .store = (s', .ok pa) := by
      intro s' va hs'
      rw [hc s s' hs hs']
      exact ht s' va hs'
    obtain ⟨t, htt, hPt⟩ := ctxWriteGo_ok hP ht' hbad
      ((toBytes f.len (f.get g)).length / 128 + 2) (g.sr.ctxsave + BitVec.ofNat 64 f.off).toNat (toBytes f.len (f.get g)) s hs
      (.inr ⟨h1.1, by simpa [toBytes] using h1.2⟩)
    obtain ⟨u, hu, hPu⟩ := ih (fun g hg => hf g (List.mem_cons_of_mem _ hg)) hPt
    refine ⟨u, ?_, hPu⟩
    rw [← hu]
    unfold State.saveFlds
    rw [List.foldl_cons]
    show List.foldl _ (s.ctxWrite pcore vi n _ _) fs = _
    unfold State.ctxWrite
    rw [htt]

end Sys2Proof.Machine
end

