-- ==== Sys2Proof/Tests/Slice0.lean ====
section
/-! SUPPORT. The model's own tests: the well-formedness checks refuse what they should, the words of the spec's examples
decode to their instructions, single steps give what the spec's examples give, and states that meet the hypotheses of
the statements exist. -/

set_option Elab.async false

namespace Sys2Proof.Tests

open Sys2Proof.Machine

/-! ### Well-formedness: one ill-formed term for each check -/

/-- Relaxed access at core scope. -/
def rlx : Acc := ⟨.core, .rlx⟩

/-- A legal MMA. -/
def mma0 : MmaF :=
  { x := 0, glob := false, sreg := 4, t := 0, ta := .bf16, tb := .bf16, tacc := false, bla := false, blb := false
    keep := false, e := 0, scope := .core, swz := none }

def mrd0 : MrwF := { v := 40, g := 1, t := 2, rnd := .rne, f := .bf16, tf64 := false }

theorem test_wf_accepts : ([.brd 1 ⟨1, 2⟩ ⟨5, true, ⟨2, 0⟩⟩, .vadd .s64 2 (.v 4) (.lit64 7), .ld .b64 4 (.s 1) rlx,
    .mma mma0, .mrd mrd0, .acasB128 88 (.s 1) rlx, .qerr 1 5] : List Instr).all Instr.wf := by decide +kernel

theorem test_wf_pairs : ([.vadd .s64 3 (.v 4) (.v 6), .vadd .s64 2 (.v 5) (.v 6), .vmov .b64 3 (.v 4), .vcmp .eq .n64 1 (.v 3) (.v 4),
    .fadd .f64 .rne 1 (.v 2) (.v 4), .cvt .f64 .f32 .rne 3 (.v 4), .cvtiF2i .s64 .f32 .rne 3 (.v 4), .qswx .b64 2 3,
    .lscanAdd .f64 true 2 3, .lredOr .b64 (.v 3) 2, .ld .b64 3 (.s 1) rlx, .ldq 6 (.s 1) rlx, .stq 6 (.s 1) rlx,
    .ldt .b128 6 (.s 1) rlx, .stt .b128 (.v 6) (.s 1) rlx, .stt .b128 (.s 1) (.s 1) rlx, .xload .b64 3 (.s 1) rlx,
    .aadd .s64 3 (.s 1) rlx, .amaxFp .f64 3 (.s 1) rlx, .acas .b32 3 (.s 1) rlx, .acas .b64 6 (.s 1) rlx,
    .acasB128 4 (.s 1) rlx, .aincwN64 3 (.s 1) rlx] : List Instr).all (fun i => !i.wf) := by decide +kernel

theorem test_wf_operands : ([.vadd .s32 1 (.flt 1) (.v 0), .fadd .f32 .rne 1 (.int 1) (.v 0), .fadd .f32 .rne 1 (.special 0) (.v 0),
    .vadd .s32 1 (.lit64 5) (.v 0), .vadd .s32 1 (.lit32 5) (.lit32 6), .fadd .f16 .rne 1 (.lit32 0x10000) (.v 0),
    .st .b32 (.lit32 1) (.slit 1 2) rlx, .cstore .b32 (.lit32 1) (.slit 1 2) rlx] : List Instr).all (fun i => !i.wf) := by
  decide +kernel

theorem test_wf_orders : ([.ld .b32 1 (.s 1) ⟨.core, .rel⟩, .st .b32 (.v 1) (.s 1) ⟨.core, .acq⟩,
    .redAdd .s32 (.v 1) (.s 1) ⟨.core, .ar⟩, .ldac 16 3 2 false ⟨.core, .rel⟩] : List Instr).all (fun i => !i.wf) := by decide +kernel

theorem test_wf_fields : ([.brd 1 ⟨1, 2⟩ ⟨5, false, ⟨2, 0⟩⟩, .swp .add .rne 8 3, .ldac 81 3 2 false rlx, .ldac 66 2 2 true rlx,
    .ldac 16 3 2 true rlx, .mzero true 3, .mrd { mrd0 with v := 90 }, .mrd { mrd0 with tf64 := true, t := 3 },
    .mma { mma0 with x := 81 }, .mma { mma0 with ta := .fp64, x := 3 }, .mma { mma0 with bla := true },
    .mma { mma0 with blb := true }, .mma { mma0 with e := 1 }, .mma { mma0 with ta := .dx8, e := 96 },
    .mma { mma0 with scope := .clu }, .mma { mma0 with swz := some ⟨2, 1⟩ }, .mmac { mma0 with keep := true } ⟨false, 0, 0⟩,
    .pcpy .w8 true 2 3 .tile .glob 2, .pcpys 0 10 ⟨2, 1⟩, .qerr 1 0] : List Instr).all (fun i => !i.wf) := by decide +kernel

/-! ### Words of the spec's examples -/

/-- What a word in slot 0 with a literal after it decodes to, and to how many words. -/
def dec (w l : Nat) : Option (Instr × Nat) := match decode false 0 (BitVec.ofNat 32 w) ⟨BitVec.ofNat 32 l, 0⟩ with
  | .ok d => some (d.instr, d.words)
  | .error _ => none

/-- Control words: the worked divergence and R304's example. -/
theorem test_words_control :
    dec 0 0 = some (.nop, 1) ∧ dec 0x00A04006 8 = some (.brd 1 ⟨1, 2⟩ ⟨0, false, ⟨2, 0⟩⟩, 2) ∧
    dec 0x00A04006 0x0002C008 = some (.brd 1 ⟨1, 2⟩ ⟨5, true, ⟨2, 0⟩⟩, 2) ∧ dec 0x00200004 0 = some (.br ⟨1, 0⟩, 1) ∧
    dec 0x00FB8002 0 = some (.call 14 ⟨0, 2⟩, 1) ∧ dec 0x01400000 0 = some (.exit, 1) ∧
    dec 0x01201C00 0 = some (.ret 14, 1) ∧ dec 0x01800000 0 = some (.tret, 1) ∧
    dec 0x0078FFFC 0 = some (.bnz (.s 3) ⟨0xFFF, 0⟩, 1) := by decide +kernel

/-- Scalar words: R152's example, R179's, and the compaction example's. -/
theorem test_words_scalar :
    dec 0x082187FF 0 = some (.sadd 3 3 (.imm 0xFF), 1) ∧ dec 0x0EC20B11 0 = some (.vtos 4 5 17, 1) ∧
    dec 0x0B258008 0 = some (.spopc 11 (.s 8), 1) := by decide +kernel

/-- Vector words: R152's, R188's and R287's examples. -/
theorem test_words_vector :
    dec 0x2081427C 1000 = some (.vadd .s32 5 (.v 4) (.lit32 1000), 2) ∧ dec 0x29C0B880 0 = some (.vmov .b32 2 (.int 1), 1) ∧
    dec 0x29C0B900 0 = some (.vmov .b32 2 (.int 2), 1) ∧
    dec 0x33807C72 0 = some (.vcmp .le .s32 1 (.special 0) (.int 2), 1) ∧
    dec 0x328041F0 0 = some (.vcmp .lt .s32 1 (.v 3) (.int 0), 1) ∧
    dec 0x348080F0 0 = some (.vcmp .gt .s32 2 (.v 1) (.int 0), 1) ∧
    dec 0x2C4181F3 0 = some (.vsel 1 .b32 6 (.v 3) (.int 3), 1) := by decide +kernel

/-- Floating-point words: R196's and R197's examples. -/
theorem test_words_float :
    dec 0x47220103 0 = some (.ffma .f32 .rz 8 (.v 2) (.v 3), 1) ∧
    dec 0x56010309 0 = some (.cvtiF2i .s32 .f32 .rz 4 (.v 6), 1) ∧
    dec 0x56428488 0 = some (.dxenc false true false 10 (.v 9), 1) := by decide +kernel

/-- BALLOT by R204's fields (opcode 0x2CC, d 104, a p2), and SWPR of R211's example. -/
theorem test_words_lane_and_sweep :
    dec 0x599A0100 0 = some (.ballot 8 2, 1) ∧ dec 0x5C200400 0 = some (.swpr .add .rne false 0 8, 1) := by decide +kernel

/-- Memory words: R152's, R221's and R222's examples. -/
theorem test_words_memory :
    dec 0xE0811091 0 = some (.ld .b32 4 (.sv 2 1) ⟨.clu, .rlx⟩, 1) ∧
    dec 0x62A08183 0x40 = some (.stt .b64 (.v 2) (.slit 3 0x40) rlx, 2) ∧
    dec 0x64040D00 0 = some (.ldac 16 3 2 false rlx, 1) := by decide +kernel

/-- Atomic words: R231's example and the words of the reduction example. -/
theorem test_words_atomic :
    dec 0x68019091 0 = some (.aadd .s32 6 (.sv 2 1) ⟨.clu, .rlx⟩, 1) ∧
    dec 0x6A010180 0 = some (.amaxFp .f32 4 (.s 3) rlx, 1) ∧ dec 0x69814200 0 = some (.amaxInt .s32 5 (.s 4) rlx, 1) ∧
    dec 0x68E18200 0 = some (.amin32 .n32 6 (.s 4) rlx, 1) ∧
    dec 0x6E40C280 0 = some (.redMax64Fp .f32 (.v 3) (.s 5) rlx, 1) := by decide +kernel

/-- Synchronisation words: R232 to R236. -/
theorem test_words_sync :
    dec 0x70000038 0 = some (.fence .stk .rel, 1) ∧ dec 0x70200000 0 = some (.fenceV, 1) ∧
    dec 0x70400103 0 = some (.bar 3, 1) ∧ dec 0x70600000 0 = some (.cbar, 1) ∧
    dec 0x70810C00 0x4004 = some (.waitc 2 6 .clu ⟨1, 0⟩, 2) := by decide +kernel

/-- Matrix words: R252's, R253's and R259's examples. -/
theorem test_words_matrix :
    dec 0x74000200 0x24200000 = some (.mma { mma0 with keep := true }, 2) ∧
    dec 0x74200300 0x1204000A = some (.mmac { mma0 with ta := .dx8, tb := .dx8, sreg := 6, e := 16 } ⟨false, 1, 1⟩, 2) ∧
    dec 0x746A0904 0 = some (.mrd mrd0, 1) := by decide +kernel

/-- Engine, ring and task words: R264, R265, R271, R274, R280, R285. -/
theorem test_words_engines :
    dec 0x7A014180 0 = some (.tcrd 5 3, 1) ∧ dec 0x78210322 0 = some (.pcpy .w8 false 2 3 .tile .glob 2, 1) ∧
    dec 0x78818505 0 = some (.pcpys 0 10 ⟨1, 1⟩, 1) ∧ dec 0x79000600 0 = some (.zrst 12, 1) ∧
    dec 0x7B200312 0 = some (.qrel .clu 2 6, 1) ∧ dec 0x7C00CA50 0 = some (.temit .pkg 0 20 3, 1) := by decide +kernel

/-- R144: the fates of reserved words. -/
theorem test_words_reserved :
    dec 1 0 = none ∧ dec 0x5E000000 0 = some (.unassignedOpcode 0x5E000000, 1) ∧
    dec 0x0820847F 0 = none ∧ dec 0x0EC20A00 0 = none ∧ dec 0x2081427E 0 = none ∧ dec 0x70000030 0 = none ∧
    dec 0x70000078 0 = none ∧
    (match decode false 2 (0x2081427C : Word32) ⟨1000, 0⟩ with | .error .illegalPacket => true | _ => false) = true ∧
    (match decode true 0 (0x2081427C : Word32) ⟨1000, 0⟩ with | .error .illegalEncoding => true | _ => false) = true := by decide +kernel

/-! ### Single steps, with the values of the spec's examples -/

/-- A block of one group on core 0, its page of code at 0x1000 readable and writable. -/
def one : State := State.reset.withFetchWord 32 0

/-- The outcome is a next state of which a fact holds. -/
def gives (o : Host.Outcome State Fault Refusal) (p : State → Bool) : Bool := match o with
  | .next t => p t
  | _ => false

/-- The state that an instruction gives. -/
def aft (i : Instr) (s : State) : State := match exec i s with
  | .next t => t
  | _ => s

def onG (s : State) (f : Group → Group) : State := s.setGroup 0 (f (s.group 0))

/-- A scalar register, a v-register and a predicate of the group, set. -/
def wS (r : Nat) (x : Word64) (s : State) : State := onG s fun g => { g with s := g.s.set 0 r x }

def wV (r : Nat) (f : Nat → Nat) (s : State) : State :=
  onG s fun g => { g with v := g.v.set Row.zero r (Row.ofFn fun l => BitVec.ofNat 32 (f l.val)) }

def wP (r : Nat) (m : Mask) (s : State) : State := onG s fun g => { g with p := g.p.set 0 r m }

def wE (f : Entry → Entry) (s : State) : State := onG s fun g => g.setEnt 0 (f (g.ent 0))

def wB (f : Block → Block) (s : State) : State := s.setBlock 1 (f (s.block 1))

def rS (r : Nat) (t : State) : Word64 := (t.group 0).s.get 0 r

def rV (r l : Nat) (t : State) : Nat := (((t.group 0).v.get Row.zero r).at l).toNat

/-- Entry 0 after a step: its program counter and mask. -/
def at0 (t : State) : PC × Mask := (((t.group 0).ent 0).pc, ((t.group 0).ent 0).mask)

/-- The instruction raises a trap at its word. -/
def traps (i : Instr) (t : Trap) (s : State) : Bool := gives (exec i s) fun u => { u with log := {} } == { (s.takeTrap s.here t).stop with log := {} }

def fps (t : State) : BitVec 5 := (t.group 0).sr.fpstat

/-- The scalar example of R174. -/
theorem test_scalar_table :
    gives (exec (.saddSat false 3 1 (.s 2)) (wS 1 0x7FFFFFFFFFFFFFF0 (wS 2 0x100 one))) (rS 3 · == 0x7FFFFFFFFFFFFFFF) ∧
    gives (exec (.smulh true 3 1 (.imm 2)) (wS 1 0xFFFFFFFFFFFFFFFF one)) (rS 3 · == 1) ∧
    gives (exec (.sdiv false 3 1 (.imm 0)) (wS 1 (-7) (wS 3 5 one))) (rS 3 · == 0) ∧
    gives (exec (.srem false 3 1 (.imm 0)) (wS 1 (-7) one)) (rS 3 · == -7) ∧
    gives (exec (.sbfxS64 3 1 (.lit32 0x0404)) (wS 1 0xF0 one)) (rS 3 · == -1) ∧
    gives (exec (.sbfxN64 3 1 (.lit32 0x403C)) (wS 1 0xF0 (wS 3 5 one))) (rS 3 · == 0) := by decide +kernel

/-- R174: the sum leaves the canonical addresses, so the destination stands and the sum is reported. -/
theorem test_sadda_traps :
    traps (.sadda 3 1 (.imm 8)) (tProt 3 none (some 0x0100000000000000)) (wS 1 0x00FFFFFFFFFFFFF8 one) := by
  decide +kernel

/-- R111: division of the most negative value by -1. -/
theorem test_sdiv_corner :
    gives (exec (.sdiv false 3 1 (.s 2)) (wS 1 0x8000000000000000 (wS 2 (-1) one))) (rS 3 · == 0x8000000000000000) ∧
    gives (exec (.srem false 3 1 (.s 2)) (wS 1 0x8000000000000000 (wS 2 (-1) (wS 3 5 one)))) (rS 3 · == 0) := by
  decide +kernel

/-- R168: slot 3 of package core 301. -/
theorem test_place : placeWord (301 * 17 + 3) {} = 0x4B6D0300 := by decide +kernel

/-- R131: the return point of a CALL at packet 2, slot 0. -/
theorem test_call_link :
    gives (exec (.call 14 ⟨0, 2⟩) { wE (fun e => { e with pc := 2 }) one with next := pcAdd 2 1 })
      fun t => rS 14 t == 0x40000002 && (at0 t).1 == 0x80000002 := by decide +kernel

/-- R156: the table of branches on a lane condition. -/
theorem test_branches :
    let s := { wV 3 (· % 2) one with next := 0x40000000 }
    traps (.bz (.v 3) ⟨5, 0⟩) tNonUniform s ∧
    gives (exec (.bz (.v 3) ⟨5, 0⟩) (wE (fun e => { e with mask := Mask.ofFn fun l => l % 2 == 0 }) s)) (fun t => (at0 t).1 == 5) ∧
    gives (exec (.bz (.v 3) ⟨5, 0⟩) (wE (fun e => { e with mask := 0 }) s)) (fun t => (at0 t).1 == 0x40000000) ∧
    gives (exec (.bz (.s 5) ⟨5, 0⟩) (wE (fun e => { e with mask := 0 }) s)) (fun t => (at0 t).1 == 5) := by decide +kernel

/-- The worked divergence: VCMP, then BRD; lanes 0 to 2 take the branch. -/
theorem test_divergence :
    gives (exec (.vcmp .le .s32 1 (.special 0) (.int 2)) one) (fun t => (t.group 0).p.get 0 1 == 7) ∧
    gives (exec (.brd 1 ⟨1, 2⟩ ⟨0, false, ⟨2, 0⟩⟩) { wP 1 7 one with next := 1 }) fun t =>
      at0 t == (1, ~~~ 7) && ((t.group 0).ent 1).mask == 7 && ((t.group 0).ent 1).pc == 0x80000001 &&
        ((t.group 0).ent 0).rpc == 2 && ((t.group 0).ent 1).rpc == 2 && ((t.group 0).ent 0).join == 1 := by decide +kernel

/-- R111's saturation examples. -/
theorem test_vector_saturates :
    gives (exec (.vaddSat .s8 1 (.v 2) (.v 3)) (wV 2 (fun _ => 100) (wV 3 (fun _ => 100) one))) (rV 1 95 · == 127) ∧
    gives (exec (.vsubSat .n16 1 (.v 2) (.v 3)) (wV 2 (fun _ => 3) (wV 3 (fun _ => 5) (wV 1 (fun _ => 9) one))))
      (rV 1 0 · == 0) := by decide +kernel

/-- R117: CVTI of -0.3. -/
theorem test_cvti_rounds :
    gives (exec (.cvtiF2i .n32 .f32 .rz 1 (.v 2)) (wV 2 (fun _ => 0xBE99999A) one)) (fun t => rV 1 0 t == 0 && fps t == 0x10) ∧
    gives (exec (.cvtiF2i .n32 .f32 .rd 1 (.v 2)) (wV 2 (fun _ => 0xBE99999A) one)) (fun t => rV 1 0 t == 0 && fps t == 1) := by
  decide +kernel

/-- The DXENC example, and DXDEC of its second element. -/
theorem test_dxenc_example :
    let v := fun l => [0x42C80000, 0x40400000, 0xBECCCCCD, 0x3D800000, 0x3FD9999A].getD l 0
    gives (exec (.dxenc false true false 10 (.v 9)) (wV 9 v one)) (fun t =>
      (List.range 6).map (fun l => rV 10 l t) == [0x857FB2, 0x857F82, 0x857F4D, 0x857F02, 0x857F36, 0x857F80] &&
        fps t == 0x10) ∧
    gives (exec (.dxdec false 10 (.v 9)) (wV 9 (fun _ => 0x857F82) one)) (rV 10 1 · == 0x40800000) := by decide +kernel

/-- R201: an index of 96 or more gives 0. -/
theorem test_lshfl :
    let s := wV 5 (fun l => 100 + l) one
    gives (exec (.lshfl 6 5 (.v 7)) (wV 7 (fun l => l + 1) s)) (fun t => rV 6 0 t == 101 && rV 6 95 t == 0) := by decide +kernel

/-- A tile record of .f32 elements (R206). -/
def rec32 (base e0 e1 s0 s1 : Nat) : List Byte :=
  toBytes 64 (base + 2 * 2 ^ 72 + 2 * 2 ^ 80 + e0 * 2 ^ 128 + e1 * 2 ^ 144 + 2 ^ 160 + 2 ^ 176 + s0 * 2 ^ 192 + s1 * 2 ^ 224)

/-- Bytes stored where the block's tile memory holds zeros. -/
def wT (a : Nat) (bs : List Byte) (s : State) : State :=
  wB (fun b => { b with
    tile := bs.zipIdx.foldl (fun m x => if x.1 = 0 then m else m.set 0 (a + x.2) x.1) b.tile }) s

/-- A word of the block's tile memory. -/
def rT (a : Nat) (t : State) : Nat := ofBytes ((List.range 4).map fun k => (t.block 1).tile.get 0 (a + k))

def words (ws : List Nat) : List Byte := ws.flatMap (toBytes 4)

/-- The sweep example: the architected quad order of a reduction along axis 0. -/
theorem test_swpr_example :
    let s := wS 8 0x1000 (wT 0x1000 (rec32 0x3000 1 2 4 4 ++ rec32 0x2000 6 2 4 24)
      (wT 0x2000 (words [0x4B800000, 0x3F800000, 0x3F800000, 0x3F800000, 0x3F800000, 0x3F800000, 0x80000000, 0x80000000,
        0x80000000, 0x80000000, 0x80000000, 0x80000000]) one))
    gives (exec (.swpr .add .rne false 0 8) s) fun t => rT 0x3000 t == 0x4B800002 && rT 0x3004 t == 0x80000000 := by
  decide +kernel

/-- R177: tile data of a lane; the little-endian order of R5. -/
theorem test_tile_access :
    gives (exec (.stt .b32 (.v 2) (.sv 3 4) rlx) (wS 3 0x100 (wV 4 (fun l => 4 * l) (wV 2 (fun l => 0x01020300 + l) one))))
      (fun t => (t.block 1).tile.get 0 0x114 == 5 && (t.block 1).tile.get 0 0x117 == 1) ∧
    traps (.ldt .b64 2 (.s 3) rlx) (tAlign (some 0) 0x104) (wS 3 0x104 one) := by decide +kernel

/-- Bytes stored in the page. -/
def wM (a : Nat) (bs : List Byte) (s : State) : State := s.setMemBytes a bs

/-- Signed and unsigned extension of a load (R220). -/
theorem test_load_extends :
    let s := wS 1 0x1010 (wM 0x1010 [0xFE, 0xFF] one)
    gives (exec (.ld .s8 2 (.s 1) rlx) s) (rV 2 95 · == 0xFFFFFFFE) ∧
    gives (exec (.ld .n16 2 (.s 1) rlx) s) (rV 2 0 · == 0xFFFE) := by decide +kernel

/-- A stored word is loaded back by the same group, from the write-through buffer or the L1 (R91). -/
theorem test_store_then_load :
    let s := wS 1 0x1010 (wV 2 (fun _ => 0x12345678) one)
    gives (exec (.ld .b32 3 (.s 1) rlx) (aft (.st .b32 (.v 2) (.s 1) rlx) s)) (rV 3 7 · == 0x12345678) := by decide +kernel

/-- One lane active. -/
def lane0 (s : State) : State := wE (fun e => { e with mask := 1, dom := 1 }) s

/-- The AMAX.f32 table: what one lane leaves in memory, and what it gets back. -/
def amax (m x : Nat) : Option (Nat × Nat) :=
  let s := wS 1 0x1010 (wM 0x1010 (toBytes 4 m) (wV 2 (fun _ => x) (lane0 one)))
  let t := aft (.amaxFp .f32 2 (.s 1) rlx) s
  some (rV 2 0 (aft (.ld .b32 2 (.s 1) ⟨.clu, .rlx⟩) t), rV 2 0 t)

theorem test_amax_table : amax 0x80000000 0 = some (0, 0x80000000) ∧ amax 0x7FC00000 0xC0400000 = some (0xC0400000, 0x7FC00000) ∧
    amax 0x3F800000 0x7F800001 = some (0x3F800000, 0x3F800000) ∧ amax 0xFFC00001 0x7FC00000 = some (0x7FC00000, 0xFFC00001) := by
  decide +kernel

/-- R231's example: three lanes on one word in lane order. -/
theorem test_aincw_example :
    let s := wS 1 0x1010 (wM 0x1010 (toBytes 4 1) (wV 6 (fun _ => 2) (wE (fun e => { e with mask := 7, dom := 7 }) one)))
    let t := aft (.aincwN32 6 (.s 1) ⟨.clu, .rlx⟩) s
    (List.range 3).map (rV 6 · t) = [1, 2, 0] ∧ rV 2 0 (aft (.ld .b32 2 (.s 1) ⟨.clu, .rlx⟩) t) = 1 := by decide +kernel

/-- The bfloat16 accumulation example, and the DX8 saturation example (R125). -/
theorem test_accumulates :
    let v := fun (xs : List (Nat × Nat)) => (List.range 32).map fun k => Fmt.bf16.val (Store.get 0 xs k)
    let a := v [(0, 0x4380), (8, 0x3F80), (16, 0x3F80), (24, 0x3F80), (25, 0x3F80)]
    let b := v [(0, 0x4780), (8, 0x3F80), (16, 0x3F80), (24, 0x3F80), (25, 0x3F80)]
    (Fmt.f32.accumulate 0 (chunksOf .bf16 a b)).1 = 0x4B800001 ∧
    (Fmt.f32.accumulate 0 [[(dxVal false 63 254 254, dxVal false 63 254 254)]]).1 = 0x7F7FFFFF := by decide +kernel

/-- R247: MZERO clears its tile alone; without the tile it traps. -/
theorem test_mzero :
    let s := wB (fun b => { b with acc := [(6143, 1), (6144, 2), (12287, 3), (12288, 4)] }) one
    gives (exec (.mzero false 1) s) (fun t => (t.block 1).acc == [(6143, 1), (12288, 4)]) ∧
    traps (.mzero false 1) (tProt 0 none none) (wB (fun b => { b with kern := { b.kern with accn := 1 } }) s) := by
  decide +kernel

/-- The ring example, steps 1 to 9. -/
def ring0 : Ring := { live := true, lsize := 6, lcount := 2, fill := 0xFFFFFFFE, pub := 0xFFFFFFFE, read := 0xFFFFFFFE
                      base := 0x1000 }

theorem test_ring_example :
    let a := { ring0 with fill := ring0.fill + 3 }
    let b := ((a.publish 0xFFFFFFFF 1).bind fun r => r.publish 0xFFFFFFFE 1).getD a
    let c := ((b.release 0xFFFFFFFF 1).bind fun r => r.release 0xFFFFFFFE 1).getD b
    ring0.canClaim 3 ∧ (a.publish 0xFFFFFFFF 1).map (·.pub) = some 0xFFFFFFFE ∧ b.pub = 0 ∧ b.fill = 1 ∧ ¬b.canClaim 2 ∧
    b.published 0xFFFFFFFF ∧ b.slotVa 0xFFFFFFFF = 0x10C0 ∧ c.read = 0 ∧ c.publish 2 1 = none ∧
    (c.restart 0 false).map (fun r => (r.fill, r.pub, r.read)) = some (0, 0, 0) := by decide +kernel

/-- The claims of the ring example through the instruction: the second does not fit. -/
theorem test_claims :
    let s : State := (wB (fun b => { b with q := [5] }) one).setRing 5 ring0
    gives (exec (.qpubClaim 3 0 1) (wS 1 3 s)) (fun t => rS 3 t == 0xFFFFFFFE && (t.ring 5).fill == 1) ∧
    gives (exec (.qpubClaim 3 0 1) (wS 1 5 s)) (rS 3 · == BitVec.allOnes 64) := by decide +kernel

/-! ### The hypotheses of the statements can be met: one theorem for each statement, its clauses in order -/

def okR {ε α : Type} (r : State × Except ε α) : Bool := match r.2 with
  | .ok _ => true
  | .error _ => false

def okL (r : State × LRes) : Bool := match r.2 with
  | .ok _ => true
  | _ => false

/-- Every address passes its checks, and there is one. -/
def okAll (r : State × List (Nat × Word64 × LRes)) : Bool :=
  !r.2.isEmpty && r.2.all (fun x => match x.2.2 with
    | .ok _ => true
    | _ => false) && (r.1.badLine r.2).isNone

def wMask (m : Mask) : State → State := wE fun e => { e with mask := m }

def loupe (s : State) : State := onG s fun g => { g with kind := .loupe 1 0 0 }

def agentS (s : State) : State := onG s fun g => { g with kind := .agent }

def handlerS (save : Bool) (s : State) : State :=
  { onG s fun g => { g with hnd := some { code := 0x30, save := save, restore := false }
                            tab := [(0, { g.ent 0 with st := .held }), (8, { valid := true, mask := Mask.all, dom := Mask.all })] }
    with cur := { gid := 0, ent := 8 } }

theorem wit_ControlTransfers :
    (wMask 0 one).actNH = 0 ∧ one.actNH ≠ 0 ∧ (∀ l < 96, Mask.has one.actNH l → one.readV 3 l = 0) ∧
    (∀ l < 96, Mask.has one.actNH l → (wV 3 (fun _ => 1) one).readV 3 l ≠ 0) ∧
    (∀ l < 96, Mask.has one.actNH l → Mask.has ((wP 6 Mask.all one).readP 6) l) ∧
    (∀ l < 96, Mask.has one.actNH l → !Mask.has (one.readP 6) l) ∧
    (let s := wP 6 1 (wV 95 (· / 95) one)
     Mask.has s.actNH 0 ∧ Mask.has s.actNH 95 ∧ s.readV 95 0 = 0 ∧ s.readV 95 95 ≠ 0 ∧ Mask.has (s.readP 6) 0 ∧
     !Mask.has (s.readP 6) 95) ∧
    (let v := (wS 1 0xBFFFFFFF one).readS 1
     v.toNat < 2 ^ 32 ∧ v.toNat / 2 ^ 30 ≠ 3) ∧
    2 ^ 32 ≤ ((wS 1 0x100000000 one).readS 1).toNat ∧ ((wS 1 0xC0000000 one).readS 1).toNat / 2 ^ 30 % 4 = 3 := by
  decide +kernel

/-- All eight entries valid, and n deferral records. -/
def fullTab (n : Nat) : State :=
  onG one fun g => { g with tab := (List.range 8).map fun i => (i, { valid := true, mask := Mask.one i, dom := Mask.one i })
                            defer := List.replicate n { owner := 7 } }

theorem wit_BrdDiverges :
    one.active &&& one.readP 1 = 0 ∧
    (let s := wP 1 Mask.all one
     s.active &&& s.readP 1 ≠ 0 ∧ s.active &&& ~~~ s.readP 1 = 0) ∧
    (let s := wP 1 7 (loupe one)
     s.active &&& s.readP 1 ≠ 0 ∧ s.active &&& ~~~ s.readP 1 ≠ 0 ∧ s.g.isLoupe) ∧
    (let s := wP 1 7 one
     s.active &&& s.readP 1 ≠ 0 ∧ s.active &&& ~~~ s.readP 1 ≠ 0 ∧ s.g.isLoupe = false ∧ s.e.valid ∧ s.g.alloc = some 1) ∧
    ([7, 8].all fun n =>
      let s := wP 1 1 (onG (fullTab n) fun g => g.setEnt 0 { g.ent 0 with mask := 0x301, dom := 0x301 })
      s.active &&& s.readP 1 != 0 && s.active &&& ~~~ s.readP 1 != 0 && !s.g.isLoupe && s.e.valid && s.g.alloc.isNone &&
        s.g.defer.length == n) := by decide +kernel

/-- An ejection table at 0x1100 with one entry that sends and returns v0. -/
def ejState (p active : Mask) : State :=
  wP 1 p (wMask active (wM 0x1100 (toBytes 32 (1 + 2 ^ 96)) (wB (fun b => { b with kern := { b.kern with ejta := 0x1100, ejtn := 1 } }) one)))

/-- The bytes of the ejection entry are read. -/
def ejReads (s : State) : Bool := okR (State.fetchBytes .load 32 s.blk.kern.ejta s)

/-- Lane 95 is a helper lane. -/
def helping (s : State) : State := onG s fun g => { g with helper := Mask.one 95 }

theorem wit_BrdEjects :
    ([(ejState 15 0xFF, true, false), (ejState 15 Mask.all, true, false), (ejState (~~~ 0x1E) Mask.all, false, false),
      (helping (ejState (15 ||| Mask.one 95) Mask.all), true, true)] :
      List (State × Bool × Bool)).all (fun c =>
      let s := c.1
      let tk := s.active &&& s.readP 1
      let nt := s.active &&& ~~~ s.readP 1
      let n := fun (m : Mask) => Mask.count (m &&& ~~~ s.g.helper)
      let ok := fun (m : Mask) => decide (1 ≤ n m ∧ n m ≤ s.rg.sr.ejt.toNat)
      let out := if c.2.1 then tk else nt
      let r := State.fetchBytes .load 32 s.blk.kern.ejta s
      !s.g.isLoupe && s.g.hnd.isNone && decide (s.cur.gid < 16384) && s.active != 0 && s.e.valid && s.feature 19 &&
        tk != 0 && nt != 0 && decide (0 < s.blk.kern.ejtn.toNat) && (match r.2 with
          | .ok bs => (ejParse s.blk.kern.regs (ofBytes bs)).isSome
          | .error _ => false) && s.g.freeRec == some 0 && ok out &&
        (if c.2.1 then !ok nt || decide (n tk ≤ n nt) else !ok tk || decide (n nt < n tk)) &&
        decide (n out ≤ s.freeThreads s.clu) && s.g.alloc.isSome && (out &&& s.g.helper != 0) == c.2.2) ∧
    one.blk.kern.ejtn.toNat ≤ 0 ∧
    (let s := wB (fun b => { b with kern := { b.kern with ejta := 0x0100000000000000 } }) (ejState 15 0xFF)
     0 < s.blk.kern.ejtn.toNat ∧ ejReads s = false) ∧
    (let s := wM 0x1100 (toBytes 32 (2 ^ 208)) (ejState 15 0xFF)
     (match (State.fetchBytes .load 32 s.blk.kern.ejta s).2 with
     | .ok bs => (ejParse s.blk.kern.regs (ofBytes bs)).isNone
     | .error _ => false) = true) ∧
    (let s := ejState (0xFFFFFFFFFFFF <<< 48) Mask.all
     let n := fun (m : Mask) => Mask.count (m &&& ~~~ s.g.helper)
     s.rg.sr.ejt.toNat < n (s.active &&& s.readP 1) ∧ s.rg.sr.ejt.toNat < n (s.active &&& ~~~ s.readP 1) ∧ ejReads s) ∧
    (let s := (ejState 15 0xFF).setCtx 0 0 { one.ctx 0 0 with feat0 := 0 }
     s.feature 19 = false ∧ ejReads s) ∧
    (let s := onG (ejState 15 0xFF) fun g => { g with recs := (List.range 4).map fun i => (i, { valid := true }) }
     s.g.freeRec = none ∧ ejReads s) ∧
    (let s := onG (helping (ejState (15 ||| Mask.one 95) Mask.all)) fun g => { g with tab := (List.range 8).map fun i =>
        (i, if i = 0 then g.ent 0 else { valid := true }) }
     s.active &&& s.readP 1 &&& s.g.helper ≠ 0 ∧ s.g.alloc = none ∧ s.g.freeRec = some 0 ∧ ejReads s) := by decide +kernel

theorem wit_ExitLeaves :
    (wMask 0 one).active = 0 ∧ one.active ≠ 0 ∧ (loupe one).active ≠ 0 ∧ (loupe one).g.isLoupe ∧ (loupe one).hg.syncm = [] ∧
    (let s := handlerS false one
     s.active ≠ 0 ∧ s.g.isLoupe = false ∧ s.g.hnd.isSome) ∧
    one.g.isLoupe = false ∧ one.g.hnd = none ∧ one.g.syncm = [] ∧ one.e.dom &&& ~~~ one.active = 0 ∧
    (one.g.exitLanes one.cur.ent one.active one.next one.clock).over ∧ one.g.live ∧
    (let s := wMask 1 one
     s.active ≠ 0 ∧ s.g.syncm = [] ∧ s.e.dom &&& ~~~ s.active ≠ 0 ∧ s.g.defer = [] ∧
       (s.g.exitLanes s.cur.ent s.active s.next s.clock).over = false) := by decide +kernel

/-- Outcomes of an access by hardware. -/
def okHw {α : Type} : Hw α → Bool
  | .ok _ => true
  | _ => false

def waitHw {α : Type} : Hw α → Bool
  | .wait _ => true
  | _ => false

def faultHw {α : Type} : Hw α → Bool
  | .fault => true
  | _ => false

/-- A save area at 0x200000 that the core can translate, and a trap vector table. -/
def saveable (s : State) : State :=
  let s : State := { s with tlb := ⟨0, 0, 0x200000, 21, 0x200000, true, true, true⟩ :: s.tlb }
  let s := wB (fun b => { b with kern := { b.kern with tvec := [1, 2, 3, 4, 5, 6] } }) s
  onG s fun g => { g with sr := { g.sr with ctxsave := 0x200000 } }

theorem traps_unassigned (s : State) : Traps (.unassignedOpcode 0) s tInstruction := rfl

/-- The group's context has a ring of four records at 0x200000. -/
def ringed (f : Ctx → Ctx) : State :=
  let s := saveable one
  s.setCtx 0 0 (f { s.ctx 0 0 with fltring := 0x200000 })

/-- A trap's record is written, or what hinders it. -/
def records (s : State) (p : Hw State → Bool) : Bool :=
  s.g.kind == .user && s.g.hnd.isNone && s.myCtx.cstate == .live && s.myCtx.recs.isEmpty && !s.myCtx.ringFull &&
    p (State.ctxWrite (s.setGroup s.cur.gid { s.g.freeze with frozen := true }) s.blk.pcore 0 0 s.myCtx.fltring (toBytes 64 7))

theorem wit_TrapEntersHandler_driver :
    (loupe one).g.isLoupe ∧ ((agentS one).g.isAgent ∧ ({ agentS one with cur := ⟨16, 0⟩ } : State).cur.gid = 16) ∧
    (let s := { one.setGroup 16 (agentStart 0 {} 0) with cur := ⟨16, 0⟩ }
     s.g.isAgent ∧ s.cur.gid = s.core * 17 + 16) ∧
    (let s := ringed fun c => { c with fltwr := 16 }
     s.g.kind = .user ∧ s.myCtx.cstate = .live ∧ s.myCtx.ringFull) ∧
    (let s := ringed fun c => { c with recs := [[7]] }
     s.g.kind = .user ∧ s.g.hnd = none ∧ s.myCtx.cstate = .live ∧ s.myCtx.recs ≠ []) ∧
    records (ringed id) okHw ∧ records (ringed fun c => { c with fltring := 0x0100000000000000 }) faultHw ∧
    ((ringed fun c => { c with cstate := .ending }).ctx 0 0).cstate = .ending ∧ ((ringed id).group 0).hnd = none ∧
    ((ringed id).ctx 0 0).hold = false ∧ tInstruction.code ≠ 0x0B ∧
    (let u := wB (fun b => { b with tc := [(0, { bind := .zoom, issued := 1, pend := [⟨1, 0, .table 0 [], 0, 0⟩] })] })
        (ringed fun c => { c with hold := true })
     let c := u.ctx 0 0
     (u.group 0).hnd = none ∧ (u.group 0).live ∧ (u.group 0).hdone = false ∧ u.threadsOf 0 = [] ∧ c.hold ∧
       c.cstate = .live ∧ u.blocksOf 0 0 = [(u.group 0).bid] ∧ (u.block (u.group 0).bid).idle = false ∧
       u.liveGids (u.block (u.group 0).bid) = [0] ∧ (u.block (u.group 0).bid).saved = false ∧
       (u.block (u.group 0).bid).killed = false) := by decide +kernel

theorem wit_TrapEntersHandler :
    one.g.isLoupe = false ∧ (agentS one).g.isAgent ∧ (agentS one).g.isLoupe = false ∧
    (handlerS false one).g.isAgent = false ∧ (handlerS false one).g.hnd.isSome ∧
    one.g.isAgent = false ∧ one.g.hnd = none ∧ one.g.live ∧ (one.advance one.next).blk.kern.tvec[5]?.getD noPc = noPc ∧
    (let s := saveable one
     let u := s.advance s.next
     let g := u.g.freeze
     let save := fun s' : State => (s'.setG g).saveFlds s.blk.pcore s.blk.vi s.blk.ctx g headerFlds
     s.g.isAgent = false ∧ s.g.hnd = none ∧ s.g.live ∧ s.blk.kern.tvec[5]?.getD noPc ≠ noPc ∧ okHw (save u) ∧
     waitHw (save { u with rdymap := 0 }) ∧ faultHw (save { u with tlb := u.tlb.map fun t => { t with w := false } })) := by
  decide +kernel

/-- A second group of the block, not saved. -/
def twoGroups (s : State) : State :=
  let s := wB (fun b => { b with slots := [0, 1] }) s
  s.setGroup 1 { s.group 0 with gix := 1, hnd := none }

theorem wit_HandlersEnd :
    (let s := handlerS false one
     s.g.isLoupe = false ∧ s.atHandler ∧ s.g.inSave = false ∧ s.rg.sr.tout = 0 ∧ s.g.sr.tout = 0 ∧ (s.g.ent 0).st = .held ∧
       (s.g.ent 1).st ≠ .held) ∧
    one.atHandler = false ∧ (handlerS true one).g.inSave ∧ (handlerS false one).g.inSave = false ∧
    (agentS one).g.isAgent ∧ one.myCtx.debug = false ∧
    (one.setCtx 0 0 { one.ctx 0 0 with debug := true }).myCtx.debug ∧ one.g.isAgent = false ∧
    (let s := wB (fun b => { b with tc := b.tc.set Tc.unbound 0 { bind := .zoom, issued := 1, pend := [⟨1, 0, .table 0 [], 0, 0⟩] } })
       (handlerS true one)
     s.g.isLoupe = false ∧ s.atHandler ∧ s.g.inSave ∧ s.blk.idle = false) ∧
    (let s := handlerS true (saveable (twoGroups one))
     s.g.isLoupe = false ∧ s.atHandler ∧ s.g.inSave ∧ s.blk.idle ∧ s.g.live ∧
       1 ≠ s.g.gix ∧ s.blk.gids[1]? = some 1 ∧ 1 ≠ s.cur.gid ∧ (s.group 1).live ∧ (s.group 1).forced = false) := by
  decide +kernel

/-- Record 1's timeout handler, which asks for a course. -/
def timeoutS (act : Bool) : State :=
  let s : State := { onG one fun g => { g with
      hnd := some { code := 0x33, save := false, restore := false }
      sr := { g.sr with tout := 2, recNo := 1, act := act }
      recs := [(1, { valid := true, onl := Mask.one 95 })]
      tab := [(0, { g.ent 0 with st := .held }), (8, { valid := true, mask := Mask.all, dom := Mask.all })] } with
    cur := { gid := 0, ent := 8 } }
  s.setGroup 16384 { live := true, kind := .loupe 0 1 95, bid := 1, tab := [(0, { valid := true, pc := 4, mask := Mask.one 95 })] }

theorem wit_HandlersEnd_course :
    (∀ act : Bool,
      let s := timeoutS act
      s.atHandler ∧ s.g.hnd.isSome ∧ s.rg.sr.tout.getLsbD s.rg.sr.recNo.toNat ∧ s.rg.sr.act = act) ∧
    (let s := timeoutS true
     s.threadsOf s.cur.gid = [16384] ∧ (s.group 16384).kind = .loupe s.cur.gid s.rg.sr.recNo.toNat 95 ∧ 16384 ≠ s.cur.gid ∧
       s.g.forced = false ∧ s.g.frozen = false ∧ (s.g.unfreeze s.clock).alloc = some 1) ∧
    (let s := onG (timeoutS true) fun g => { g with tab := (8, g.ent 8) :: (List.range 8).map fun i => (i, { valid := true }) }
     s.threadsOf s.cur.gid = [16384] ∧ (s.g.unfreeze s.clock).alloc = none) := by decide +kernel

theorem wit_HandlersEnd_vaults :
    let s : State := { handlerS true one with vq := [{ gid := 0, vault := 511, off := 4194303, bytes := [7] }], rdymap := 0 }
    s.atHandler ∧ s.g.inSave ∧ s.blk.idle ∧ s.vaultWaits s.cur.gid ≠ [] := by decide +kernel

/-- The state in which HDONE writes the save area. -/
def hdoneS : State :=
  let s := handlerS true (saveable (twoGroups one))
  (s.relScope .pkg).setG { s.g with hdone := true, hnd := none, tab := s.g.tab.erase 8 }

theorem late_saved (u : State) (g : Group) {t : TlbEntry} {rest : List TlbEntry} (hc : (u.ctx 0 0).asid.toNat = 0)
    (hT : u.tlb = t :: rest) (ht : t = ⟨0, 0, 0x200000, 21, 0x200000, true, true, true⟩) (hF : u.hbmFine = false)
    (hr : u.rdymap.getLsbD 20 = true) (hx : g.sr.ctxsave = 0x200000) (hbad : u.bad = []) :
    ∃ s1, u.saveFlds 0 0 0 g lateFlds = .ok s1 := by
  have hl : ∀ f ∈ lateFlds, 0x200000 ≤ ((0x200000 : Word64) + BitVec.ofNat 64 f.off).toNat ∧
      ((0x200000 : Word64) + BitVec.ofNat 64 f.off).toNat + f.len ≤ 0x400000 := by decide +kernel
  obtain ⟨s1, h1, -⟩ := saveFlds_ok (sameTlb_memSafe u) (pcore := 0) (vi := 0) (n := 0) (lo := 0x200000)
    (hi := 0x400000) (g := g)
    (fun s va hs hlo hhi => by
      have hcs : s.ctx 0 0 = u.ctx 0 0 := by simp only [State.ctx, hs.1.2.1]
      rw [hcs, hc]
      subst ht
      have hpage : va / 2 ^ 21 * 2 ^ 21 = 0x200000 := by omega
      exact translateIn_page hs hT rfl rfl rfl rfl hpage rfl (by decide) hF hr _ _)
    (fun s s' hs hs' => by simp only [State.ctx, hs.1.2.1, hs'.1.2.1]) (fun s hs => hs.1.2.2 hbad)
    lateFlds (by rw [hx]; exact hl) ⟨⟨rfl, rfl, id⟩, MemOnly.refl u⟩
  exact ⟨s1, h1⟩

theorem wit_HandlersEnd_save : ∃ s1, hdoneS.saveFlds 0 0 0 hdoneS.g lateFlds = .ok s1 :=
  late_saved hdoneS hdoneS.g (t := ⟨0, 0, 0x200000, 21, 0x200000, true, true, true⟩) (rest := one.tlb) (by decide +kernel)
    (by decide +kernel) rfl (by decide +kernel) (by decide +kernel) (by decide +kernel) (by decide +kernel)

/-- With HBM that is not ready its first access waits. -/
def hdoneWaits : State := { hdoneS with rdymap := 0 }

theorem wit_HandlersEnd_waits : waitHw (hdoneWaits.saveFlds 0 0 0 hdoneS.g lateFlds) := by decide +kernel

theorem wit_SystemReads :
    (loupe one).g.isLoupe ∧ one.g.isLoupe = false ∧ (agentS one).g.isAgent ∧ one.g.isAgent = false ∧ SysReg.agentOnly .agid ∧
    1 < (one.readB (.imm 2)).toNat ∧ one.readB (.imm 0) = 0 ∧ one.readB (.imm 1) = 1 ∧ (one.readB (.imm 1)).toNat ≤ 1 := by
  decide +kernel

theorem wit_SwrWrites :
    (loupe one).g.isLoupe ∧ one.g.isLoupe = false ∧ (agentS one).g.isAgent ∧ (agentS one).g.isLoupe = false ∧
    one.g.isAgent = false ∧ SysReg.agentOnly .aasid := by decide +kernel

/-- Another fragment of the group stands at a word that sets flags. -/
def flagS : State := onG one fun g => { g with tab := [(0, g.ent 0), (1, { valid := true, st := .parked, wait := .mmac, flagged := true })] }

theorem wit_flagging : flagS.flagging flagS.cur.gid flagS.cur.ent ∧ one.flagging one.cur.gid one.cur.ent = false ∧
    flagS.g.isLoupe = false := by decide +kernel

theorem wit_ScalarArithmetic :
    one.readB (.imm 0) = 0 ∧ ((wS 1 0x8000000000000000 one).readS 1).toInt = -2 ^ 63 ∧
    ((wS 2 (-1) one).readB (.s 2)).toInt = -1 ∧ (wS 2 (-1) one).readB (.s 2) ≠ 0 ∧
    ((wS 1 0x00FFFFFFFFFFFFFF one).readS 1).toNat < 2 ^ 56 ∧ 2 ^ 64 - 2 ^ 56 ≤ ((wS 1 0xFF00000000000000 one).readS 1).toNat ∧
    (let v := (wS 1 0x0100000000000000 one).readS 1
     ¬(v.toNat < 2 ^ 56 ∨ 2 ^ 64 - 2 ^ 56 ≤ v.toNat)) := by decide +kernel

theorem wit_ScalarBitFields : (one.readB (.imm 0)).getLsbD 0 = false ∧ (0 : Nat) < 64 := by decide +kernel

theorem wit_ScalarCompare :
    one.readS 1 = one.readB (.imm 0) ∧ one.readS 1 ≠ one.readB (.imm 1) ∧
    ([0x06C, 0x06F].all fun o => (BitVec.ofNat 32 (o * 2 ^ 21)).toNat / 2 ^ 21 % 1024 ∈ [0x06C, 0x06D, 0x06E, 0x06F]) := by
  decide +kernel

theorem wit_VectorAbsNeg :
    IType.signed .s8 ∧ ival (IType.signed .s8) 8 ((wV 2 (fun _ => 0x80) one).srcI (.v 2) (IType.opT .s8) 0) = -2 ^ 7 := by decide +kernel

theorem wit_FloatArithmetic :
    Fmt.f32.val 0x7F800001 = .nan true ∧ Fmt.f32.val 0x7FC00000 = .nan false ∧ Fmt.f32.val 0x7F800000 = .inf false ∧
    Fmt.f32.val 0xFF800000 = .inf true ∧ (∃ e, Fmt.f32.val 0x80000000 = .fin true 0 e) ∧
    (∃ m e, Fmt.f32.val 0x3F800000 = .fin false m e ∧ m ≠ 0) ∧ ¬Fmt.f32.isSub 0x3F800000 ∧ Fmt.f16.width = 16 ∧
    Fmt.bf16.width = 16 ∧ Fmt.f32.width = 32 ∧ Fmt.f64.width = 64 :=
  ⟨by decide +kernel, by decide +kernel, by decide +kernel, by decide +kernel, ⟨_, rfl⟩, ⟨_, _, rfl, by decide +kernel⟩,
    by decide +kernel, rfl, rfl, rfl, rfl⟩

theorem wit_SpecialFunctions :
    FType.f32 ≠ FType.f64 ∧ FType.f64 = FType.f64 ∧ Fmt.f16 ∈ [Fmt.f16, Fmt.bf16, Fmt.f32] ∧
    Fmt.f16.val 0x7E00 = .nan false ∧ Fmt.bf16.val 0x7F81 = .nan true ∧ Fmt.f32.val 0xFF800000 = .inf true ∧
    Fmt.f32.val 0x80000000 = .fin true 0 (-149) ∧ Fmt.f32.val 0xBF800000 = .fin true (2 ^ 23) (-23) ∧
    ¬Fmt.f32.isSub 0xBF800000 ∧ ((2 ^ 23 : Nat) : ℚ) * 2 ^ (-23 : ℤ) = 1 ∧ ((2 ^ 23 : Nat) : ℚ) * 2 ^ (-23 : ℤ) = (1 : Nat) ∧
    Fmt.f32.val 0x40200000 = .fin false (5 * 2 ^ 21) (-22) ∧ ((5 * 2 ^ 21 : Nat) : ℚ) * 2 ^ (-22 : ℤ) = (2 : Nat) + 1 / 2 := by
  refine ⟨by decide, by decide, by decide, by decide, by decide, by decide, by decide, by decide, by decide, ?_, ?_, ?_, ?_⟩
    <;> first | decide | norm_num

theorem wit_FloatCompareAndConvert :
    Fmt.f32.val 0xFFC00000 = .nan false ∧ Fmt.f32.val 0xFF800000 = .inf true ∧
    one.feature 16 ∧ one.feature 17 ∧ one.g.isLoupe = false ∧ (loupe one).g.isLoupe ∧
    (one.setCtx 0 0 { one.ctx 0 0 with feat0 := 0 }).feature 16 = false := by decide +kernel

theorem wit_LaneMoves : (loupe one).g.isLoupe ∧ one.g.isLoupe = false ∧ Mask.has one.actNH 95 ∧ Mask.has ((wP 1 (Mask.one 95) one).readP 1) 95 := by
  decide +kernel

theorem wit_ScansAndReductions : one.g.isLoupe = false ∧ (Mask.list one.actNH).length = 96 := by decide +kernel

/-- A record set at 0x1000: D of two elements at 0x3000, A of two rows of three at 0x2000. -/
def sweeps (s : State) : State := wS 8 0x1000 (wT 0x1000 (rec32 0x3000 1 2 4 4 ++ rec32 0x2000 3 2 4 12) s)

/-- The group has a store in its core's buffer. -/
def storing (s : State) : State := { s with wtq := [WtEntry.ofBytes 0 0 .core 0 0x1010 [1, 2]] }

theorem wit_Sweeps :
    (let s := sweeps one
     let x := s.readS 8
     one.g.isLoupe = false ∧ (wS 8 0x1020 one).readS 8 % 64 ≠ 0 ∧ x.toNat % 64 = 0 ∧ s.g.inSave = false ∧ s.cuts = [] ∧
     (one.setCtx 0 0 { one.ctx 0 0 with feat0 := 0 }).feature 24 = false ∧ one.feature 24 ∧
     (match [0, 1].mapM (s.iterAt x) with
     | some [some d, some a] =>
       let go := fun (s : State) n => sweepGo s.wordPc (fun i s' => s'.element [(a, [coords d.ext i])] d (coords d.ext i)
         fun v => ((v.headD []).headD 0, 0)) n 0 (s.setIx true s.wordPc 0)
       decide (a.rank = d.rank ∧ a.rank ≤ 3 ∧ 0 < a.rank ∧ d.ty = a.ty ∧ d.ext = a.ext.set 0 1 ∧ 1 < d.count - 0) &&
         (go s d.count).2.isNone && !(go s d.count).1.writing && (go (storing s) d.count).2.isNone &&
         (go (storing s) d.count).1.writing && (go { s with cuts := [] } 1).2.isNone
     | _ => false) = true) ∧
    (let s := wS 8 0x1000 (wT 0x1000 (rec32 0x3000 1 2 4 4 ++ rec32 0x2000 1 2 4 12) one)
     (match [0, 1].mapM (s.iterAt (s.readS 8)) with
     | some [some d, some a] => decide (d.ext = a.ext ∧ d.ty = a.ty ∧ d.rank = a.rank)
     | _ => false) = true) ∧
    (let s := wS 8 0x1000 (wT 0x1000 (rec32 0x3000 1 2 4 4 ++ (rec32 0x2000 3 2 4 12).set 9 3) one)
     (match [0, 1].mapM (s.iterAt (s.readS 8)) with
     | some [some d, some a] => decide (d.ty ≠ a.ty ∧ a.rank = d.rank)
     | _ => false) = true) ∧
    (let s := wS 8 0x1000 (wT 0x1000 (toBytes 64 (0x7FFF8 + 2 * 2 ^ 72 + 2 ^ 80 + 2 * 2 ^ 128 + 2 ^ 144 + 2 ^ 160 + 2 ^ 176 + 4 * 2 ^ 192)) one)
     (match s.iterAt (s.readS 8) 0 with
     | some (some d) => decide (
       d.sp = .tile ∧ d.rank = 1 ∧ d.ext = [2, 1, 1, 1] ∧ d.str.headD 0 = 4 ∧ d.base.toNat % 4 = 0 ∧
       d.base.toNat + 4 * 2 ≤ s.blk.tileSize ∧ s.blk.tileSize ≤ 2 ^ 19 ∧ s.g.sweep.valid = false ∧ s.writing = false)
     | _ => false) = true) ∧
    (let s := wS 8 0x1000 (wT 0x1000 (rec32 0x80000 1 2 4 4 ++ rec32 0x2000 3 2 4 12) one)
     (match [0, 1].mapM (s.iterAt (s.readS 8)) with
     | some [some d, some a] => (match (sweepGo s.wordPc (fun i s' => s'.element [(a, [coords d.ext i])] d (coords d.ext i) fun _ => (0, 0)) d.count 0
         (s.setIx true s.wordPc 0)).2 with
       | some (.addr _ (.prot _)) => true
       | _ => false)
     | _ => false) = true) := by decide +kernel

/-- The coordinates below some extents. -/
def box : List Nat → List (List Nat)
  | [] => [[]]
  | e :: t => (List.range e).flatMap fun x => (box t).map (x :: ·)

theorem mem_box {cs es : List Nat} (h : List.Forall₂ (· < ·) cs es) : cs ∈ box es := by
  induction h with
  | nil => exact List.mem_singleton.2 rfl
  | cons h _ ih => exact List.mem_flatMap.2 ⟨_, List.mem_range.2 h, List.mem_map.2 ⟨_, ih, rfl⟩⟩

/-- The records of `sweeps one`: D of two elements, A of two rows of three. -/
def itD : Iter := ⟨0x3000, .tile, .fp .f32, 2, .core, [1, 2, 1, 1], [4, 4, 0, 0]⟩
def itA : Iter := ⟨0x2000, .tile, .fp .f32, 2, .core, [3, 2, 1, 1], [4, 12, 0, 0]⟩

theorem itD_mem : ∀ cs ∈ box itD.ext, (itD.addr cs).toNat % 4 = 0 ∧ 0x3000 ≤ (itD.addr cs).toNat ∧
    (itD.addr cs).toNat + 4 ≤ 0x3010 ∧ ∀ cs' ∈ box itD.ext, cs ≠ cs' →
      (itD.addr cs).toNat + 4 ≤ (itD.addr cs').toNat ∨ (itD.addr cs').toNat + 4 ≤ (itD.addr cs).toNat := by decide +kernel

theorem itA_mem : ∀ cs ∈ box itA.ext, (itA.addr cs).toNat % 4 = 0 ∧ (itA.addr cs).toNat + 4 ≤ 0x3000 := by decide +kernel

theorem wit_Sweeps_tile : (let s := sweeps one
    [0, 1].mapM (s.iterAt (s.readS 8)) = some [some itD, some itA] ∧ s.blk.tileSize ≤ 2 ^ 24 ∧ s.writing = false) ∧
    (sweeps one).inTile itD ∧ (sweeps one).inTile itA ∧ itA.apart itD ∧ itD.apart itA ∧ itD.distinct := by
  have ht : (sweeps one).blk.tileSize = 2 ^ 19 := by decide +kernel
  refine ⟨by decide +kernel, ⟨rfl, fun cs h => ?_⟩, ⟨rfl, fun cs h => ?_⟩, fun cs cs' k h h' hk hk' => ?_,
    fun cs cs' k h h' hk hk' => ?_, fun cs cs' k h h' hn hk hk' => ?_⟩
  · have := itD_mem cs (mem_box h)
    rw [ht]
    exact ⟨this.1, by have := this.2.2.1; show _ + 4 ≤ _; omega⟩
  · have := itA_mem cs (mem_box h)
    rw [ht]
    exact ⟨this.1, by have := this.2; show _ + 4 ≤ _; omega⟩
  · have := itA_mem cs (mem_box h)
    have := itD_mem cs' (mem_box h')
    exact absurd (Nat.lt_of_lt_of_le hk.2 (show (itA.addr cs).toNat + 4 ≤ _ by omega)) (Nat.not_lt.2 hk'.1)
  · have := itD_mem cs (mem_box h)
    have := itA_mem cs' (mem_box h')
    exact absurd (Nat.lt_of_lt_of_le hk'.2 (show (itA.addr cs').toNat + 4 ≤ _ by omega)) (Nat.not_lt.2 hk.1)
  · rcases (itD_mem cs (mem_box h)).2.2.2 cs' (mem_box h') hn with h1 | h1
    · exact absurd (Nat.lt_of_lt_of_le hk.2 h1) (Nat.not_lt.2 hk'.1)
    · exact absurd (Nat.lt_of_lt_of_le hk'.2 h1) (Nat.not_lt.2 hk.1)

/-- The bytes of a record set, with the scalar and the mode, as a sweep reads them. -/
def keepOf (s : State) (ks : List Nat) : Option SweepKeep :=
  ((0 :: ks).mapM (s.recordAt (s.readS 8))).map fun rs => ⟨rs, s.readS 0, s.ftz⟩

/-- The records of a set that can be read. -/
def parsed (s : State) : Option (List Iter) := (keepOf s [1]).bind fun k => k.recs.mapM Iter.parse

theorem wit_Sweeps_records :
    (sweeps one).e.wait = .none ∧ (sweeps one).cuts = [] ∧ (parsed (sweeps one)).isSome ∧
    keepOf (wS 8 0x80000 one) [1] = none ∧
    (let s := wS 8 0x1000 (wT 0x1000 (toBytes 64 0) one)
     keepOf s [1] ≠ none ∧ parsed s = none) ∧
    (let s := wE (fun e => { e with wait := .stores }) (sweeps one)
     s.e.wait = .stores) ∧
    (match keepOf (sweeps one) [1] with
     | some k => (wE (fun e => { e with wait := .sweep k }) one).e.wait == .sweep k && (k.recs.mapM Iter.parse).isSome
     | none => false) = true ∧
    (let s := handlerS true (sweeps one)
     s.g.inSave ∧ ((parsed s).map fun ds => ds.map (·.sp)) = some [.tile, .tile]) ∧
    (let s := sweeps { one with cuts := [1] }
     s.cuts = [1] ∧ ((parsed s).map fun ds => ds.map (·.count)) = some [2, 6]) := by decide +kernel

/-- Lane l at 0x1010 + 4 l. -/
def laneAddr (s : State) : State := wS 2 0x1010 (wV 1 (fun l => 4 * l) s)

def mv : MAddr := .sv 2 1

theorem wit_ScalarMemory :
    (let s := wS 1 0x1010 one
     let va := s.readS 1 + s.readB (.imm 0)
     let r := s.locate .glob va 8 .load
     okL r ∧ (match r.2 with
       | .ok loc => decide (r.1.badLine [(0, va, .ok loc)] = none)
       | _ => false) = true ∧ okL (s.locate .glob va 8 .store)) ∧
    (let s := onG one fun g => { g with sr := { g.sr with gotb := 0x1014 } }
     let r := s.locate .glob ((s.hg.sr.gotb &&& ~~~ 7) + 8 * s.readB (.imm 1)) 8 .load
     match r.2 with
     | .ok (.glob pa asid) => decide (r.1.badLine [(0, 0, .ok (.glob pa asid))] = none ∧
         r.1.consts.get none (constKey r.1.core pa) = none)
     | _ => false) = true ∧
    okR (one.codeWord 0) ∧ okR (one.codeWord 1) ∧
    (let s := wS 1 0x1010 one
     match (s.locate .glob 0x1010 8 .store).2 with
     | .ok (.glob _ _) => !s.g.isLoupe && decide (s.pendingStores s.cur.gid < 1023)
     | _ => false) = true ∧
    ((wS 1 0x1012 one).locate .glob 0x1012 8 .load).2 = .mis ∧ ((wS 1 0x1012 one).locate .glob 0x1012 8 .store).2 = .mis ∧
    (let s := wS 1 0x1012 one
     (s.caddr (.s 1)).toNat % 4 ≠ 0) ∧
    (let s := wS 1 0x1010 one
     let base := s.caddr (.s 1)
     let els := (Mask.list s.actNH).map Fin.val
     base.toNat % 4 = 0 ∧ s.g.isLoupe = false ∧
       (cstoreGo base 4 .core (fun l => s.dataBytes (.v 2) 4 l) 0 els (s.relPart rlx)).2.isNone) ∧
    (let s := onG (wS 1 0x1010 one) fun g => { g with sr := { g.sr with fidxV := true, fidxIx := 95, fidxPc := one.wordPc } }
     let els := (Mask.list s.actNH).map Fin.val
     s.rg.sr.fidxV ∧ s.rg.sr.fidxPc = s.wordPc ∧
       (cstoreGo (s.caddr (.s 1)) 4 .core (fun l => s.dataBytes (.v 2) 4 l) 95 (els.drop 95) (s.relPart rlx)).2.isNone) := by
  decide +kernel

def isWait : LRes → Bool
  | .wait _ => true
  | _ => false

/-- What the access of an address meets. -/
def meetsAt (s : State) (va : Word64) (need : Need) (p : LRes → Bool) : Bool := p (s.locate .glob va 8 need).2

/-- The line of the words at packet 0 holds an uncorrectable error. -/
def badCodeS : State := { one with bad := [0x1000 / 128] }

theorem wit_ScalarMemory_stops :
    ([Need.load, .store].all fun n =>
      meetsAt one 0x300000 n (· == .page) && meetsAt one 0x0100000000000000 n (· == .prot 3) &&
      meetsAt { one with rdymap := 0 } 0x1010 n isWait) ∧
    (okR (badCodeS.codeWord 0) ∧ (badCodeS.badCode [0]).isSome ∧ one.bad = [] ∧ one.badCode [0, 1] = none) ∧
    (let s : State := { one.setGroup 16384 { live := true, kind := .loupe 0 1 95, bid := 1, tab := [(0, { valid := true })] } with
        cur := ⟨16384, 0⟩, tlb := one.tlb.map fun t => { t with unit := 512 } }
     s.g.isLoupe ∧ okL (s.locate .glob 0x1010 8 .load)) ∧
    ([0x300000, 0x0100000000000000].all fun a =>
      let s := wS 1 a one
      (cstoreGo (s.caddr (.s 1)) 4 .core (fun l => s.dataBytes (.v 2) 4 l) 0 ((Mask.list s.actNH).map Fin.val) (s.relPart rlx)).2.isSome) ∧
    (let s : State := wS 1 0x1010 { one with rdymap := 0 }
     ((cstoreGo (s.caddr (.s 1)) 4 .core (fun l => s.dataBytes (.v 2) 4 l) 0 ((Mask.list s.actNH).map Fin.val)
       (s.relPart rlx)).2.any fun x => isWait x.2.2)) ∧
    (let s : State := wS 1 0x1010 { one with rdymap := 0 }
     (s.prefetchWait (s.addr (.s 1) 0)).isSome) ∧
    (∀ l < 96, Mask.has one.active l → (wS 1 0x1010 one).prefetchWait ((wS 1 0x1010 one).addr (.s 1) l) = none) := by
  decide +kernel

theorem wit_VectorLoads :
    (let s := laneAddr one
     let act := (Mask.list s.active).map Fin.val
     okAll (locateAll .glob (fun l => s.addr mv l) 4 .load act s) ∧
     okAll (locateAll .tile (fun l => s.addr mv l) 4 .load act s)) ∧
    (let s := wS 1 0x10F0 (lane0 one)
     okAll (locateAll .glob (fun l => s.addr (.s 1) l) 16 .load [0] s) ∧
     okAll (locateAll .tile (fun l => s.addr (.s 1) l) 16 .load [0] s)) ∧
    (let s := wS 1 0x3FFFF8 ({ lane0 one with vown := [(0, { valid := true })] })
     okAll (locateAll .vault (fun l => s.addr (.s 1) l) 8 .load [0] s)) ∧
    (let s := wS 1 0x1010 one
     let els := (Mask.list s.actNH).map Fin.val
     okAll (locateAll .glob (fun l => s.caddr (.s 1) + BitVec.ofNat 64 (4 * (els.takeWhile (· != l)).length)) 4 .load els s) ∧
     (s.caddr (.s 1)).toNat % 4 = 0) := by decide +kernel

theorem wit_TileAccesses :
    (let s := wS 2 0x7FE80 (wV 1 (fun l => 4 * l) one)
     s.chain = none ∧ s.blk.tileSize ≤ 2 ^ 24 ∧ s.g.inSave = false ∧
     (∀ l < 96, Mask.has s.active l → (s.addr mv l).toNat % 4 = 0 ∧ (s.addr mv l).toNat + 4 ≤ s.blk.tileSize)) ∧
    (let s := wS 2 0x1000 one
     ∀ l < 96, Mask.has s.actNH l → (s.addr mv l).toNat % 16 = 0 ∧ (s.addr mv l).toNat + 16 ≤ s.blk.tileSize) := by decide +kernel

theorem wit_VectorStores :
    (let s := laneAddr one
     let ls := s.storeLanes .glob (fun l => s.addr mv l) 4
     let r := locateAll .glob (fun l => s.addr mv l) 4 .store ls s
     okAll r ∧ s.g.isLoupe = false ∧ r.1.pendingStores s.cur.gid + r.2.length ≤ 1023) ∧
    (let s := wS 1 0x3FFFF8 ({ lane0 one with vown := [(0, { valid := true })] })
     let ls := s.storeLanes .vault (fun l => s.addr (.s 1) l) 8
     okAll (locateAll .vault (fun l => s.addr (.s 1) l) 8 .store ls s)) ∧
    (let s := wS 2 0x1011 (wV 1 (fun l => 4 * l) one)
     let act := (Mask.list s.active).map Fin.val
     (locateAll .glob (fun l => s.addr mv l) 4 .load act s).2.find? (fun r => Mask.has s.actNH r.1 && r.2.2 == .mis) =
       some (0, 0x1011, .mis) ∧
     (locateAll .glob (fun l => s.addr mv l) 4 .store (s.storeLanes .glob (fun l => s.addr mv l) 4) s).2.find?
       (fun r => r.2.2 == .mis) = some (0, 0x1011, .mis)) ∧
    (let s := wS 2 0x0100000000000000 one
     let act := (Mask.list s.active).map Fin.val
     let r := (locateAll .glob (fun l => s.addr mv l) 4 .load act s).2
     r.find? (fun r => Mask.has s.actNH r.1 && match r.2.2 with
       | .prot _ => true
       | _ => false) = some (0, 0x0100000000000000, .prot 3) ∧ (r.all fun x => x.2.2 != .mis)) ∧
    (let s := wS 2 0x0100000000000000 one
     let r := (locateAll .glob (fun l => s.addr mv l) 4 .store (s.storeLanes .glob (fun l => s.addr mv l) 4) s).2
     r.find? (fun r => match r.2.2 with
       | .prot _ => true
       | _ => false) = some (0, 0x0100000000000000, .prot 3) ∧ (r.all fun x => x.2.2 != .mis)) ∧
    (1 : Word64).toNat % 4 ≠ 0 := by decide +kernel

/-- No lane's access fails a check before its page, and one meets a fault of its page or a wait. -/
def stopsOnly (p : LRes → Bool) (rs : List (Nat × Word64 × LRes)) : Bool :=
  (rs.all fun r => r.2.2 != .mis && match r.2.2 with
    | .prot _ => false
    | _ => true) && rs.any (fun r => p r.2.2)

theorem wit_VectorStores_stops :
    ([Need.load, .store].all fun n =>
      let act := (Mask.list one.active).map Fin.val
      let s := wS 2 0x300000 (wV 1 (fun l => 4 * l) one)
      let u : State := { laneAddr one with rdymap := 0 }
      let v : State := wS 1 0 { lane0 one with vown := [(0, { valid := true })], rdymap := 0 }
      stopsOnly (· == .page) (locateAll .glob (fun l => s.addr mv l) 4 n act s).2 &&
      stopsOnly isWait (locateAll .glob (fun l => u.addr mv l) 4 n act u).2 &&
      (n == .store || stopsOnly isWait (locateAll .vault (fun l => v.addr (.s 1) l) 8 n [0] v).2)) ∧
    (let v : State := wS 1 0 { lane0 one with vown := [(0, { valid := true, scrub := true })] }
     stopsOnly isWait (locateAll .vault (fun l => v.addr (.s 1) l) 8 .store [0] v).2) ∧
    one.g.kind = .user ∧ one.g.live ∧ (ringed fun c => { c with fltwr := 16 }).myCtx.ringFull ∧
    (ringed fun c => { c with recs := [[7]] }).myCtx.recs ≠ [] ∧
    (let s := ringed id
     let p := s.setG (s.g.setEnt s.cur.ent (s.e.parked .fault s.clock))
     s.myCtx.recs = [] ∧ s.myCtx.ringFull = false ∧
     okHw (State.ctxWrite (p.setG { p.g with sr := { p.g.sr with faddr := 5 } }) s.blk.pcore 0 0 s.myCtx.fltring (toBytes 64 7))) ∧
    (let s := wS 2 0x1000 (handlerS true one)
     s.g.inSave ∧ s.chain = none ∧ ∀ l < 96, Mask.has s.actNH l → (s.addr mv l).toNat % 16 = 0) := by decide +kernel

/-- The block with n accumulators. -/
def accs (n : Nat) (s : State) : State := wB (fun b => { b with kern := { b.kern with accn := n } }) s

def mm2 : MmacF := ⟨false, 0, 1⟩
def mm1 : MmacF := ⟨false, 0, 0⟩

def arrival (s : State) : MmacArrival :=
  { f := mma0, c := mm2, ent := 0, a := (s.readA mma0).regs, e := (s.readA mma0).exps, b := s.readS 4, mask := s.active }

theorem wit_AccumulatorMoves :
    one.g.isLoupe = false ∧ (accs 1 one).blk.hasAcc false 1 = false ∧ (accs 2 one).blk.hasAcc true 1 = false ∧
    (accs 10 one).blk.hasAcc false 9 ∧ (accs 10 one).blk.hasAcc true 8 ∧ one.g.inSave = false ∧
    one.blk.hasAcc false 0 ∧ (onG one fun g => { g with mmacAt := some (arrival one) }).accBusy false 0 ∧
    one.accBusy false 0 = false ∧
    (wMask 1 one).accStop true false 1 = some tPartial ∧ (accs 1 one).accStop true false 1 = some (tProt 0 none none) ∧
    (accs 1 one).accStop false false 1 = some (tProt 0 none none) ∧
    (handlerS true one).accStop true false 1 ≠ none ∧ one.accStop true false 9 = none ∧ one.accStop false false 9 = none ∧
    one.accStop true true 8 = none ∧ one.accStop false true 8 = none := by decide +kernel

theorem wit_MmaAccumulates :
    one.g.isLoupe = false ∧ one.keepOk mma0 ∧ one.mmaStop mma0 = none ∧
    okR (one.fetchB one.g.bid mma0 (one.readS 4)) ∧
    (onG one fun g => { g with keep := some ⟨1, 0, .bf16, false, [], []⟩ }).keepOk mma0 = false ∧
    (onG one fun g => { g with keep := some ⟨0, 0, .bf16, false, [], []⟩ }).keepOk mma0 ∧
    (wMask 1 one).mmaStop mma0 = some tPartial := by decide +kernel

/-- A neighbourhood of two blocks of one group each, cohort 1. -/
def pairOf (s : State) : State :=
  let s := wB (fun b => { b with coh := 1 }) s
  let s := (s.setGroup 17 { s.group 0 with bid := 2 }).setBlock 2 { s.block 1 with pcore := 1, member := 1 }
  { s with cohorts := [(1, { live := true, level := .neigh, h := 1, w := 2, members := [1, 2] })] }

theorem wit_MmacMeets :
    one.g.isLoupe = false ∧ (mm2.hm.val + 1) * (mm2.wm.val + 1) ≠ 1 ∧ (one.cohorts.get Cohort.empty one.blk.coh).live = false ∧
    (mm1.hm.val + 1) * (mm1.wm.val + 1) = 1 ∧ one.mmaStop mma0 = none ∧ (wMask 1 one).mmaStop mma0 = some tPartial ∧
    okR (one.fetchB one.g.bid mma0 (one.readS 4)) ∧
    (let s := pairOf one
     let co := s.cohorts.get Cohort.empty s.blk.coh
     let s0 := s.setG { s.g with mmacAt := some (arrival s) }
     co.live = true ∧ co.level = .neigh ∧ co.h = 1 ∧ co.w = 2 ∧ s.mmaStop mma0 = none ∧ co.members.length = 2 ∧
       (s0.arrivals s.g.gix s.g.mmacN co.members).isNone) ∧
    (let s := pairOf one
     let s := s.setGroup 17 { s.group 17 with mmacAt := some (arrival one) }
     let co := s.cohorts.get Cohort.empty s.blk.coh
     let s0 := s.setG { s.g with mmacAt := some (arrival s) }
     (match s0.arrivals s.g.gix s.g.mmacN co.members with
      | none => false
      | some ms => ms.length == 2 && ms.all (fun m => sameShape (arrival s) m.arr) && decide ((ms.map (·.gid)).Nodup) &&
          okR (State.fetchAll (ms.take 2) s0) && okR (State.fetchAll ms s0)) = true) := by decide +kernel

/-- Another group's MMAC stands at its rendezvous over tile 0. -/
def busyTile : State := (twoGroups one).setGroup 1 { (twoGroups one).group 1 with mmacAt := some (arrival one) }

theorem wit_tilesBusy :
    (busyTile.accBusy false 0 ∧ busyTile.accStop true false 0 = none ∧ busyTile.accStop false false 0 = none ∧
      busyTile.keepOk mma0 ∧ busyTile.mmaStop mma0 = none ∧ busyTile.g.mmacAt = none ∧ busyTile.g.isLoupe = false) ∧
    (let s := onG (pairOf one) fun g => { g with mmacAt := some (arrival one) }
     let co := s.cohorts.get Cohort.empty s.blk.coh
     co.live = true ∧ co.level = .neigh ∧ co.h = 1 ∧ co.w = 2 ∧ s.mmaStop mma0 = none ∧ s.g.mmacAt ≠ none) ∧
    (let s := pairOf one
     let s := s.setGroup 17 { s.group 17 with mmacAt := some { arrival one with f := { mma0 with blb := true } } }
     let co := s.cohorts.get Cohort.empty s.blk.coh
     let s0 := s.setG { s.g with mmacAt := some (arrival s) }
     s.accBusy false 0 = false ∧
     (match s0.arrivals s.g.gix s.g.mmacN co.members with
      | none => false
      | some ms => ms.any fun m => ms.any fun m' => !sameShape m.arr m'.arr) = true) := by decide +kernel

theorem wit_Atomics :
    (let s := laneAddr one
     let ls := (Mask.list s.actNH).map Fin.val
     okAll (locateAll .glob (fun l => s.addr mv l) 4 .both ls s)) ∧
    (let s := wS 1 0x1010 one
     let ls := (Mask.list s.actNH).map Fin.val
     okAll (locateAll .glob (fun l => s.addr (.s 1) l) 16 .both ls s) ∧
     okAll (locateAll .glob (fun l => s.addr (.s 1) l) 8 .both ls s)) ∧
    one.feature 25 ∧ (one.setCtx 0 0 { one.ctx 0 0 with feat0 := 0 }).feature 25 = false := by decide +kernel

theorem wit_CoherentWrites :
    ([(0, 63, 0x1FFC, 4, Scope.pkg), (0, 1, 0xFFFFFFFFFFFF, 1, Scope.die), (5, 5, 0, 128, Scope.clu), (0, 16, 8, 8, Scope.ipr)] :
      List (Nat × Nat × Nat × Nat × Scope)).all (fun c =>
        decide (c.1 < 64) && decide (c.2.1 < 64) && decide (c.2.2.1 < 2 ^ 48) && decide (c.2.2.1 % 128 + c.2.2.2.1 ≤ 128) &&
        (cluPath c.2.1).getD (Scope.depth c.2.2.2.2) 78 == (cluPath c.1).getD (Scope.depth c.2.2.2.2) 78) ∧
    (∀ u < 64, (one.copy u 5).owner = none) := by decide +kernel

theorem wit_FencesAndWaits :
    one.g.isLoupe = false ∧ Scope.clu ≠ Scope.core ∧
    (let s : State := { one with vq := [{ gid := 0, vault := 511, off := 4194303, bytes := [7] }] }
     s.vq = [{ gid := 0, vault := 511, off := 4194303, bytes := [7] }] ∧ s.cur.gid = 0) ∧
    one.e.wait = .none ∧ (wE (fun e => { e with wait := .counter 2 7 }) one).e.wait = .counter 2 7 ∧
    (wE (fun e => { e with wait := .ring 5 3 }) one).e.wait = .ring 5 3 ∧ (one.tc 31).bind = .unbound ∧
    (let s := wS 6 1 (wB (fun b => { b with tc := [(2, { bind := .soft })] }) one)
     (s.tc 2).bind ≠ .unbound ∧ (s.tc 2).value < s.waitCount 6) ∧
    (let s := wB (fun b => { b with tc := [(2, { bind := .soft })] }) one
     (s.tc 2).bind ≠ .unbound ∧ s.waitCount 6 ≤ (s.tc 2).value) ∧
    (loupe one).g.isLoupe ∧ one.ringOf 0 = none ∧
    (let s : State := (wB (fun b => { b with q := [5] }) one).setRing 5 { ring0 with pub := 0, fill := 1 }
     s.ringOf 0 = some 5 ∧ (s.ring 5).st = .active ∧ (s.ring 5).published 0xFFFFFFFF ∧ (s.ring 5).published (s.waitSlot 1) = false ∧
     s.ringOf 0 = some 5 ∧ (wS 1 0xFFFFFFFF s).waitSlot 1 = 0xFFFFFFFF) := by
  decide +kernel

/-- A SYNCM mask of every lane in v1 to v3. -/
def ones (s : State) : State := wV 1 (fun _ => 0xFFFFFFFF) (wV 2 (fun _ => 0xFFFFFFFF) (wV 3 (fun _ => 0xFFFFFFFF) s))

theorem wit_Barriers :
    (let s := twoGroups one
     let b := s.blk.bars.get Bar.zero 15
     s.g.kind = .user ∧ s.g.live ∧ s.e.valid ∧ s.e.after = none ∧ s.cur.gid ∈ s.blk.gids ∧ s.blk.gids.Nodup ∧
     s.g.gix ∉ b.arrived ∧ b.arrived.Nodup ∧ noSlot ∉ b.arrived ∧ b.early = [] ∧
     1 ∈ s.liveIx s.g.bid ∧ 1 ≠ s.g.gix ∧ 1 ∉ b.arrived ∧ s.g.gix ∈ s.liveIx s.g.bid) ∧
    (let s := wB (fun b => { b with bars := [(15, { arrived := [1] })] }) (twoGroups one)
     let b := s.blk.bars.get Bar.zero 15
     s.g.gix ∉ b.arrived ∧ b.arrived.Nodup ∧ noSlot ∉ b.arrived ∧ b.early = [] ∧ s.g.gix ∈ s.liveIx s.g.bid ∧
     (∀ i ∈ s.liveIx s.g.bid, i ≠ s.g.gix → i ∈ b.arrived) ∧ 1 ∈ s.liveGids s.blk) ∧
    (let s := wB (fun b => { b with bars := [(16, { arrived := [1] })] }) (handlerS false (twoGroups one))
     s.g.hnd.isSome ∧ s.e.valid ∧ s.e.after = none ∧ s.g.gix ∉ (s.blk.bars.get Bar.zero 16).arrived) := by
  decide +kernel

theorem wit_Barriers_cohort :
    (let s := pairOf one
     let coh := s.cohorts.get Cohort.empty s.blk.coh
     let me := 16 * s.g.bid + s.g.gix
     s.g.kind = .user ∧ s.g.live ∧ s.e.valid ∧ s.e.after = none ∧ s.cur.gid ∈ s.blk.gids ∧ s.blk.gids.Nodup ∧
     me ∉ coh.cbar.arrived ∧ coh.cbar.arrived.Nodup ∧ noSlot ∉ coh.cbar.arrived ∧ coh.cbar.early = [] ∧
     32 ∈ s.cohortIx coh ∧ 32 ≠ me ∧ 32 ∉ coh.cbar.arrived) ∧
    (let s := pairOf one
     let s : State := { s with cohorts := s.cohorts.map fun c => (c.1, { c.2 with cbar := { arrived := [32] } }) }
     let coh := s.cohorts.get Cohort.empty s.blk.coh
     let me := 16 * s.g.bid + s.g.gix
     me ∉ coh.cbar.arrived ∧ coh.cbar.arrived.Nodup ∧ noSlot ∉ coh.cbar.arrived ∧ coh.cbar.early = [] ∧
     me ∈ s.cohortIx coh ∧ (s.cohortIx coh).Nodup ∧ s.cur.gid ∈ s.cohortGids coh ∧
     (∀ i ∈ s.cohortIx coh, i ≠ me → i ∈ coh.cbar.arrived) ∧
     ∀ b ∈ coh.members, (s.block b).live ∧ (s.block b).saved = false) := by decide +kernel

theorem wit_Barriers_syncm :
    one.g.isLoupe = false ∧ one.chain = none ∧ (wMask 0 one).actNH = 0 ∧
    (let s := wV 1 (fun l => l) one
     Mask.has s.actNH 0 ∧ Mask.has s.actNH 95 ∧ s.member 1 0 ≠ s.member 1 95) ∧
    (let s := ones one
     s.actNH ≠ 0 ∧ (∀ j < 96, Mask.has s.actNH j → s.member 1 j = Mask.all) ∧ s.actNH = Mask.all ∧ s.g.syncm = [] ∧
     Mask.all &&& s.g.exited = 0 ∧
     (let u := ones (wMask 1 one)
      u.actNH &&& ~~~ Mask.all = 0 ∧ u.actNH ≠ Mask.all ∧ ∀ j < 96, Mask.has u.actNH j → u.member 1 j = Mask.all) ∧
     (let u := onG s fun g => { g with exited := 1 }
      Mask.all &&& u.g.exited ≠ 0) ∧
     ((∀ j < 96, Mask.has one.actNH j → one.member 1 j = 0) ∧ one.actNH &&& ~~~ 0 ≠ 0)) := by decide +kernel

/-- A waiting set of all lanes, of which the upper half has arrived with entry 1. -/
def halfArrived (m : Mask) : State :=
  onG (ones (wMask m one)) fun g => { g with
    syncm := [⟨Mask.all, 0xFFFFFFFFFFFF <<< 48, [1]⟩]
    tab := [(0, g.ent 0), (1, { valid := true, st := .parked, wait := .syncm, mask := 0xFFFFFFFFFFFF <<< 48 })] }

theorem wit_Barriers_syncmJoins :
    ([(1, false), (0xFFFFFFFFFFFF, true)].all fun c =>
      let s := halfArrived c.1
      s.actNH != 0 && ((List.range 96).all fun j => !Mask.has s.actNH j || s.member 1 j == Mask.all) &&
        s.actNH &&& ~~~ Mask.all == 0 && Mask.all &&& s.g.exited == 0 &&
        (match s.g.syncm.find? (fun w => w.m == Mask.all) with
         | some w => (w.arrived ||| s.actNH == Mask.all) == c.2 && decide (w.ents.Nodup) && !w.ents.contains s.cur.ent
         | none => false)) ∧
    (let s := onG (ones one) fun g => { g with syncm := [⟨1, 0, []⟩] }
     s.g.syncm.any fun w => w.m != Mask.all && w.m &&& Mask.all != 0) := by decide +kernel

/-- The block with ring 5 on handle 0. -/
def ringS (c : Ring) (s : State) : State := (wB (fun b => { b with q := [5] }) s).setRing 5 c

theorem wit_RingInstructions :
    one.g.isLoupe = false ∧ (wMask 1 one).partialMask ∧ one.partialMask = false ∧ one.ringOf 0 = none ∧
    (let s := ringS ring0 one
     s.partialMask = false ∧ s.ringOf 0 = some 5 ∧ s.g.live ∧ (s.ring 5).st = .active ∧
     4 ≤ 2 ^ (s.ring 5).lcount - ((s.ring 5).fill - (s.ring 5).read).toNat ∧
     2 ^ (s.ring 5).lcount - ((s.ring 5).fill - (s.ring 5).read).toNat < 5 ∧
     s.blk.gids.getD s.g.gix 0 = s.cur.gid ∧ s.parkedOn 5 = []) ∧
    (let s := onG (ringS ring0 one) fun g => { g with onRings := [5] }
     s.parkedOn 5 = [16] ∧ (s.group ((s.block (16 / 16)).gids.getD (16 % 16) 0)).live) ∧
    (let r : Ring := { ring0 with fill := ring0.fill + 4 }
     r.st ≠ .error ∧ (r.publish 0xFFFFFFFE 4).isSome ∧ (r.publish 0xFFFFFFFE 5).isNone ∧ (r.publish 0xFFFFFFFF 1).isSome) ∧
    (let r : Ring := { ring0 with fill := ring0.fill + 4, pub := ring0.fill + 4 }
     (r.release 0xFFFFFFFE 4).isSome ∧ (r.release 0xFFFFFFFE 5).isNone ∧ r.st ≠ .error) ∧
    one.g.kind = .user ∧
    (let s := agentS (ringS { ring0 with pub := ring0.pub + 4, fill := ring0.pub + 4 } (wS 1 5 (wS 2 0xFFFFFFFE one)))
     let ring := s.ring (s.readS 1).toNat
     s.g.isAgent ∧ ring.live ∧ (ring.pub - BitVec.ofNat 32 (s.readS 2).toNat).toNat ≤ 2 ^ ring.lcount) ∧
    (let s := agentS (ringS { ring0 with pub := ring0.pub + 4 } (wS 1 5 (wS 2 0xFFFFFFFD one)))
     let ring := s.ring (s.readS 1).toNat
     2 ^ ring.lcount < (ring.pub - BitVec.ofNat 32 (s.readS 2).toNat).toNat) := by decide +kernel

theorem wit_RingIndices :
    let inv := fun (c : Ring) =>
      (c.pub - c.read).toNat ≤ (c.fill - c.read).toNat ∧ (c.fill - c.read).toNat ≤ 2 ^ c.lcount ∧ c.lcount ≤ 16 ∧
      (c.pmark.all fun m => decide ((m - c.pub).toNat < (c.fill - c.pub).toNat)) ∧
      c.rmark.all fun m => decide ((m - c.read).toNat < (c.pub - c.read).toNat)
    let c : Ring := { ring0 with pub := 0, fill := 2, pmark := [1], rmark := [0xFFFFFFFF] }
    inv c ∧ (c.publish 0 1).isSome ∧ (c.release 0xFFFFFFFE 1).isSome ∧ (c.restart 0xFFFFFFFE false).isSome ∧
    inv ring0 ∧ ring0.canClaim 4 := by decide +kernel

/-- A record of a restriction of five .f32 points at tile 0x2000 into three .f64 points at 0x3000 (R272). -/
def zrec (op : Nat) : List Byte :=
  toBytes 128 (0x2000 + 0x3000 * 2 ^ 64 + (5 + 2 ^ 16 + 2 ^ 32) * 2 ^ 128 + (3 + 2 ^ 16 + 2 ^ 32) * 2 ^ 192
    + (4 + 32 * 2 ^ 32 + 32 * 2 ^ 64) * 2 ^ 256 + (8 + 32 * 2 ^ 32 + 32 * 2 ^ 64) * 2 ^ 352 + 0x12 * 2 ^ 448
    + 0x13 * 2 ^ 456 + (0x10 + op) * 2 ^ 464)

/-- The table of weights 1/4, 1/2, 1/4 in one dimension (R273). -/
def ztab : List Byte := [1, 1] ++ List.replicate 14 0 ++ toBytes 8 0x3FD0000000000000 ++ toBytes 8 0x3FE0000000000000
  ++ toBytes 8 0x3FD0000000000000 ++ List.replicate 1000 0

/-- A Zoom context on handle 0 that holds the table, with the record at tile 0x1000, the table at 0x1400 and a grid of
1, 2, 4, 8, 16 at 0x2000. -/
def zooms : State :=
  let s := wT 0x2000 (words [0x3F800000, 0x40000000, 0x40800000, 0x41000000, 0x41800000]) (wT 0x1000 (zrec 1) one)
  wS 4 0x1400 (wS 3 0x1000 (wT 0x1400 ztab (wB (fun b => { b with tc := [(0, { bind := .zoom, tables := [(0, ztab)] })] }) s)))

/-- The restriction example: 1.0, 4.5 and 10.0. -/
theorem test_zrst_example :
    gives (exec (.engineOpComplete 1 0 1) (aft (.zrst 3) zooms)) fun t =>
      [0, 8, 16].map (fun o => rT (0x3000 + o) t + 2 ^ 32 * rT (0x3004 + o) t) ==
        [0x3FF0000000000000, 0x4012000000000000, 0x4024000000000000] && ((t.block 1).tc.get Tc.unbound 0).value == 1 := by
  decide +kernel

/-- Handle 1 on Prism channel 2, handle 2 counted by software, ring 5 attached to the channel. -/
def prisms (c : Ring) (s : State) : State :=
  ringS c (wB (fun b => { b with tc := [(1, { bind := .prism 2 }), (2, { bind := .soft, value := 0xFFFFFFFFFFFFFFFE })]
                                 kern := { b.kern with ratt := [0, 0, 0x80] } }) s)

/-- Lane 0 alone, with v2 at v3 on an address whose page lies in the transcode aperture. -/
def apertures : State :=
  let s := prisms ring0 (wV 2 (fun _ => 0x4000) (lane0 one))
  { s with
    tlb := ⟨0, 0, 0x4000, 12, 2 ^ 39, true, true, true⟩ :: s.tlb
    win := [(0, { en := true, ap := 2 ^ 39, size := 32 })] }

theorem wit_EngineIssue :
    one.g.isLoupe = false ∧ one.prismOf 2 = none ∧
    (let s := prisms ring0 one
     s.prismOf 2 = some 1 ∧ s.saveBars .glob = false ∧ s.attached 2 = some (0, 5) ∧ (s.ring 5).st = .active ∧
     (s.pairs 1 2).all (fun p => (s.lanePair 8 .tile .glob p.1 p.2.1 p.2.2).isNone &&
       (s.laneSlot 8 (2 ^ (s.ring 5).lsize) .glob p.1 p.2.1 p.2.2).isNone && (s.addStop .tile p.1 p.2.2).isNone) ∧
     ((s.ring 5).fill - (s.ring 5).read).toNat < 2 ^ (s.ring 5).lcount) ∧
    (let s := apertures
     s.prismOf 2 = some 1 ∧ s.saveBars .glob = false ∧
     (s.pairs 1 2).all (fun p => (s.lanePair 8 .glob .glob p.1 p.2.1 p.2.2).isNone) ∧
     (s.pairs 1 2).findSome? (fun p => s.addStop .glob p.1 p.2.2) = some (tProt 0 (some 0) (some 0x4000))) ∧
    (let s := prisms { ring0 with fill := ring0.fill + 4 } one
     2 ^ (s.ring 5).lcount ≤ ((s.ring 5).fill - (s.ring 5).read).toNat) ∧
    (one.setCtx 0 0 { one.ctx 0 0 with feat0 := 0 }).feature 20 = false ∧ one.feature 20 ∧ (wMask 1 one).partialMask ∧
    zooms.partialMask = false ∧ (zooms.tc 0).bind = .zoom ∧ (zooms.readS 4).toNat % 16 = 0 ∧
    zooms.ownTile (zooms.readS 4) 1040 = some ztab ∧ tableOk ztab ∧ tableOk (0 :: ztab.tail) = false ∧
    (one.tc 3).bind = .unbound ∧ (one.tc 3).bind ≠ .soft ∧ ((prisms ring0 one).tc 2).bind ≠ .unbound ∧
    ((prisms ring0 one).tc 2).bind = .soft ∧
    ((prisms ring0 one).tc 2).value.toNat + ((wS 1 1 (prisms ring0 one)).readS 1).toNat < 2 ^ 64 := by decide +kernel

theorem wit_EngineIssue_stops :
    (let s := wS 1 2 (prisms ring0 one)
     (s.tc 2).bind = .soft ∧ 2 ^ 64 ≤ (s.tc 2).value.toNat + (s.readS 1).toNat) ∧
    (one.prismOf 7 = none ∧ one.prismOf (6 + 1) = none) ∧
    (let s : State := { apertures with tlb := [], rdymap := 0 }
     s.prismOf 2 = some 1 ∧ (s.pairs 1 2).all (fun p => (s.addStop .glob p.1 p.2.2).isNone) ∧
       (s.pairs 1 2).filterMap (fun p => s.addWait .glob p.2.2) ≠ []) := by decide +kernel

theorem wit_EngineIssue_bulk :
    (let c : Nat := (2 ^ 46 : Nat)
     0 < c / 2 ^ 46) ∧
    (let c := 2 * 2 ^ 40 + 4 * 2 ^ 32 + 10
     spaceOf (c / 2 ^ 44 % 4) = some .glob ∧ spaceOf (c / 2 ^ 42 % 4) = some .glob ∧ c / 2 ^ 46 = 0 ∧ 2 ≤ c / 2 ^ 32 % 256 ∧
     c / 2 ^ 32 % 256 ≤ 64 ∧ 1 ≤ c % 2 ^ 32 ∧ c % 2 ^ 32 ≤ 2 ^ 24 ∧
     one.rangeAt .glob 0x1000 (4 * 12) = none ∧ one.rangeAt .glob 0x1000 (4 * interleaved true 4 10) = none ∧
     (prisms ring0 one).prismOf 2 = some 1 ∧ (0x1000 : Word64).toNat % 2 ^ (c / 2 ^ 40 % 4) = 0) ∧
    (let c := 2 ^ 10
     c / 2 ^ 32 % 1024 = 0 ∧ c % 2 ^ 32 % 2 ^ 10 = 0 ∧ (0x2000 : Word64).toNat % 2 ^ 13 = 0 ∧ (0x2000 : Word64).toNat % 2 ^ 7 = 0 ∧
     (wB (fun b => { b with tc := [(1, { bind := .prism 6 })] }) one).prismOf 6 = some 1 ∧ 2 ^ 10 % 2 ^ 11 ≠ 0) ∧
    (let a := zooms.readS 3
     zooms.partialMask = false ∧ zooms.feature 20 ∧ a.toNat % 128 = 0 ∧ (zooms.readS 4 + 1).toNat % 128 ≠ 0 ∧
     zooms.ownTile a 128 = some (zrec 1) ∧ ZRec.parse (ofBytes (1 :: List.replicate 127 0)) = none ∧
     (match ZRec.parse (ofBytes (zrec 1)) with
      | none => false
      | some r =>
        let t := (zooms.tc r.tc).latest r.slot
        let sr := gridRange r.sbase r.sext r.sstr (FType.bytes r.sfmt)
        let dr := gridRange r.dbase r.dext r.dstr (FType.bytes r.dfmt)
        decide (r.op = 1 ∧ r.op ≠ 2 ∧ (one.tc r.tc).bind ≠ .zoom ∧ (zooms.tc r.tc).bind = .zoom ∧ t ≠ [] ∧ tableKind t = 1 ∧
          tableDims t = r.dims ∧ sr.2 < dr.1 ∧ zooms.saveBars r.dsp = false ∧
          zooms.rangeStop r.ssp sr.1 sr.2 = none ∧ zooms.rangeStop r.dsp dr.1 dr.2 = none) &&
          gridAligned r.sbase r.sstr (FType.bytes r.sfmt) && gridAligned r.dbase r.dstr (FType.bytes r.dfmt)) = true) := by
  decide +kernel

theorem wit_TaskRecords :
    (wMask 1 one).partialMask ∧ one.partialMask = false ∧ ((wS 1 0x20 one).readS 1).toNat % 64 ≠ 0 ∧
    (wP 1 0 one).recLanes 1 = [] ∧ (one.readS 1).toNat % 64 = 0 ∧
    (let s := ringS { ring0 with lcount := 2, scope := .clu } (wP 1 0xF one)
     let ring := s.ring 5
     let ls := s.recLanes 1
     s.g.isLoupe = false ∧ ls ≠ [] ∧ s.recStop (s.readS 0) ls = none ∧ s.ringOf 0 = some 5 ∧ ring.lsize = 6 ∧
     ls.length ≤ 2 ^ ring.lcount ∧ ring.lcount ≤ 16 ∧ ring.st = .active ∧ ring.pmark = [] ∧ ring.pub = ring.fill ∧
     ls.length + (ring.fill - ring.read).toNat ≤ 2 ^ ring.lcount ∧
     (let u := (s.relScope .pkg).setRing 5 (ring.produces s.g.bid s.g.gix)
      okAll (locateAll .glob (fun k => ring.slotVa (ring.fill + BitVec.ofNat 32 k)) 64 .store (List.range 4) u))) ∧
    (let s := ringS { ring0 with fill := ring0.fill + 1 } (wP 1 0xF one)
     let ring := s.ring 5
     2 ^ ring.lcount < (s.recLanes 1).length + (ring.fill - ring.read).toNat) ∧
    (let s := wT 0 (toBytes 64 (0x1010 * 2 ^ 256)) (wP 1 1 one)
     let ls := s.recLanes 1
     let recs := ls.map fun l => (l, s.tileBytes (recVa (s.readS 0) l) 64)
     let compl := fun (l : Nat) => ((recs.find? fun r => r.1 == l).map fun r => recCompl r.2).getD 0
     ls ≠ [] ∧ s.recStop (s.readS 0) ls = none ∧
       okAll (locateAll .glob compl 8 .both ((recs.filter fun r => recCompl r.2 != 0).map Prod.fst) s)) := by decide +kernel

theorem wit_TaskRecords_bytes :
    let s := ringS { ring0 with lcount := 2, scope := .clu } (wP 1 1 one)
    let ring := s.ring 5
    let u := (s.relScope .pkg).setRing 5 (ring.produces s.g.bid s.g.gix)
    s.recLanes 1 = [0] ∧ s.clu < 64 ∧ (∀ k < 64, (u.copy k (0x1080 / 128)).owner = none) ∧
    (match (locateAll .glob (fun k => ring.slotVa (ring.fill + BitVec.ofNat 32 k)) 64 .store (List.range 1) u).2 with
     | [(0, _, .ok (.glob pa _))] => decide (pa < 2 ^ 48 ∧ pa % 128 + 64 ≤ 128 ∧ pa / 128 = 0x1080 / 128)
     | _ => false) = true := by decide +kernel

/-- Entry 0 parked on a wait. -/
def parkedOn (w : Wait) (s : State) : State := wE (fun e => { e with st := .parked, wait := w }) s

/-- Entries 0 and 1 wait under tag 1, the split that entry 1 stands for. -/
def fusing : State :=
  onG one fun g => { g with tab := [
    (0, { valid := true, st := .waiting, mask := ~~~ 7, dom := ~~~ 7, pc := 2, rpc := 2, join := 1 }),
    (1, { valid := true, st := .waiting, mask := 7, dom := 7, pc := 2, rpc := 2, join := 1 })] }

/-- Entry 0 at the reconvergence point of its deferral record. -/
def deferred (phase : Bool) : State :=
  onG one fun g => { g with
    tab := [(0, { valid := true, mask := ~~~ 7, dom := Mask.all, pc := 9, rpc := 2 })]
    defer := [{ owner := 0, rpc := 9, pc := 4, mask := 7, arrived := 7, phase := phase }] }

/-- Record 1's lanes have all come back, and entry 0 waits under it. -/
def recJoin : State :=
  onG one fun g => { g with
    tab := [(0, { valid := true, st := .waiting, mask := ~~~ 1, dom := ~~~ 1, pc := 9, rpc := 9, join := 9 })]
    recs := [(1, { valid := true, rpc := 9, dom := 1, mask := 1 })] }

theorem wit_FragmentEvents :
    (one.group 3).live = false ∧ ((one.group 0).ent 7).valid = false ∧ ((one.group 0).ent 0).st ≠ .parked ∧
    ([Wait.counter 31 1, .ring 5 0, .emit 5 1, .room 5, .notReady .key, .scrub 511, .deferred 8, .bar 15 0, .cbar 2, .fault,
      .engines].all fun w =>
      let s := parkedOn w one
      let e := (s.group 0).ent 0
      (s.group 0).live && e.valid && e.st == .parked && e.wait == w) ∧
    (((wB (fun b => { b with tc := [(31, { value := 1 })] }) one).block 1).tc.get Tc.unbound 31).value = 1 ∧
    ((one.block 1).tc.get Tc.unbound 31).value < 1 ∧
    ((ringS { ring0 with pub := 1, fill := 1 } one).ring 5).published 0 ∧ ((ringS ring0 one).ring 5).published 0 = false ∧
    ((ringS { ring0 with st := .error } one).ring 5).st ≠ .active ∧
    ((ringS ring0 one).ring 5).canClaim 1 ∧ ((ringS { ring0 with fill := 2 } one).ring 5).canClaim 1 = false ∧
    (one.block 1).idle ∧
    (wB (fun b => { b with tc := [(0, { bind := .zoom, issued := 1, pend := [⟨1, 0, .table 0 [], 0, 0⟩] })] }) one).blk.idle = false ∧
    one.rdymap.getLsbD (Func.bit .key) = false ∧ one.rdymap.getLsbD (Func.bit (.hbm 0)) ∧
    (one.vown.get Vown.reset 511).scrub = false ∧
    (({ one with vown := [(511, { scrub := true })] } : State).vown.get Vown.reset 511).scrub ∧ 8 ∉ one.flash ∧
    8 ∈ ({ one with flash := [8] } : State).flash ∧
    (one.group 0).canFuse 1 = false ∧ (fusing.group 0).live ∧ (fusing.group 0).canFuse 1 ∧ (fusing.group 0).tagged 1 = [0, 1] ∧
    (one.group 0).atDefer 0 = false ∧ ((deferred false).group 0).live ∧ ((deferred false).group 0).atDefer 0 ∧
    ((deferred true).group 0).atDefer 0 ∧ ((deferred true).group 0).defer.map (·.owner) = [0] ∧
    (one.group 0).canFuseRec 1 = false ∧ (recJoin.group 0).canFuseRec 1 ∧ (recJoin.group 0).tagged 9 = [0] ∧
    (recJoin.group 0).live ∧ ((recJoin.group 0).recs.get Rec.free 1).dom ≠ 0 := by decide +kernel

/-- The handler and entry 1 wait under the tag of entry 1's split. -/
def fusingHandler : State :=
  onG one fun g => { g with tab := [
    (8, { valid := true, st := .waiting, mask := ~~~ 7, dom := ~~~ 7, pc := 2, rpc := 2, join := 1 }),
    (1, { valid := true, st := .waiting, mask := 7, dom := 7, pc := 2, rpc := 2, join := 1 })]
                            defer := [{ owner := 1, rpc := 9 }], hnd := some { code := 0x20, save := false, restore := false } }

/-- Record 1 is over, with lanes that have come back to it or with none, and no entry under it. -/
def recOver (dom : Mask) : State := onG one fun g => { g with recs := [(1, { valid := true, rpc := 9, dom := dom, mask := dom })] }

theorem wit_FragmentEvents_several :
    (let w : Wait := .several [.hbm 0] [8] [511]
     let s := parkedOn w { one with flash := [8] }
     ((s.group 0).ent 0).wait = w ∧ s.rdymap.getLsbD (Func.bit (.hbm 0)) ∧ s.pageReady 8 = false ∧
       (s.vown.get Vown.reset 511).scrub = false ∧
       (∀ p ∈ [2 ^ 40], ({ one with rdymap := one.rdymap ||| 0xF0000000 } : State).pageReady p)) ∧
    ([Wait.sweep ⟨[], 0, false⟩, .stores, .flags, .acc false 9, .syncm, .mmac, .entry, .record 1].all fun w =>
      ((parkedOn w one).group 0).ent 0 |>.wait |> (· == w)) ∧
    one.vq = [] ∧ one.wtq = [] ∧ ((storing one).wtq.map (·.gid)) = [0] ∧ one.flagging 0 9 = false ∧ flagS.flagging 0 9 ∧
    (∀ i ∈ (one.block 1).gids, (one.group i).mmacAt = none) ∧
    (((busyTile.block 1).gids.any fun i => (busyTile.group i).mmacAt.any fun a =>
      (accDst a.f.t.val a.f.tacc).any (accDst 0 false).contains) = true) ∧
    (fusingHandler.group 0).live ∧ (fusingHandler.group 0).canFuse 1 ∧ 8 ∈ (fusingHandler.group 0).tagged 1 ∧
    ((recOver 0).group 0).canFuseRec 1 ∧ ((recOver 0).group 0).tagged 9 = [] ∧ ((recOver 1).group 0).canFuseRec 1 ∧
    ((recOver 1).group 0).tagged 9 = [] ∧ ((recOver 1).group 0).alloc = some 1 ∧
    ((onG (recOver 1) fun g => { g with frozen := true }).group 0).still := by decide +kernel

/-- A Loupe thread for lane 95 of record 1 of group 0, which has ejected or holds that lane. -/
def loupes (f : Rec → Rec) (e : Entry) : State :=
  let s := onG one fun g => { g with
    tab := [(0, { valid := true, mask := Mask.all &&& ~~~ Mask.one 95, dom := Mask.all &&& ~~~ Mask.one 95, join := 9, rpc := 9 })]
    recs := [(1, f { valid := true, rpc := 9, onl := Mask.one 95, lin := 1, lout := 2 })] }
  s.setGroup 16384 { live := true, kind := .loupe 0 1 95, bid := 1, tab := [(0, e)] }

def loupeGo : State :=
  loupes id { valid := true, st := .parked, wait := .entry, mask := Mask.one 95, dom := Mask.one 95, pc := 4 }
def loupeBack : State := loupes id { valid := true, mask := Mask.one 95, dom := Mask.one 95, pc := 9 }
def loupeHeld : State :=
  onG loupeGo fun g => { g with recs := [(1, { valid := true, rpc := 9, held := Mask.one 95, hpc := [(95, 4)], lin := 1 })] }

theorem wit_LoupeEvents :
    one.canRecall 16384 = false ∧ one.canRejoin 16384 = false ∧ one.canSend 0 1 = false ∧
    (loupeGo.group 16384).kind = .loupe 0 1 95 ∧ (loupeGo.group 0).still = false ∧
    loupeGo.canRecall 16384 ∧ (loupeGo.group 0).alloc = some 1 ∧
    (let s := onG loupeGo fun g => { g with hnd := some { code := 0x20, save := false, restore := false } }
     (s.group 0).still ∧ s.canRecall 16384 ∧ (s.group 0).alloc = some 1) ∧
    (loupeBack.group 16384).kind = .loupe 0 1 95 ∧ loupeBack.canRejoin 16384 ∧
    loupeHeld.canSend 0 1 ∧ Mask.low ((loupeHeld.group 0).recs.get Rec.free 1).held = some 95 := by decide +kernel

theorem wit_LoupeEvents_vault :
    let s : State := { loupeBack with vq := [{ gid := 16384, vault := 511, off := 0, bytes := [7] }], rdymap := 0 }
    (s.group 16384).kind = .loupe 0 1 95 ∧ s.vaultWaits 16384 ≠ [] := by decide +kernel

def pends (p : Pend) (s : State) : State := onG s fun g => { g with pend := [p] }

/-- Group 0's record 1 has timed out. -/
def timedOut : State :=
  onG one fun g => { g with sr := { g.sr with ejto := 1 }, recs := [(1, { valid := true, onl := Mask.one 95, timer := 1 })] }

/-- An event pends, and its handler's save area can be written. -/
def served (c : BitVec 8) (s : State) : State := pends ⟨c, 0⟩ (saveable s)

theorem wit_GroupEvents :
    (one.group 3).takesEvents = false ∧
    ([0x31, 0x32, 0x30].all fun c =>
      let s := served c one
      let g := s.group 0
      let f := ({ g with pend := [] } : Group).freeze
      let own := s.block g.bid
      let saves := fun s : State => (s.setGroup 0 f).saveFlds own.pcore own.vi own.ctx f headerFlds
      g.takesEvents && s.threadsOf 0 == [] && (own.kern.tvec)[tvecIx c]?.getD noPc != noPc && okHw (saves s) &&
        waitHw (saves { s with rdymap := 0 }) &&
        faultHw (saves { s with tlb := s.tlb.map fun t => { t with w := false } })) ∧
    (let s := served 0x33 (onG one fun g => { g with sr := { g.sr with tout := 2 } })
     (s.group 0).takesEvents ∧ (s.group 0).sr.tout ≠ 0 ∧ ((s.block 1).kern.tvec)[tvecIx 0x33]?.getD noPc ≠ noPc) ∧
    (let s := pends ⟨0x31, 0⟩ one
     (s.group 0).takesEvents ∧ ((s.block 1).kern.tvec)[tvecIx 0x31]?.getD noPc = noPc) ∧
    ((pends ⟨0x30, 0⟩ one).group 0).takesEvents ∧
    ((pends ⟨0x33, 0⟩ one).group 0).takesEvents ∧ ((pends ⟨0x33, 0⟩ one).group 0).sr.tout = 0 := by decide +kernel

/-- Events of every kind pend. -/
def crowded (ps : List Pend) : State := onG (served 0x31 one) fun g => { g with pend := ps }

def badHw {α : Type} : Hw α → Bool
  | .bad _ => true
  | _ => false

theorem wit_GroupEvents_first :
    ([([⟨0x33, 0⟩, ⟨0x32, 7⟩, ⟨0x31, 5⟩, ⟨0x30, 0⟩], ⟨0x30, 0⟩), ([⟨0x33, 0⟩, ⟨0x32, 7⟩, ⟨0x31, 5⟩], ⟨0x31, 5⟩),
      ([⟨0x33, 0⟩, ⟨0x32, 7⟩], ⟨0x32, 7⟩)] : List (List Pend × Pend)).all (fun c =>
      let s := crowded c.1
      let g := s.group 0
      let codes : List (BitVec 8) := [0x30, 0x31, 0x32, 0x33]
      let saves := (s.setGroup 0 ({ g with pend := g.pend.erase c.2 } : Group).freeze).saveFlds 0 0 0
        ({ g with pend := g.pend.erase c.2 } : Group).freeze headerFlds
      g.takesEvents && decide g.pend.Nodup && g.pend.contains c.2 && okHw saves && g.pend.all fun q =>
        codes.contains q.code && decide (codes.idxOf c.2.code ≤ codes.idxOf q.code) && (q.code != c.2.code || q == c.2)) ∧
    (let s : State := { served 0x31 one with bad := [0x200000 / 128] }
     let f := ({ s.group 0 with pend := [] } : Group).freeze
     badHw ((s.setGroup 0 f).saveFlds 0 0 0 f headerFlds)) ∧
    (let s := onG loupeBack fun g => { g with pend := [⟨0x30, 0⟩] }
     (s.group 0).takesEvents ∧ s.recallWaits 0 = false ∧
       okHw (((s.threadsOf 0).foldl State.holdThread (onG s fun g => { g with pend := [] })).tryHandler 0 0x30 0 0)) ∧
    (let s := onG loupeGo fun g => { g with pend := [⟨0x30, 0⟩] }
     (s.group 0).takesEvents ∧ s.recallWaits 0) := by decide +kernel

theorem wit_GroupEvents_preempts :
    (let s := handlerS false one
     s.blocksOf 0 0 = [1] ∧ (s.block 1).live ∧ (s.block 1).saved = false ∧ (s.block 1).stopping = false ∧
       s.liveGids (s.block 1) = [0] ∧ (s.group 0).hnd.isSome ∧ (s.group 0).forced = false ∧ (s.group 0).hdone = false ∧
       (s.group 0).pend = []) ∧
    (one.block 1).stopping = false ∧
    (let s := wB (fun b => { b with stopping := true }) one
     (s.block 1).live ∧ (s.block 1).stopping ∧ (s.block 1).saved = false) ∧
    (one.group 0).expired = [] ∧ (timedOut.group 0).expired ≠ [] := by decide +kernel

def copyS (cs : List (Nat × Nat × Copy)) : State := cs.foldl (fun s c => s.setCopy c.1 c.2.1 c.2.2) one

/-- Line 5 is held by cluster 63, and every directory on the path notes it. -/
def held63 (k : Copy) : State := copyS ([63, 71, 75, 77, 78].map fun u => (u, 5, k))

theorem wit_CacheEvents :
    one.net = [] ∧ 5 < 2 ^ 41 ∧ (∀ x ∈ one.wtq, x.core ≠ 511) ∧
    (let s : State := { one with wtq := [WtEntry.ofBytes 511 0 .clu 0 0x1000 [7]] }
     s.wtq.map (·.core) = [511]) ∧
    (one.llcOf (2 ^ 40)).isNone ∧ one.llcOf 5 = some 0 ∧ (one.copy (llcUnit 0) 5).valid = false ∧
    paKind one.hbmFine (128 * 5) ≠ .aperture ∧ paKind one.hbmFine (128 * 5) = .hbm 0 ∧
    ((copyS [(80, 5, { valid := true })]).copy (llcUnit 0) 5).dirty = 0 ∧
    (let s := copyS [(80, 5, { valid := true, dirty := 1 })]
     (s.copy (llcUnit 0) 5).valid ∧ (s.copy (llcUnit 0) 5).dirty ≠ 0) ∧
    (let s := copyS [(83, 2 ^ 36, { valid := true, dirty := 1 })]
     s.llcOf (2 ^ 36) = some 3 ∧ (∀ h, paKind s.hbmFine (128 * 2 ^ 36) ≠ .hbm h)) ∧
    (one.copy 63 5).valid = false ∧ ((copyS [(63, 5, { valid := true })]).copy 63 5).valid ∧
    (let s := held63 { valid := true }
     (∀ j < 4, (s.copy ((cluPath 63).getD j 78) 5).valid → (s.copy ((cluPath 63).getD (j + 1) 78) 5).valid) ∧
     (s.copy 63 5).valid ∧ 1 ≤ Scope.depth .die) ∧
    (∀ j < 4, (one.copy ((cluPath 63).getD j 78) 5).valid → (one.copy ((cluPath 63).getD (j + 1) 78) 5).valid) := by
  refine ⟨?_, ?_, ?_, ?_, ?_, ?_, ?_, ?_, ?_, ?_, ?_, ⟨?_, fun h => ?_⟩, ?_, ?_, ?_, ?_⟩
  case refine_13 => exact fun h => by cases h
  all_goals decide +kernel

theorem wit_CacheEvents_messages :
    0x1001 % (AType.bits .f64 / 8) ≠ 0 ∧ 0x1008 % (AType.bits .f64 / 8) = 0 ∧ paKind one.hbmFine 0x1008 = .hbm 0 ∧
    paKind one.hbmFine (2 ^ 39) = .aperture ∧
    ({ one with net := [.inva 63 5 0 0] } : State).net = [.inva 63 5 0 0] ∧
    (let s : State := { copyS ([71, 75, 77, 78].map fun u => (u, 5, { valid := true })) with net := [.inva 63 5 0 1] }
     s.net = [.inva 63 5 0 1] ∧ (1 : BitVec 128) ≠ 0 ∧ (∀ w < 79, (s.copy w 5).valid ↔ w ∈ (cluPath 63).drop 1) ∧
     s.llcOf 5 = some 0) ∧
    (let s := copyS [(77, 5, { valid := true, dirty := 1 })]
     s.net = [] ∧ (s.copy 77 5).valid ∧ (s.copy 77 5).dirty ≠ 0) ∧
    (one.copy 77 5).valid = false ∧
    ({ one with net := [.puba 77 5] } : State).net = [.puba 77 5] ∧ (slices 63 .pkg).length = 4 ∧ (slices 63 .stk).length ≤ 1 ∧
    ({ one with net := [.dra 63 3 .pkg] } : State).net = [.dra 63 3 .pkg] ∧
    ({ one with net := [.data 63 5 1 0] } : State).net = [.data 63 5 1 0] ∧ (one.copy 63 5).valid = false := by
  decide +kernel

theorem wit_CacheEvents_carries :
    (let s := copyS [(71, 5, { valid := true, dirty := 3 }), (75, 5, { valid := true })]
     s.net = [] ∧ (s.copy 71 5).valid ∧ (s.copy 71 5).dirty ≠ 0 ∧ (unitPath 71).getD 1 78 = 75 ∧ (s.copy 75 5).valid ∧
       (s.copy 71 5).dirty.getLsbD 0 ∧
       ∀ w < 78, inUnit w 75 → w ≠ 75 → inUnit w 71 = false → (s.copy w 5).dirty.getLsbD 0 = false) ∧
    (let s := copyS [(77, 5, { valid := true, dirty := 1 }), (78, 5, { valid := true })]
     (s.copy 77 5).valid ∧ (s.copy 77 5).dirty ≠ 0 ∧ (unitPath 77).getD 1 78 = 78 ∧ (s.copy 78 5).valid ∧ s.llcOf 5 = some 0) ∧
    (let s : State := { copyS ([71, 75, 77, 78].map fun u => (u, 5, { valid := true, dirty := 1 <<< (u - 71) })) with
        net := [.inva 63 5 0 (1 <<< 100)] }
     s.net = [.inva 63 5 0 (1 <<< 100)] ∧ (∀ w < 79, (s.copy w 5).valid ↔ w ∈ (cluPath 63).drop 1) ∧ s.llcOf 5 = some 0 ∧
       (1 <<< 100 : BitVec 128).getLsbD 100 ∧ (s.copy ((cluPath 63).getD 2 78) 5).dirty.getLsbD 4 ∧
       (s.copy ((cluPath 63).getD 1 78) 5).dirty.getLsbD 4 = false) := by decide +kernel

/-- Window 63 of 2 aperture lines, enabled or flushing. -/
def win63 (en busy : Bool) : State :=
  { one with win := [(63, { en := en, busy := busy, ap := 2 ^ 39, size := 32, elem := 0x400000, scale := 0x500000 })] }

theorem wit_VaultsAndWindows :
    512 ≤ 512 ∧ one.mayOwn 511 1 ∧ one.mayOwn 511 0 ∧
    (let s := one.setIface 3 { one.iface 3 with clus := [63], asidBase := 8, asidCount := 8 }
     s.mayOwn 511 (BitVec.ofNat 9 (0x8001 : BitVec 64).toNat) = false ∧
     ∃ c ∈ s.ifaces, cluOf 511 ∈ c.2.clus ∧ c.2.owns ((0x8001 : BitVec 64).toNat % 512) = false) ∧
    BitVec.ofNat 9 (0x8001 : BitVec 64).toNat ≠ (one.vown.get Vown.reset 511).asid ∧
    (0x8000 : BitVec 64).getLsbD 15 ∧ (one.vown.get Vown.reset 511).valid = false ∧
    ¬(BitVec.ofNat 9 (0 : BitVec 64).toNat ≠ (one.vown.get Vown.reset 511).asid ∨ (0 : BitVec 64).getLsbD 15) ∧
    ([false, true].all fun d =>
      let s : State := { one with vq := [⟨0, 511, 2 ^ 22 - 1, [7], d⟩] }
      s.vq.map (fun w => (w.gid, w.vault, w.performed)) == [(0, 511, d)]) ∧
    (one.win.get Window.reset 63).en = false ∧ (∀ c ∈ one.win, c.2.busy = false) ∧ (one.win.get Window.reset 63).busy = false ∧
    ((win63 true false).win.get Window.reset 63).en ∧ ((win63 false true).win.get Window.reset 63).busy ∧
    2 ^ 39 ≤ ((win63 false true).win.get Window.reset 63).ap ∧
    ((win63 false true).win.get Window.reset 63).ap + 128 * ((win63 false true).win.get Window.reset 63).size ≤ 2 ^ 40 ∧
    (({ one with vown := [(511, { scrub := true })] } : State).vown.get Vown.reset 511).scrub ∧
    (let s : State := { one with vq := [⟨0, 511, 0, [7], false⟩], rdymap := 0 }
     s.rdymap.getLsbD (8 + 511 / 64) = false ∧ (s.dqs.get {} (511 / 64)).st ≠ .quiescing) ∧
    one.rdymap.getLsbD (8 + 511 / 64) := by decide +kernel

theorem wit_EngineEvents :
    (∀ q ∈ ((one.block 1).tc.get Tc.unbound 0).pend, q.num ≠ 1) ∧
    (let s := aft (.zrst 3) zooms
     let c := (s.block 1).tc.get Tc.unbound 0
     (match c.pend with
      | p :: rest => c.stall.isNone && (s.tryOp 1 0 p).2.isNone && p.num == c.value.toNat + 1 && c.done.isEmpty && rest.isEmpty
      | [] => false) = true) ∧
    (let s := wB (fun b => { b with tc := [(1, { bind := .prism 2, issued := 1, pend := [⟨1, 0, .copy 4 .glob .glob [(0x9000, 0x1000)] none, 0, 0⟩] })] }) one
     let c := (s.block 1).tc.get Tc.unbound 1
     (match c.pend with
      | p :: _ => c.stall.isNone && (match (s.tryOp 1 1 p).2 with
          | some (.fault _ _) => true
          | _ => false)
      | [] => false) = true) ∧
    (let s : State := { wB (fun b => { b with tc := [(1, { bind := .prism 2, issued := 1, pend := [⟨1, 0, .copy 4 .vault .tile [(0, 0)] none, 0, 0⟩] })] })
        one with vown := [(0, { valid := true, scrub := true })] }
     (match ((s.block 1).tc.get Tc.unbound 1).pend with
      | [p] => (s.tryOp 1 1 p).2 == some .hold
      | _ => false) = true) ∧
    (let s := wB (fun b => { b with tc := [(1, { bind := .prism 2, issued := 1, pend := [⟨1, 0, .copy 16 .tile .tile [(0x100, 0x7FFF0)] none, 0, 0⟩] })] }) one
     let b := s.block 1
     (0x100 : Word64).toNat + 16 ≤ b.tileSize ∧ (0x7FFF0 : Word64).toNat + 16 ≤ b.tileSize ∧
       b.tileSize < (0x7FFF8 : Word64).toNat + 16 ∧ (0x7FFF8 : Word64).toNat < 0x400000 ∧ b.killed = false ∧ s.liveIx 1 ≠ [] ∧
       (s.liveGids b).map (fun g => (s.group g).forced) = [false] ∧ (b.tc.get Tc.unbound 1).done = [] ∧
       (b.tc.get Tc.unbound 1).pend.map (·.num) = [(b.tc.get Tc.unbound 1).value.toNat + 1]) ∧
    7 ∉ ring0.pend ∧
    (let r : Ring := { ring0 with fill := 0, pend := [0xFFFFFFFE] }
     0xFFFFFFFE ∈ r.pend ∧ r.st ≠ .error ∧ (r.publish 0xFFFFFFFE 1).isSome) ∧
    (let r : Ring := { ring0 with fill := 0, pend := [0xFFFFFFFE], st := .error }
     0xFFFFFFFE ∈ r.pend ∧ r.st = .error) := by decide +kernel

/-- Operation 1 of handle 1 copies 4 bytes of global memory to tile memory. -/
def copying (c : Binding) (rest : List EPend) : State :=
  wB (fun b => { b with tc := [(1, { bind := c, issued := 2, pend := ⟨1, 0, .copy 4 .tile .glob [(0x1000, 0)] none, 0, 0⟩ :: rest })] }) one

theorem wit_EngineEvents_stops :
    (let s : State := { copying (.prism 2) [] with bad := [0x1000 / 128] }
     let c := (s.block 1).tc.get Tc.unbound 1
     (match c.pend with
      | [p] => c.stall.isNone && (s.tryOp 1 1 p).2 == some (.bad 32)
      | _ => false) = true) ∧
    (let s := copying (.prism 2) []
     let u := s.setCtx 0 0 { s.ctx 0 0 with cstate := .ending }
     (u.ctx (u.block 1).vi (u.block 1).ctx).cstate = .ending ∧ (s.ctx (s.block 1).vi (s.block 1).ctx).cstate ≠ .ending) ∧
    (let c := ((copying .zoom [⟨2, 0, .copy 4 .tile .glob [(0x1000, 8)] none, 0, 0⟩]).block 1).tc.get Tc.unbound 1
     c.bind = .zoom ∧ c.pend.map (·.num) = [1, 2]) ∧
    (((wB (fun b => { b with tc := [(1, { bind := .zoom, issued := 1, stall := some 1 })] }) one).block 1).tc.get Tc.unbound 1).stall ≠ none := by
  decide +kernel
/-! ### A partition of the whole package, with a page table -/

/-- Interface 0 owns every cluster and ASID; cores 0 and 1 are usable; context 0's pages 0x1000, 0x9000 and 0xA000 are
mapped by a table of five levels at 0x2000. -/
def part : State :=
  let s : State := { one with
    ifaces := [(0, { clus := List.range 64, asidCount := 512 })], occ := [(0, 0x0000FFFF808003FF), (1, 0x0000FFFF808003FF)] }
  let s := s.setCtx 0 0 { s.ctx 0 0 with ptroot := 0x2000, savemap := 0x9080, saveb := 0xA000, saven := 64 }
  [(0x2000, 0x3001), (0x3000, 0x4001), (0x4000, 0x5001), (0x5000, 0x6001), (0x6008, 0x8000000000001087), (0x6048, 0x9087),
    (0x6050, 0xA087)].foldl (fun s c => wM c.1 (toBytes 8 c.2) s) s

def onQ (f : Queue → Queue) (s : State) : State := s.setQueue 0 31 (f (s.queue 0 31))
def onI (f : Iface → Iface) (s : State) : State := s.setIface 0 (f (s.iface 0))
def onC (f : Ctx → Ctx) (s : State) : State := s.setCtx 0 255 (f (s.ctx 0 255))

/-- Queue 31, active, its 16 slots from 0x9000 on. -/
def queued : State := onQ (fun x => { x with st := .active, base := 0x9000, wr := 1 }) part

theorem wit_QueueCommands :
    queued.queue 0 31 ≠ {} ∧ (queued.queue 0 31).st ≠ .disabled ∧ (part.queue 0 31).st = .disabled ∧
    (let known := fun (s : State) => (s.iface 0).owns (s.queue 0 31).asid ∧ (s.queue 0 31).ctxn < 256 ∧
       (s.ctx 0 (s.queue 0 31).ctxn).exists'
     known part ∧ ¬known (onQ (fun x => { x with asid := 512 }) part) ∧ ¬known (onQ (fun x => { x with ctxn := 256 }) part) ∧
     (let s := onQ (fun x => { x with cls := true, res := 127 }) part
      known s ∧ s.reserved 0 31 ≤ (s.partCores 0).length) ∧
     (let s := onI (fun x => { x with clus := [] }) (onQ (fun x => { x with cls := true, res := 1 }) part)
      known s ∧ (s.partCores 0).length < s.reserved 0 31)) ∧
    (let x := queued.queue 0 31
     x.st = .active ∧ 2 ^ (x.lsize + 4) < ((17 : BitVec 32) - x.rd).toNat ∧
       ((16 : BitVec 32) - x.rd).toNat ≤ 2 ^ (x.lsize + 4)) ∧
    ([QState.active, .error].all fun st =>
      let s := onQ (fun x => { x with st := st }) State.reset
      (s.queue 0 31).st == st && s.pkts.isEmpty && (s.queueBlocks 0 31).isEmpty && s.cohorts.isEmpty &&
        (s.areasOf fun p => p.vi == 0 && p.q == 31).isEmpty && (s.ctx 0 (s.queue 0 31).ctxn).cstate != .stopping) ∧
    ([[64, 65], [78], []].all fun ts =>
      let s := onQ (fun x => { x with st := .resetting, tokens := ts }) State.reset
      (s.queue 0 31).st == .resetting && (s.queue 0 31).tokens == ts && !s.owes false 0 31) ∧
    (onQ (fun x => { x with st := .resetting }) { State.reset with decs := [⟨0, 31, 0, 0, 0x9040, false⟩] }).owes false 0 31 ∧
    (let s := onC (fun c => { c with cstate := .ending, tokens := [78] }) part
     (s.ctx 0 255).cstate = .ending ∧ (s.ctx 0 255).tokens = [78] ∧ s.owes true 0 255 = false) ∧
    (part.ctx 0 255).cstate ≠ .ending ∧
    64 + (7 : Fin 8).val ∈ (List.range 15).map (64 + ·) ∧ 64 + (7 : Fin 8).val ∉ [72, 78] := by decide +kernel

/-- Hardware reads a packet, and its checks answer so. -/
def admits (s : State) (p : Adm → Pkt → Bool) : Bool :=
  let x := s.queue 0 31
  match s.hwRead ((s.ctx 0 x.ctxn).sp x.asid) (x.base + BitVec.ofNat 64 (64 * (x.rd.toNat % 2 ^ (x.lsize + 4)))) 64 with
  | .ok (s1, bs) =>
    let k : Pkt := { vi := 0, q := 31, ctxn := x.ctxn, asid := x.asid, bytes := bs }
    p (s1.admitCheck 0 31 k) k
  | _ => false

/-- A packet in slot 0. -/
def withPkt (bs : List Byte) : State := wM 0x9000 bs queued

theorem wit_PacketsAdmitted :
    (part.queue 0 31).st ≠ .active ∧ (queued.queue 0 31).st = .active ∧ (queued.queue 0 31).rd ≠ (queued.queue 0 31).wr ∧
    (queued.queue 0 31).fence = none ∧ (onQ (fun x => { x with fence := some 5 }) queued |>.queue 0 31).fence.isSome ∧
    (let read := fun s : State => s.hwRead ((s.ctx 0 0).sp 0) ((s.queue 0 31).base) 64
     faultHw (read (onQ (fun x => { x with base := 0xB000 }) queued)) ∧ waitHw (read { queued with rdymap := 0 }) ∧
       badHw (read { queued with bad := [0x9000 / 128] })) ∧
    ((onQ (fun x => { x with ctxn := 1 }) queued).ctx 0 1).exists' = false ∧ (queued.ctx 0 0).exists' ∧
    admits queued (fun _ p => !p.fieldsOk) ∧
    admits (withPkt (toBytes 64 (3 + 4 * 2 ^ 192))) (fun a _ => match a with
      | .code k => k == 7
      | _ => false) ∧
    ([3, 4].all fun n => admits (withPkt (toBytes 64 n)) fun a _ => match a with
      | .ok r => r.depc == 0 && r.vi == 0 && r.typ == n
      | _ => false) := by decide +kernel

/-- A counter of n at 0x9040, and a packet 7 armed on it. -/
def counterAt (n : Nat) : State :=
  { wM 0x9040 (toBytes 8 n) queued with pkts := [(7, { q := 31, st := .armed, bytes := toBytes 64 (3 + 0x9040 * 2 ^ 64) })] }

/-- The decrement finds n, with nothing armed on the counter unless n is 1. -/
def decrements (s : State) (n : Nat) : Bool :=
  let x := s.queue 0 31
  let sp := (s.ctx 0 x.ctxn).sp x.asid
  !s.inAperture sp 0x9040 &&
    match s.hwRmw sp 0x9040 8 .both (fun bs => toBytes 8 (ofBytes bs - 1)) with
    | .ok (t, bs) => ofBytes bs == n && t.armedOn x.asid 0x9040 == [7]
    | _ => false

theorem wit_CountersDecrement :
    canonical 0x9040 ∧ canonical (1 <<< 60) = false ∧ (queued.ctx 0 (queued.queue 0 31).ctxn).exists' ∧ [0, 1, 2].all (fun n => decrements (counterAt n) n) ∧
    ((counterAt 1).pkts.get {} 7 = { q := 31, st := .armed, bytes := toBytes 64 (3 + 0x9040 * 2 ^ 64) }) ∧
    part.decs = [] ∧
    ((match (counterAt 2).decrement 0 0 0 0x9040 with
      | .ok (_, n) => decide (n = 2)
      | _ => false) = true) ∧ faultHw ((counterAt 2).decrement 0 0 0 0xB000) ∧
    waitHw ({ counterAt 2 with rdymap := 0 }.decrement 0 0 0 0x9040) ∧
    (let write := fun s : State => s.hwRmw ((s.ctx 0 0).sp 0) 0x9040 8 .both fun bs => toBytes 8 (ofBytes bs - 1)
     faultHw (write ((counterAt 2).setCtx 0 0 { queued.ctx 0 0 with ptroot := 0x7000 })) ∧
       waitHw (write { counterAt 2 with rdymap := 0 }) ∧ badHw (write { counterAt 2 with bad := [0x9040 / 128] })) ∧
    0 ∉ part.ends ∧
    (let s : State := { part with ends := [9], lrecs := [(9, { live := true, remain := 2 })] }
     9 ∈ s.ends ∧ (s.lrecs.get {} 9).live ∧ (s.lrecs.get {} 9).node = false ∧ 1 < (s.lrecs.get {} 9).remain) ∧
    (let s : State := { part with
        ends := [9], lrecs := [(9, { live := true, remain := 1, pkt := 7 })], pkts := [(7, { st := .running, bytes := toBytes 64 1 })] }
     let o := s.pkts.get {} (s.lrecs.get {} 9).pkt
     (s.lrecs.get {} 9).remain = 1 ∧ o.compl = 0 ∧ o.succ = 0 ∧ o.intr = false) ∧
    (part.rlist 0 3).waiting = [] ∧
    (let e : REntry := { relaunch := false, rlcoh := 0, ctxn := 0, q := 31, item := 7, blocks := [] }
     let s := part.setRlist 0 3 { p := 16384, t := 16383, ents := [(16383, e)], waiting := [e] }
     (s.rlist 0 3).waiting = [e] ∧ ∀ z ∈ (s.rlist 0 3).ents, z.1 % 16384 ≠ (s.rlist 0 3).p % 16384) ∧
    ([3, 4].all fun n =>
      let s : State := { part with ifaces := [], pkts := [(7, { st := .running, bytes := toBytes 64 n })] }
      let p := s.pkts.get {} 7
      p.compl == 0 && p.succ == 0 && !p.intr && (s.pkts.any fun c => c.1 == 7) && p.st != .armed && p.typ == n && p.op == 0 &&
        (s.iface p.vi).clus.isEmpty && s.pkts.all fun c => !(decide (c.1 < 7) && c.2.vi == p.vi && c.2.q == p.q)) := by
  decide +kernel

theorem wit_RingObjects :
    (onI (fun x => { x with rbusy := true }) part |>.iface 0).rbusy ∧ (part.iface 0).rbusy = false ∧
    (let x := (onI (fun x => { x with rbase := 0xA000, rcfg := 0x1FF0C06 }) part).iface 0
     x.asidBase ≤ 511 ∧ x.rcfg.toNat / 65536 % 512 = 511 ∧ 511 < x.asidBase + x.asidCount ∧ x.rcfg.toNat % 16 + 6 ≤ 12 ∧
       x.rcfg.toNat / 16 % 32 ≤ 16 ∧ x.rcfg.toNat / 512 % 8 ≠ 7 ∧ canonical x.rbase ∧
       x.rbase.toNat % 2 ^ (x.rcfg.toNat % 16 + 6) = 0) ∧
    (7 * 512) / 512 % 8 = 7 ∧
    (part.ring 0).live = false ∧
    (let s : State := { part with rings := [(0, { ring0 with live := true })] }
     (s.ring 1).live = false ∧ (s.ring 0).live ∧ (s.ring 0).vi = 0 ∧ s.ringBound 0 = false) := by decide +kernel

/-- Rings from number n on, all live. -/
def liveRings : Nat → Nat → Store Ring
  | 0, _ => []
  | k + 1, n => (n, { ring0 with live := true }) :: liveRings k (n + 1)

theorem liveRings_live (k n i : Nat) (h : i < k) : (Store.get Ring.empty (liveRings k n) (n + i)).live := by
  induction k generalizing n i with
  | zero => omega
  | succ k ih =>
    cases i with
    | zero => simp [liveRings]
    | succ i =>
      have h := ih (n + 1) i (by omega)
      rw [show n + 1 + i = n + (i + 1) by omega] at h
      simpa [liveRings, Store.get] using h

/-- No ring number is free. -/
theorem wit_RingObjects_full : ∀ k < 1024, (({ part with rings := liveRings 1024 0 } : State).ring k).live :=
  fun k h => by simpa [State.ring] using liveRings_live 1024 0 k h

/-- Agents on cores 0 and 1. -/
def agents : State := (part.setGroup 16 (agentStart 0 {} 0)).setGroup 33 (agentStart 1 {} 0)

def runsOn (s : State) (c : Nat) : Bool :=
  (s.group (17 * c + 16)).live && s.rdymap.getLsbD (c / 64) && s.ownerOf c == some 0 && (s.owned c).isEmpty && s.inHand.isEmpty

/-- A kernel of one group, and its launch of one cohort as packet 7 at the head of list 1. -/
def oneKernel : Kernel := { regs := 16, grp := 1, cmem := 1, cbase := 0x1000 }

def launched (st : CState) : State :=
  let e : REntry := { relaunch := false, rlcoh := 0, ctxn := 0, q := 31, item := 7, blocks := [] }
  let p : Pkt := { q := 31, kern := oneKernel, bytes := toBytes 64 (1 + (1 + 96 * 2 ^ 32) * 2 ^ (8 * 48)) }
  let s : State := { agents with pkts := [(7, p)] }
  (s.setCtx 0 0 { s.ctx 0 0 with cstate := st }).setRlist 0 1 { p := 1, ents := [(0, e)] }

theorem wit_AgentsAndStarts_passes :
    (agents.group 50).live = false ∧ (agents.group 16).live ∧ State.reset.rdymap.getLsbD 0 = false ∧ runsOn agents 0 ∧
    (agents.partCores 0).head? = some 0 ∧ agents.rlists = [] ∧
    (let s := onI (fun x => { x with rbusy := true, restart := some (5, 0xFFFFFFFD, true) }) (ringS { ring0 with live := true } agents)
     runsOn s 0 ∧ (s.partCores 0).head? = some 0 ∧ s.rlists = [] ∧ (s.iface 0).restart = some (5, 0xFFFFFFFD, true) ∧
       (s.ring 5).live ∧ (s.ring 5).vi = 0 ∧ ((s.ring 5).restart 0xFFFFFFFD true).isSome) ∧
    ([CState.live, .stopping].all fun st =>
      let s := launched st
      runsOn s 0 && (s.iface 0).restart.isNone && s.freeRec 0 == some 0 && s.lrecs.isEmpty && s.polls0 0 == false &&
        (match claimFrom 0 [1, 2, 3] s with
         | (_, some e) =>
           let p := s.pkts.get {} e.item
           !e.relaunch && p.typ == 1 && p.ncoh == 1 && p.vi == 0 && (s.pkts.any fun x => x.1 == e.item) &&
             ((s.ctx p.vi p.ctxn).cstate == .live) == (st == .live)
         | _ => false)) := by decide +kernel

/-- The claimed launch can be placed. -/
theorem wit_AgentsAndStarts_placed :
    (match claimFrom 0 [1, 2, 3] (launched .live) with
     | (s1, some e) =>
       let p := s1.pkts.get {} e.item
       let l : LRec := { live := true, vi := 0, pkt := e.item, remain := p.ncoh * p.kern.cmem, owner := some 0,
                         ent := s1.copyVa 0 0 }
       let s3 : State := { s1 with pkts := s1.pkts.set {} e.item { p with st := .running }, lrecs := s1.lrecs.set {} 0 l }
       (match s3.findCores p.vi p.q p.kern p.kern.cmem (unitsFrom 0 p.kern (Level.ofNum p.kern.clvl)) with
        | some cores => (s3.placeOn p.vi p.ctxn p.kern cores fun m =>
            (launchStart { p with st := .running } 0 0 m, [launchRecord p.kern p.argp m 0])).isSome
        | none => false)
     | _ => false) = true := by decide +kernel
/-- A start record of one block in the mailbox of core 511. -/
def startRec : StartRec :=
  { kd := 0, argp := 5, trec := 0, lrec := 0, win := [], lane0 := 0, extent := 96, coh := 1, cohort := 1, mbr := 0, nrec := 0
    ridx := 0, rnum := 0, vi := 0, ctxn := 0, asid := 0, accm := 0, slotm := 1, relaunch := false, area := none
    kern := oneKernel, level := .core }

def mailed : State :=
  { part with mail := [(511, { ticket := 1, recs := [(0, startRec)] })], starts := [(1, startRec)]
              cohorts := [(1, { members := [1] })] }

theorem wit_AgentsAndStarts_starts :
    (part.mail.get {} 511).recs = [] ∧ bidOf startRec.vi startRec.trec = 1 ∧
    (mailed.mail.get {} 511).recs = [((mailed.mail.get {} 511).consumed, startRec)] ∧ mailed.startOf 1 = some startRec ∧
    mailed.batches.get [] 1 = [] ∧ (mailed.ctx 0 0).cstate = .live ∧ (mailed.cohorts.get Cohort.empty 1).members = [1] ∧
    (∀ x ∈ (part.mail.get {} 511).recs, x.1 ≠ (part.mail.get {} 511).consumed) ∧
    (part.mail.get {} 511).rdys.get 0 0 ≠ (part.mail.get {} 511).consumed + 1 := by decide +kernel

/-- A start record that instructions have written into the mailbox of core 511. -/
def handMailed : State :=
  let words := (List.range 16).map fun j => (j, part.startWord { startRec with kd := 0x9000, extent := 5 } j)
  { part with mail := [(511, { ticket := 1, slots := words, rdys := [(0, 1)] })] }

theorem wit_AgentsAndStarts_adopts :
    let m := handMailed.mail.get {} 511
    let w := handMailed.recordOfWords 0 fun j => m.slots.get 0 (16 * (m.consumed % 4) + j)
    m.recs = [] ∧ m.rdys.get 0 (m.consumed % 4) = m.consumed + 1 ∧ handMailed.ownerOf 511 = some 0 ∧ w.kd = 0x9000 ∧
    w.extent = 5 ∧ bidOf w.vi w.trec = 1 ∧ okHw ((handMailed.adopt w).bind fun x => x.1.startRecords x.2) := by decide +kernel

/-- The block of the state waits saved, its launch and kernel as above, its save area mapped. -/
def savedOne : State :=
  let s := { part with cohorts := [(1, { members := [1] })], groups := [] }
  wB (fun b => { b with saved := true, kern := oneKernel, coh := 1, area := some 0 }) s

/-- Group 0 waits on a counter that only its own group signals. -/
def selfWait : State :=
  let s := parkedOn (.counter 31 1) (wB (fun b => { b with tc := [(31, { bind := .soft })] }) one)
  { s with wnodes := s.nodes }

theorem wit_KillResumeExchange :
    (one.block 2).live = false ∧ (one.block 1).live ∧ (one.block 1).saved = false ∧ one.liveGids (one.block 1) = [0] ∧
    (one.group 0).mmacAt = none ∧ (one.cohorts.get Cohort.empty 1).members = [] ∧
    (savedOne.cohorts.get Cohort.empty 1).members = [1] ∧ (savedOne.cohorts.get Cohort.empty 1).level = .core ∧
    (savedOne.block 1).live ∧ (savedOne.block 1).saved ∧ (savedOne.ctx 0 0).cstate = .live ∧
    (let s : State := { one with cohorts := [(1, { members := [1] })] }
     (s.cohorts.get Cohort.empty 1).members = [1] ∧ (s.block 1).saved = false) ∧
    (let s := onG one fun g => { g with mmacAt := some (arrival one) }
     s.liveGids (s.block 1) = [0] ∧ (s.group 0).mmacAt ≠ none) ∧
    cyclesOf (stableNodes one.wnodes one.nodes) = [] ∧
    cyclesOf (stableNodes selfWait.wnodes selfWait.nodes) = [[0]] := by decide +kernel

/-- Two blocks each of whose groups waits on a counter that only itself signals; the second stands on the lower core. -/
def selfWaits : State :=
  let w : Entry → Entry := fun e => { e with st := .parked, wait := .counter 31 1 }
  let g : Group := { one.group 0 with tab := [(0, w ((one.group 0).ent 0))] }
  let b : Block := { one.block 1 with tc := [(31, { bind := .soft })] }
  let s : State := { one with
    groups := [(17 * 5, { g with bid := 2 }), (17 * 3, g)], blocks := [(2, { b with pcore := 5 }), (1, { b with pcore := 3 })] }
  { s with wnodes := s.nodes }

theorem wit_KillResumeExchange_two :
    (match cyclesOf (stableNodes selfWaits.wnodes selfWaits.nodes) with
    | [c, c'] => decide (selfWaits.cycleCore c' < selfWaits.cycleCore c)
    | _ => false) = true := by decide +kernel

theorem wit_KillResumeExchange_fits :
    let b := savedOne.block 1
    let co := savedOne.cohorts.get Cohort.empty 1
    savedOne.findCores b.vi (savedOne.queueNo b) b.kern 1 (savedOne.unitsFor b.vi 0 b.kern co [1]) = some [0] ∧
    (let s := savedOne.setIface 0 { savedOne.iface 0 with clus := [] }
     s.findCores b.vi (s.queueNo b) b.kern 1 (s.unitsFor b.vi 0 b.kern co [1]) = none) := by decide +kernel

/-- Reading the saved block again on core 0. -/
def reloads (s : State) : Hw State := (s.reloadCbar 1 [1]).bind fun u => u.resumeBlock 1 0

theorem wit_KillResumeExchange_resumes : okHw (reloads savedOne) := by decide +kernel

theorem wit_KillResumeExchange_faults :
    faultHw (reloads (savedOne.setCtx 0 0 { savedOne.ctx 0 0 with saveb := 0x0100000000000000 })) ∧
    waitHw (reloads { savedOne with rdymap := 0 }) ∧ badHw (reloads { savedOne with bad := List.range 2048 }) := by decide +kernel

/-- Context 255 with fields that command 1 allows. -/
def creatable : State :=
  onC (fun c => { c with asid := 511, feat0 := 0x101, feat1 := 512, saven := 65536, usrsz := 0x100000, fltlog := 16 }) part

theorem wit_ContextCommands :
    (onC (fun c => { c with busy := true }) part |>.ctx 0 255).busy ∧ (part.ctx 0 255).busy = false ∧
    part.createOk 0 (part.ctx 0 255) = false ∧ (part.ctx 0 255).cstate = .free ∧
    (creatable.ctx 0 255).cstate = .free ∧ (creatable.ctx 0 255).busy = false ∧ creatable.createOk 0 (creatable.ctx 0 255) ∧
    (let s := onC (fun c => { c with cstate := .live }) part
     (s.ctx 0 255).cstate = .live ∧ s.blocksOf 0 255 = [] ∧ s.starting 0 255 = false) ∧
    (let s : State := { mailed with blocks := [] }
     (s.ctx 0 0).cstate = .live ∧ (s.ctx 0 0).busy = false ∧ s.starting 0 0 ∧ s.blocksOf 0 0 = []) ∧
    (let s := onC (fun c => { c with cstate := .stopped }) part
     (s.ctx 0 255).cstate = .stopped ∧ s.blocksOf 0 255 = []) ∧
    (let s := savedOne.setCtx 0 0 { savedOne.ctx 0 0 with cstate := .stopped }
     (s.ctx 0 0).cstate = .stopped ∧ (s.ctx 0 0).busy = false ∧ s.blocksOf 0 0 = [1] ∧ (s.block 1).saved) ∧
    (let s := parkedOn .fault part
     (s.ctx 0 0).cstate = .live ∧ (s.ctx 0 0).busy = false ∧ s.ctxParties 0 0 = [0] ∧ s.blocksOf 0 0 = [1] ∧
       ((s.group 0).ent 0).valid ∧ ((s.group 0).ent 0).st = .parked ∧ ((s.group 0).ent 0).wait = .fault) ∧
    (onC (fun c => { c with cstate := .stopping }) part |>.ctx 0 255).cstate = .stopping ∧
    (onC (fun c => { c with cstate := .ending }) part |>.ctx 0 255).cstate = .ending := by decide +kernel

theorem wit_Invalidations :
    (part.ctx 0 0).busy = false ∧ (part.ctx 0 0).cstate ≠ .free ∧ (0, 0) ∉ part.invs ∧
    (let s : State := { onC (fun c => { c with invalidating := true }) part with invs := [(0, 255), (0, 256)] }
     (0, 255) ∈ s.invs ∧ (s.ctx 0 255).invalidating ∧ (0, 256) ∈ s.invs) ∧ (part.ctx 0 255).recs = [] := by decide +kernel

theorem wit_ContextCommands_replay :
    (let s := parkedOn (.record 0) (part.setCtx 0 0 { part.ctx 0 0 with fltwr := 1 })
     ((s.group 0).ent 0).valid ∧ ((s.group 0).ent 0).st = .parked ∧ ((s.group 0).ent 0).wait = .record 0 ∧
       (s.ctx 0 0).written 0 ∧ (s.ctx 0 0).written 1 = false) ∧
    (onC (fun c => { c with cstate := .stopping }) part |>.blocksOf 0 255) = [] ∧ (part.blocksOf 0 0) = [1] ∧
    (let s := onC (fun c => { c with cstate := .live, busy := true }) part
     (s.ctx 0 255).cstate = .live ∧ (s.ctx 0 255).busy) := by decide +kernel

/-- Context 0 with one record held, of which its fault ring of 16 at 0x9000 has FLTWR records. -/
def heldRec (wr : BitVec 32) : State :=
  part.setCtx 0 0 { part.ctx 0 0 with fltring := 0x9000, fltwr := wr, recs := [toBytes 64 7] }

theorem wit_Invalidations_record :
    (let c := (heldRec 17).ctx 0 0
     c.recs = [toBytes 64 7] ∧ ({ c with fltrd := 1, recs := [] } : Ctx).ringFull ∧
       ({ c with fltrd := 2, recs := [] } : Ctx).ringFull = false) ∧
    (let s := heldRec 17
     let c := s.ctx 0 0
     let u := (s.setCtx 0 0 { c with fltrd := 2 }).setCtx 0 0 { c with fltrd := 2, recs := [] }
     okHw (u.ctxWrite 0 0 0 (c.fltring + BitVec.ofNat 64 (64 * (c.fltwr.toNat % 2 ^ c.fltlog.toNat))) (toBytes 64 7))) := by
  decide +kernel

/-- Images whose signatures are accepted bring a base die up; which those are, no proof can evaluate (log entry 9). -/
theorem wit_accepted (img cfg : Image) (h : Image.ok img 1) (h' : Image.ok cfg 5) :
    let s : State := { State.reset with rdymap := 1 <<< 40 }
    s.rdymap.getLsbD 40 ∧ s.rdymap.getLsbD 19 = false ∧ s.rdyfail.getLsbD 19 = false ∧
    Image.ok img 1 ∧ Image.ok cfg 5 ∧ (s.hbmSet → Config.fineOf (Image.body cfg) = s.hbmFine) :=
  ⟨by decide +kernel, by decide +kernel, by decide +kernel, h, h', fun h => nomatch h⟩

theorem wit_dieAccepted (d : Nat) (die vault agent : Image) (s : State) (h : Image.ok die 2) (h' : Image.ok vault 3)
    (h'' : Image.ok agent 4) : ∃ s1, s.verifyDie d die vault agent = (s1, true) := by
  simp only [State.verifyDie, State.verify, h, h', h'']
  exact ⟨_, rfl⟩

/-- An image without its magic number is not accepted. -/
def badImage : Image := ⟨[]⟩

theorem badImage_rejected : ∀ k ∈ [1, 2, 3, 4, 5], Image.ok badImage k = false := by
  intro k hk
  have : Image.formed badImage k = false := by
    rcases hk with _ | ⟨_, _ | ⟨_, _ | ⟨_, _ | ⟨_, _ | ⟨_, hk⟩⟩⟩⟩⟩ <;> first | (cases hk) | decide +kernel
  simp [Image.ok, this]
theorem wit_BringUp :
    (let s : State := { State.reset with rdymap := 1 <<< 19, released := 1 <<< 7 }
     Func.stack (.hbm 7) = some 3 ∧ s.rdymap.getLsbD 19 ∧ s.rdyfail.getLsbD (Func.bit (.hbm 7)) = false ∧
       Func.stack (.die 7) = none ∧ s.released.getLsbD (Func.bit (.die 7)) ∧ s.rdymap.getLsbD 7 = false ∧
       s.released.getLsbD (Func.bit (.vault 7)) = false) ∧
    (∀ c ∈ State.reset.ctxs, c.2.exists' = false) ∧
    (let s := parkedOn (.deferred 8) one
     s.ctxs.map Prod.fst = [256 * 0 + 0] ∧ (s.ctx 0 0).exists' ∧ s.outstanding 0 0 (· == .deferred 8)) ∧
    (∀ c ∈ ({ one with ctxs := [] } : State).ctxs, c.2.exists' = false) ∧
    ({ one with rdymap := 1 <<< 19 } : State).rdymap.getLsbD (16 + 3) ∧ State.reset.rdymap.getLsbD (16 + 3) = false ∧
    State.reset.log.live = false ∧ State.reset.rdyfail = 0 ∧ State.reset.off = false ∧ State.reset.rdymap.getLsbD 40 = false ∧
    (let s : State := { State.reset with off := true, log := { trip := true } }
     s.off ∧ s.log.trip ∧ s.log.live = false) ∧
    (let s : State := { one with log := { live := true } }
     s.log.live ∧ s.off = false ∧ s.rdyfail.getLsbD 40 = false) ∧
    ({ one with rdyfail := 1 <<< 19 } : State).rdyfail.getLsbD 19 ∧ ({ one with rdymap := 3 <<< 19 ||| 1 <<< 40 } : State).rdymap.getLsbD (16 + 3) ∧
    (let s : State := { State.reset with rdymap := 1 <<< 19 }
     Func.stack (.cxl 3) = some 3 ∧ s.rdymap.getLsbD 19 ∧ s.rdyfail.getLsbD (Func.bit (.cxl 3)) = false ∧
       State.reset.rdymap.getLsbD 19 = false ∧ Func.stack .key = none) ∧
    (let s : State := { State.reset with rdymap := 0x8080000 }
     s.rdymap.getLsbD 19 ∧ s.rdymap.toNat / 2 ^ 20 % 256 ≠ 0 ∧ s.rdymap.getLsbD 7 = false ∧ s.rdyfail.getLsbD 7 = false ∧
       (s.dqs.get {} 7).st = .service) ∧
    one.rdymap.getLsbD 7 ∧ State.reset.rdymap.toNat / 2 ^ 20 % 256 = 0 := by decide +kernel

/-- A base die whose images are rejected. -/
theorem wit_BringUp_rejected :
    let s : State := { State.reset with rdymap := 1 <<< 40 }
    s.rdymap.getLsbD 40 ∧ s.rdymap.getLsbD 19 = false ∧ s.rdyfail.getLsbD 19 = false ∧ ¬Image.ok badImage 1 :=
  ⟨by decide +kernel, by decide +kernel, by decide +kernel, by simp [badImage_rejected]⟩

theorem wit_dieRejected (d : Nat) (s : State) : ∃ s1, s.verifyDie d badImage badImage badImage = (s1, false) := by
  simp only [State.verifyDie, State.verify, badImage_rejected 2 (by decide), badImage_rejected 3 (by decide),
    badImage_rejected 4 (by decide)]
  exact ⟨_, rfl⟩

/-- The hypothesis of secondTierTimeout's first clause. -/
theorem wit_BringUp_none (vi n : Nat) : State.reset.outstanding vi n (· == .deferred 8) = false := by
  simp [State.outstanding, State.ctxWaits, State.ctxParties, State.ctxEngine, State.ctxVault, State.ctxQueue,
    State.ctxArea, State.blocksOf, State.ctx, Ctx.empty, State.reset]

/-- Die 7 in a state of its quiesce, with nothing else in the package. -/
def dieIn (st : DState) (busy : Bool) : State := State.reset.setDq 7 { st := st, busy := busy }

theorem wit_DieQuiesce :
    ((dieIn .quiescing true).dq 7).st ≠ .service ∧ ((dieIn .service true).dq 7).busy ∧
    ((dieIn .service false).dq 7).st = .service ∧ ((dieIn .service false).dq 7).busy = false ∧
    (dieIn .service false).mail = [] ∧ (dieIn .service false).cohorts = [] ∧
    ((dieIn .quiescing true).dq 7).st = .quiescing ∧
    (let s := dieIn .quiescing true
     s.blocks = [] ∧ s.cohorts = [] ∧ s.mail = [] ∧ s.coh = [] ∧ s.wtq = [] ∧ s.net = [] ∧ s.ctxs = [] ∧ s.queues = [] ∧
       s.log.mirror = none ∧ s.log.dropped = 0 ∧ s.log.ents.length < 65000) ∧
    (let s : State := { dieIn .quiescing true with blocks := [(1, { live := true, pcore := 511 })] }
     s.dieEmpty 7 = false) ∧
    (let s := dieIn .rebuilding true
     (s.dq 7).st = .rebuilding ∧ s.lost = [] ∧ s.blocks = [] ∧ s.cohorts = [] ∧ s.mail = [] ∧ s.coh = [] ∧ s.wtq = [] ∧
       s.net = [] ∧ s.ctxs = [] ∧ s.queues = [] ∧ s.log.mirror = none ∧ s.log.dropped = 0 ∧ s.log.ents.length < 65000) ∧
    ((dieIn .fenced false).dq 7).st = .fenced ∧ (dieIn .fenced false).dieMayStart 7 = false ∧
    (let s : State := { dieIn .fenced false with rdymap := 0x8080000 }
     (s.dq 7).st = .fenced ∧ s.dieMayStart 7 ∧ s.rdyfail = 0) := by decide +kernel

/-- Die 7 as above, with copies of line 5 and a page on the loss list. -/
def dieWith (st : DState) (cs : List (Nat × Copy)) : State :=
  cs.foldl (fun s c => s.setCopy c.1 5 c.2) { dieIn st true with lost := [(6, 2, 3)] }

/-- Cluster 63 holds line 5 with bytes that are not published, in the copies of the units about it. -/
def dieHolds : State := dieWith .quiescing [(63, { valid := true, dirty := 1, data := 7 }), (71, { valid := true }),
  (75, { valid := true }), (77, { valid := true }), (78, { valid := true })]

/-- Stack 3 lists line 5 as owned through die 7, whose cluster 63 holds unpublished bytes; cluster 48 of die 6 shares it. -/
def dieOwns : State := dieWith .quiescing [(63, { valid := true, dirty := 1 }), (71, { valid := true, dirty := 1 }), (48, { valid := true }),
  (70, { valid := true }), (75, { valid := true, dirty := 1, owner := some 71 }), (77, { valid := true, data := 7 }), (78, { valid := true })]

def quietS (s : State) : Bool :=
  s.log.mirror.isNone && s.log.dropped == 0 && decide (s.log.ents.length + s.lost.length < 65000) && s.ctxs.isEmpty

theorem wit_DieQuiesce_lines :
    (let s := dieHolds
     (s.dq 7).st = .quiescing ∧ s.dieEmpty 7 ∧ quietS s ∧ s.wtq = [] ∧ s.net = [] ∧ 63 / 8 = 7 ∧
       (∀ u < 79, (s.copy u 5).valid ↔ u ∈ cluPath 63) ∧ s.llcOf 5 = some 0 ∧ paKind s.hbmFine (128 * 5) ≠ .host ∧
       (s.copy 63 5).dirty.getLsbD 0) ∧
    (let s := dieOwns
     (s.dq 7).st = .quiescing ∧ quietS s ∧ (6, 2, 3) ∈ s.lost ∧ inUnit 63 (64 + 7) ∧ (s.copy 63 5).dirty ≠ 0 ∧
       (s.copy 75 5).valid ∧ (s.copy 75 5).owner = some (64 + 7) ∧ (s.copy 77 5).valid ∧ (s.copy 77 5).owner = none ∧
       (s.copy 78 5).owner = none ∧ inUnit 48 75 ∧ inUnit 48 (64 + 7) = false ∧ (s.copy 48 5).valid ∧
       (s.copy 48 5).dirty = 0 ∧ (s.copy (64 + 48 / 8) 5).dirty = 0) ∧
    (∀ k < 64, inUnit k 75 → inUnit k (64 + 7) = false → (dieHolds.copy k 5).valid = false) ∧
    (let s : State := { dieIn .rebuilding true with lost := [(7, 5, 511)] }
     (s.dq 7).st = .rebuilding ∧ s.lost = [(7, 5, 511)] ∧ quietS s) := by decide +kernel

def keyIs (s : State) (b : Option KeyOp) : State := { s with keyr := { s.keyr with busy := b } }

theorem wit_KeysAndSpdm :
    (keyIs one (some (.install 511))).keyr.busy.isSome ∧ one.keyr.busy = none ∧
    (∃ c ∈ one.ctxs, c.2.exists' ∧ c.2.asid.toNat = 0) ∧ ¬(∃ c ∈ one.ctxs, c.2.exists' ∧ c.2.asid.toNat = 511) ∧
    (let s : State := { one with keyr := { one.keyr with keybase := 0x7FFFFFF000, keylen := 1 }, keys := [(511, { valid := true })] }
     s.keyr.busy = none ∧ s.keyr.keybase.toNat % 4096 = 0 ∧ 1 ≤ s.keyr.keylen.toNat ∧ s.keyr.keylen.toNat ≤ 2 ^ 24 ∧
       s.keyr.keybase.toNat + 4096 * s.keyr.keylen.toNat ≤ 2 ^ 39 ∧ (s.keys.get Key.none 511).valid) ∧
    one.keyr.keylen.toNat < 1 ∧ (one.keys.get Key.none 511).valid = false ∧ State.reset.coh = [] ∧ State.reset.net = [] ∧
    ([KeyOp.install 511, .destroy 511, .seal 511 0x1000 1].all fun k =>
      (keyIs { State.reset with keys := [(511, { valid := true })] } (some k)).keyr.busy == some k) ∧
    State.reset.spdm.version = false ∧ State.reset.spdm.caps = false ∧ State.reset.spdm.algs = false ∧
    State.reset.spdm.session = false ∧
    (let s : State := { State.reset with spdm := { version := true, caps := true, algs := true, session := true } }
     s.spdm.version ∧ s.spdm.caps ∧ s.spdm.algs ∧ s.spdm.session) := by decide +kernel

theorem wit_OutsideAccesses :
    one.net = [] ∧ 0x1FFFFFFF < 2 ^ 41 ∧ one.bad = [] ∧ 0x7FFFFFFFF8 % 8 = 0 ∧ 0x7FFFFFFFF9 % 8 ≠ 0 ∧
    (∃ h < 8, paKind one.hbmFine 0x7FFFFFFFF8 = .hbm h ∧ one.rdymap.getLsbD (20 + h)) ∧
    (let s : State := { one with rdymap := one.rdymap ||| 0x8010000000 }
     s.rdymap.getLsbD 28 ∧ s.rdymap.getLsbD 39 ∧ s.net = [] ∧ s.bad = []) ∧ one.rdymap.getLsbD 39 = false ∧
    paKind one.hbmFine 0x1FFFFFFFFFF8 = .host ∧ 0x1FFFFFFFFFF8 % 8 = 0 ∧
    paKind one.hbmFine (128 * 0x1FFFFFFFFF) = .second 1 ∧ (∀ p < 4, paKind one.hbmFine 0 ≠ .second p) ∧
    paKind one.hbmFine (128 * 0x3FFFFFFFFF) = .host ∧
    (let s : State := { one with bad := [0xFFFFFFFF] }
     0x7FFFFFFFF8 / 128 = 0xFFFFFFFF ∧ 0x7FFFFFFFF8 / 128 ∈ s.bad ∧ 0x7FFFFFFFF8 / 128 ∉ one.bad) ∧
    (let s := copyS [(llcUnit 0, 0x3FFFFFFFFF, { valid := true, dirty := 1 })]
     s.net = [] ∧ (s.copy 78 0x3FFFFFFFFF).valid = false ∧ (s.copy (llcUnit 0) 0x3FFFFFFFFF).dirty ≠ 0) := by decide +kernel

/-- Interface 5's firmware region begins at physical page 9. -/
def regioned : State :=
  let s : State := { one with ifaces := [(5, { fwbase := 1 <<< 56 })], fwRoot := 0x2000, rdymap := one.rdymap ||| 0x8010000000 }
  [(0x2800, 0x3001), (0x3000, 0x4001), (0x4000, 0x5001), (0x5000, 0x6001), (0x6000, 0x8000000000009087)].foldl
    (fun s c => wM c.1 (toBytes 8 c.2) s) s

theorem wit_OutsideAccesses_peers :
    one.ifaces.all (fun c => !c.2.fwbase.getLsbD 56 && !c.2.ctxTab.getLsbD 56) ∧ one.fwOfPa 0x7FFFFFFFF8 = none ∧
    regioned.fwOfPa 0x9040 = some (5, false, 0x40) ∧ 0x9040 / 128 ∉ regioned.bad ∧ regioned.rdymap.getLsbD 28 ∧
    regioned.rdymap.getLsbD 39 ∧ paKind regioned.hbmFine 0x9040 = .hbm 0 ∧ regioned.rdymap.getLsbD 20 ∧
    one.isCached 0xFFFFFFFF = false ∧ one.log.mirror = none ∧ one.log.dropped = 0 ∧ one.log.ents.length < 65536 ∧
    (8 = AType.bits .s64 / 8 ∧ 0x7FFFFFFFF8 % 8 = 0 ∧ 16 ∈ [4, 8, 16] ∧ 0x7FFFFFFFF0 % 16 = 0) ∧
    paKind one.hbmFine (2 ^ 39) = .aperture ∧ one.windowAt (2 ^ 39) = none ∧ 2 ^ 39 / 128 ∉ one.bad ∧
    one.fwOfPa (2 ^ 39) = none ∧
    (let s : State := { win63 true false with rdymap := one.rdymap ||| 0x8010000000 }
     (s.windowAt (2 ^ 39)).isSome ∧ s.paWait (2 ^ 39) = none ∧ s.rdymap.getLsbD 39 ∧ s.fwOfPa (2 ^ 39) = none ∧ s.net = []) ∧
    (∀ h < 8, paKind one.hbmFine 0x1FFFFFFFFFF8 ≠ .hbm h) ∧ paKind one.hbmFine 0x1FFFFFFFFFF8 ≠ .aperture := by decide +kernel

theorem wit_LogAndRequests :
    State.reset.log.ents.length < 65536 ∧ State.reset.log.dropped = 0 ∧ State.reset.log.mirror = none ∧
    (let a : BitVec 64 := 0x1FFFFFFFD000
     (a + 0x1000).toNat % 4096 = 0 ∧ 2 ^ 44 ≤ a.toNat ∧ a.toNat + 4096 + 32 * 2 ^ 7 ≤ 2 ^ 45 ∧ a.toNat % 4096 = 0) ∧
    ¬((0x1FFFFFFFF000 : BitVec 64).toNat + 4096 + 32 * 2 ^ 7 ≤ 2 ^ 45) ∧ State.reset.log.ents = [] ∧ State.reset.log.seq < 1 ∧
    (0 ≤ State.reset.log.seq) ∧ (127 < 128 ∧ 1 ≤ 127 ∧ 127 ≤ 127) ∧ (∀ k ∈ State.reset.log.ckpts, k.seq ≠ 0) ∧
    (let s : State := { one with log := { ckpts := [⟨1, [7]⟩] } }
     s.log.ckpts = [⟨1, [7]⟩]) ∧
    eventOk 2 (locOf 7 7) (0x80 + 16 * 2 ^ 48) ∧ eventOk 2 (locOf 7 7) (17 * 2 ^ 48) = false ∧ eventOk 2 (locOf 7 8) (2 ^ 48) = false ∧
    eventOk 0x12 (locOf 3 7) 0x169 ∧ 10 ≤ (0xA000 : BitVec 16).toNat / 2 ^ 12 ∧ (0x60 : BitVec 8) ∈ [0, 0x60, 0x7F] ∧
    (let l : SLog := { dropped := 3, seq := 7 }
     l.dropped ≠ 0 ∧ l.ents.length < 65535 ∧ l.mirror = none) ∧
    (let e : LogEntry := ⟨9, 1, 2, locOf 7 0, 0, 0⟩
     let l : SLog := { ents := [e], seq := 9, mirror := none, written := 9 }
     l.ents = [e] ∧ 9 ≤ l.written ∧ l.written < 10) ∧
    1499 < 1500 ∧ 3000 < 3001 ∧ (7 : BitVec 8).toNat ≥ 7 ∧ (6 : BitVec 8) ≠ 0 ∧ (6 : BitVec 8).toNat < 7 := by decide +kernel

theorem wit_LogAndRequests_full (e : LogEntry) :
    65536 ≤ ({ State.reset with log := { ents := List.replicate 65536 e } } : State).log.ents.length :=
  (List.length_replicate).ge

def drooping (x : Stretch) : State := { one with power := { one.power with droop := [(63, x)] } }

theorem wit_PowerAndReset :
    one.power.droop.get {} 63 = {} ∧
    ([({ k := 15, deep := 15, start := 1 } : Stretch), { k := 1, deep := 2, start := 1 }].all fun x =>
      let y := (drooping x).power.droop.get {} 63
      y == x && y.stop.isNone && decide (0 < y.k)) ∧
    1 < ((drooping { k := 15 }).power.droop.get {} 63).k ∧ ((drooping { k := 1 }).power.droop.get {} 63).k = 1 ∧
    (one.power.droop.get {} 63).k = 0 ∧ (one.power.droop.get {} 63).stop = none ∧ one.power.capS.k = 0 ∧
    ({ one with power := { one.power with capS := { k := 15 } } } : State).power.capS.k ≠ 0 ∧
    (94 : BitVec 8).toNat < 95 ∧ 95 ≤ (95 : BitVec 8).toNat ∧ (104 : BitVec 8).toNat < 105 ∧ 105 ≤ (105 : BitVec 8).toNat ∧
    one.log.mirror = none ∧
    locIs (locOf 4 7) [1, 2, 3, 4] ∧ locIs (locOf 4 7) [2, 3] = false ∧ locIs (locOf 3 7) [1, 2, 3, 4] ∧ locIs (locOf 3 7) [2, 3] ∧
    locIs (locOf 3 8) [1, 2, 3, 4] = false ∧
    (let s : State := { one with log := { mirror := some (2 ^ 45 - 8192, 7) } }
     s.log.mirror = some (2 ^ 45 - 8192, 7) ∧ 2 ^ 44 ≤ 2 ^ 45 - 8192 ∧ 2 ^ 45 - 8192 + 4096 + 32 * 2 ^ 7 ≤ 2 ^ 45 ∧
       s.log.dropped = 0 ∧ s.log.ents.length < 65536) ∧
    ([false, true].all fun later => [16, 17].all fun n =>
      let e : EccErr := ⟨.hbm 0xFFFFFFFF, n, later⟩
      e.place == .hbm 0xFFFFFFFF && e.later == later && e.wrong == n && e.wrong != 0) ∧
    ([false, true].all fun later => [1, 2].all fun n =>
      let e : EccErr := ⟨.sram 9 0 5, n, later⟩
      e.place == .sram 9 0 5 && e.later == later && e.wrong == n && e.wrong != 0) ∧
    (⟨.hbm 5, 0, true⟩ : EccErr).wrong = 0 ∧ 2 ^ 32 ≤ 2 ^ 32 ∧ dieAt (one.eccLoc (.sram 6 7 5)) = some 7 ∧
    dieAt (one.eccLoc (.sram 6 8 5)) = none ∧
    (let s := wB (fun b => { b with saved := true }) one
     (1, s.block 1) ∈ s.blocks ∧ (s.block 1).live ∧ (s.block 1).saved ∧ (s.block 1).vi = 0) ∧
    (let m : Moved := { vi := 0, bid := 2, block := one.block 1, cohort := Cohort.empty, groups := [(32, one.group 0)] }
     let s : State := { one with moved := [m] }
     s.moved = [m] ∧ m.vi = 0 ∧ (s.block m.bid).live = false ∧ m.groups = [(32, one.group 0)]) ∧
    (one.group 0).live ∧ (one.block (one.group 0).bid).live ∧ (one.block (one.group 0).bid).vi = 0 := by decide +kernel

theorem wit_RegisterWrites :
    (part.queue 0 31).st = .disabled ∧ (queued.queue 0 31).st ≠ .disabled ∧ (2 : BitVec 64).toNat % 4 ≠ 1 ∧
    (1 : BitVec 64).toNat % 4 ≠ 2 ∧ (part.ctx 0 255).cstate = .free ∧ (part.ctx 0 0).cstate ≠ .free ∧
    (4095 < 4096 ∧ (0xFFF0002 : BitVec 64).toNat = 2 + 4095 * 2 ^ 16 ∧ (0xFFF0003 : BitVec 64).toNat = 3 + 4095 * 2 ^ 16) ∧
    ((4 : BitVec 64) ≠ 1 ∧ (4 : BitVec 64).toNat % 2 ^ 16 ≠ 2 ∧ (4 : BitVec 64).toNat % 2 ^ 16 ≠ 3) ∧
    ((0x10000002 : BitVec 64) ≠ 1 ∧ 2 ^ 28 ≤ (0x10000002 : BitVec 64).toNat) ∧
    (0x70000 : BitVec 64).toNat / 2 ^ 32 % 16 = 0 ∧ ((win63 true false).win.get Window.reset (16 * 3 + 15)).en ∧
    (1 : BitVec 64).getLsbD 0 ∧ (2 : BitVec 64).getLsbD 0 = false ∧
    (part.win.get Window.reset 63).en = false ∧ (part.win.get Window.reset 63).busy = false ∧
    (0x1FF : BitVec 64).toNat / 2 ^ 16 % 4 = 0 ∧ (0xFFFF00000000 : BitVec 64).toNat % 4 = 0 ∧
    (let s : State := { State.reset with ifaces := [(255, {})] }
     s.groups = [] ∧ s.queues = [] ∧ ∀ p ∈ s.ifaces, p.1 = 255) ∧
    (∃ j < 32, (queued.queue 0 j).st ≠ .disabled) ∧
    (0x10001FF : BitVec 64).toNat % 2 ^ 16 + (0x10001FF : BitVec 64).toNat / 2 ^ 16 % 2 ^ 16 = 511 + 256 ∧
    (0x101FF : BitVec 64).toNat % 2 ^ 16 + (0x101FF : BitVec 64).toNat / 2 ^ 16 % 2 ^ 16 = 512 ∧
    canonical (0xFFFFFFFFFFFFF000 &&& ~~~ (0xFFF : BitVec 64)) ∧ (0xFFFFFFFFFFFFF000 : BitVec 64).getLsbD 56 := by decide +kernel

/-- A queue of a package in which no register has been written is disabled. -/
theorem wit_RegisterWrites_disabled (j : Nat) : (State.reset.queue 255 j).st = .disabled := by
  simp [State.queue, State.reset]

/-- A write of the partition registers sets nothing or a partition or range; which of them, no proof can evaluate (log
entry 19). -/
theorem wit_RegisterWrites_partSet (off : Nat) (v : BitVec 64) :
    Config.partSet off v = none ∨ ∃ b i p, Config.partSet off v = some (b, i, p) := by
  cases Config.partSet off v with
  | none => exact .inl rfl
  | some x => exact .inr ⟨x.1, x.2.1, x.2.2, rfl⟩

theorem wit_DecodeEncode :
    let i : Instr := .stt .b64 (.v 2) (.slit 3 0x40) rlx
    i.wf ∧ encode i ≠ [] ∧ 1 + (encode i).length ≤ 3 := by decide +kernel

/-- A step of a state that runs the word w at packet 0 fetches it with its literals, and of the word, what it decodes
to and whether the copies of a save handler are made, a fact holds. -/
def fetches (w : Nat) (p : Word32 → Except Reject Decoded → Bool → Bool) : Bool :=
  let s := State.reset.withFetchWord 32 w
  !s.off && s.agenda.isEmpty && s.internal.isNone && s.unitsFirst.isNone &&
    match s.pick with
    | some (c, cs) =>
      let u := s.issuing c cs
      let pc := u.e.pc
      (match u.codeWord pc with
       | (s1, .ok x) =>
         let k := litLen u.pool (x.toNat / 2 ^ 21 % 2 ^ 10) (x.toNat % 2 ^ 31)
         (match s1.codeWords k (pcAdd pc 1) with
          | (s2, .ok ls) =>
            let l : Lits := ⟨ls.getD 0 0, ls.getD 1 0⟩
            !x.msb && decide (pcSlot pc + 1 + k ≤ 3) && !u.g.isAgent &&
              p x (decode u.pool (pcSlot pc) x l) (match s2.cowCopy (Item.dests ⟨pc, x, l⟩) with
                | .ok _ => true
                | _ => false)
          | _ => false)
       | _ => false)
    | none => false

/-- The word decodes to an instruction of which a fact holds. -/
def decodes (p : Instr → Bool) : Except Reject Decoded → Bool
  | .ok d => p d.instr
  | .error _ => false

/-- The word is refused as an illegal encoding. -/
def refusedWord : Except Reject Decoded → Bool
  | .error .illegalEncoding => true
  | _ => false

theorem wit_StepRuns :
    (fetches 0x082187FF fun w d ok => assigned (w.toNat / 2 ^ 21 % 2 ^ 10) && ok && decodes (!agentReg ·) d) ∧
    (fetches 0x0820847F fun w d _ => assigned (w.toNat / 2 ^ 21 % 2 ^ 10) && refusedWord d) ∧
    (fetches 0x01C1C000 fun w d _ => assigned (w.toNat / 2 ^ 21 % 2 ^ 10) && decodes agentReg d) ∧
    (fetches 0x5E000000 fun w _ _ => !assigned (w.toNat / 2 ^ 21 % 2 ^ 10)) ∧
    ({ one with off := true } : State).off ∧ one.agenda = [] ∧
    ({ one with off := true, agenda := [.powerGood] } : State).agenda = [.powerGood] ∧ one.off = false ∧
    happensOff .powerGood ∧ happensOff .nop = false ∧
    ({ one with agenda := [.deferredDataArrival 5] } : State).agenda = [.deferredDataArrival 5] := by decide +kernel

/-- The words of packet 0. -/
def packet (a b c : Nat) : State := State.reset.withFetchWord 96 (a + b * 2 ^ 32 + c * 2 ^ 64)

/-- A word, and that word with its chain bit. -/
def wordOf (i : Instr) : Nat := ((encode i).headD 0).toNat

def chained (i : Instr) : Nat := 2 ^ 31 + wordOf i

/-- The step of a state issues a fragment with no error of SRAM and no vault write before it, and of the state that
issues a fact holds. -/
def issues (s : State) (p : State → Bool) : Bool :=
  !s.off && s.agenda.isEmpty && s.internal.isNone && s.unitsFirst.isNone &&
    match s.pick with
    | some (c, cs) =>
      let u := s.issuing c cs
      u.sramMet.isEmpty && (u.vaultWaits u.cur.gid).isEmpty && p u
    | none => false

/-- The fetch answers so of the word at the fragment's program counter, or of the first literal after it. -/
def fetchMeets (s : State) (p q : LRes → Bool) : Bool := issues s fun u => match u.codeWord u.e.pc with
  | (_, .error r) => p r
  | (s1, .ok w) =>
    let k := litLen u.pool (w.toNat / 2 ^ 21 % 2 ^ 10) (w.toNat % 2 ^ 31)
    (!w.msb || u.e.cont.isSome) && match s1.codeWords (Nat.min k (2 - pcSlot u.e.pc)) (pcAdd u.e.pc 1) with
      | (_, .error r) => q r.2
      | _ => false

def isPage : LRes → Bool
  | .page => true
  | _ => false

def isProt : LRes → Bool
  | .prot _ => true
  | _ => false

def never : LRes → Bool := fun _ => false

/-- A word at the end of page 1, whose literal would stand in page 2, with the given entries of the TLB besides. -/
def pageEnd (ts : List TlbEntry) : State :=
  let s := wM 0x1FFC (toBytes 4 0x2081427C) (wB (fun b => { b with kern := { b.kern with cbase := 0x1FFC } }) one)
  { s with tlb := s.tlb ++ ts }

theorem wit_StepRuns_fetch :
    fetchMeets { one with tlb := [] } isPage never ∧
    fetchMeets { one with tlb := one.tlb.map fun t => { t with x := false } } isProt never ∧
    fetchMeets { one with rdymap := 0 } isWait never ∧ fetchMeets (pageEnd []) never isPage ∧
    fetchMeets (pageEnd [⟨0, 0, 0x2000, 12, 0x3000, true, true, false⟩]) never isProt ∧
    fetchMeets (pageEnd [⟨0, 0, 0x2000, 12, 2 ^ 44, true, true, true⟩]) never isWait := by decide +kernel

/-- The chain or word that a step fetches, of which a fact holds. -/
def chains (s : State) (p : State → State → List Item → Bool) : Bool := issues s fun u =>
  match State.fetchChain u.pool u.e.cont.isSome 3 u.e.pc u with
  | (s2, .ok is) => !u.g.isAgent && p u s2 is
  | _ => false

/-- The first step of R143 that fails for a chain, 1 to 4; 0 where none does. -/
def failsAt (k : Nat) (u : State) (is : List Item) : Bool :=
  u.e.cont.isNone && k == (if is.any (Item.badPacket u.pool false is) then 1 else if is.any fun i => !assigned i.op then 2
    else if is.any fun i => i.op == 0x3DC then 3 else if is.any (Item.badEncoding u.pool false) then 4 else 0)

def atSlot (k : Nat) (s : State) : State := wE (fun e => { e with pc := mkPc 0 k }) s

theorem wit_StepRuns_chains :
    (let add := Instr.sadd 3 3 (.imm 1)
     let mov := Instr.vmov .b32 2 (.int 1)
     ([(packet (chained add) (wordOf mov) 0, 0), (packet (chained add) (wordOf add) 0, 1),
       (atSlot 2 (packet 0 0 (chained add)), 1), (packet (2 ^ 31 + 0x2081427C) 5 0, 1), (packet (chained add) 0x5E000000 0, 2),
       (packet (chained add) 0x7B800000 0, 3), (packet (chained mov) 0x0820847F 0, 4), (atSlot 2 (packet 0 0 0x2081427C), 1)] :
         List (State × Nat)).all fun c => chains c.1 fun u s2 is => failsAt c.2 u is && (s2.badCode (itemPcs u.pool is)).isNone) ∧
    (chains { packet 0 0 0 with bad := [0x1000 / 128] } fun u s2 is => (s2.badCode (itemPcs u.pool is)).isSome) ∧
    (fetchMeets (packet 0 0 0) never never = false) ∧
    (issues (atSlot 2 (packet 0 0 0x2081427C)) fun u => match u.codeWord u.e.pc with
      | (_, .ok w) => !w.msb && decide (3 < pcSlot u.e.pc + 1 + litLen u.pool (w.toNat / 2 ^ 21 % 2 ^ 10) (w.toNat % 2 ^ 31))
      | _ => false) ∧
    (issues (packet 0x7B800000 0 0) fun u => match u.codeWord u.e.pc with
      | (_, .ok w) => w.toNat / 2 ^ 21 % 2 ^ 10 == 0x3DC && !u.g.isAgent
      | _ => false) := by decide +kernel

/-- The chain of two words runs to the copies that a save handler makes, and of the words' outcomes a fact holds. -/
def outcomes (s : State) (p : State → List (Host.Outcome State Fault Refusal) → Bool) : Bool := chains s fun u s2 is =>
  failsAt 0 u is && match s2.cowCopy (is.flatMap Item.dests), is with
    | .ok s3, [i, last] => (match last.instr u.pool with
      | .ok d =>
        let v : State := { s3 with chain := some ⟨u.e.pc, pcSlot u.e.pc, s3.g⟩, next := pcAdd last.pc d.words }
        p v ([i, last].map (runItem exec u.pool v))
      | _ => false)
    | _, _ => false

theorem wit_StepRuns_outcomes :
    (let add := Instr.sadd 3 3 (.imm 1)
     outcomes (packet (chained add) (wordOf (.vmov .b32 2 (.int 1))) 0) (fun v os =>
       (os.find? (misfielded v)).isNone && (os.find? (stopped v)).isNone) ∧
     outcomes (packet (chained add) (wordOf (.bnz (.s 3) ⟨2, 0⟩)) 0) (fun v os =>
       (os.find? (misfielded v)).isNone && (os.find? (stopped v)).isNone) ∧
     outcomes (wS 1 0x00FFFFFFFFFFFFF8 (packet (chained (.sadda 3 1 (.imm 8))) (wordOf (.vmov .b32 2 (.int 1))) 0)) (fun v os =>
       (os.find? (misfielded v)).isNone && (os.find? (stopped v)).isSome) ∧
     outcomes (wS 8 0x1000 (packet (chained add) (wordOf (.swp .add .rne 8 0)) 0)) (fun v os =>
       (os.find? (misfielded v)).isSome)) := by decide +kernel

/-- A save handler runs the word, and the copies of what it overwrites answer so. -/
def copiesOf (s : State) (p : Hw State → Bool) : Bool := chains s fun _ s2 is => p (s2.cowCopy (is.flatMap Item.dests))

theorem wit_StepRuns_copies :
    (let s := saveable (handlerS true (packet (wordOf (.sadd 4 3 (.imm 1))) 0 0))
     copiesOf s okHw ∧ copiesOf { s with bad := [0x200000 / 128] } badHw ∧
     copiesOf { s with tlb := s.tlb.map fun t => { t with w := false } } faultHw ∧
     copiesOf { s with tlb := s.tlb.map fun t => if t.va = 0x1000 then t else { t with pa := 2 ^ 44 } } waitHw) := by decide +kernel

/-- What comes before the issue of a word. -/
theorem wit_StepRuns_first :
    (let s : State := { one with net := [.inva 63 5 0 0] }
     s.off = false ∧ s.agenda = [] ∧ s.internal.isSome) ∧
    (let s : State := { storing one with clock := 15 }
     s.internal.isNone ∧ s.unitsFirst.isSome) ∧
    (State.reset.internal.isNone ∧ State.reset.unitsFirst.isNone ∧ State.reset.pick.isNone ∧ State.reset.off = false) ∧
    ([(one, 1), (packet (wordOf .fenceV) 0 0, 0)].all fun x =>
     let s : State := { x.1 with vq := [{ gid := 0, vault := 511, off := 0, bytes := [7] }], rdymap := one.rdymap &&& 0xFFF7FFF }
     s.internal.isNone && s.unitsFirst.isNone && (match s.pick with
       | some (c, cs) =>
         let u := s.issuing c cs
         (u.vaultWaits u.cur.gid == [.notReady (.vault 7)]) && gives (issueChain exec u) fun v =>
           v.g.live && (v.vaultWaits u.cur.gid).length == x.2
       | none => false)) := by decide +kernel

/-- A bit or two of a word of the SRAM of the issuing party's cluster are wrong. -/
def latentS (two : Bool) : State := { one with latent := [(.sram 4 0 5, if two then 2 else 1)] }

/-- That error is met where an access touches it, which no proof can evaluate (log entry 53). -/
theorem wit_StepRuns_sram (two : Bool) (h : Config.touches 0 0 = true) :
    (latentS two).sramMet = [(.sram 4 0 5, if two then 2 else 1)] := by
  have u : ∀ x, (latentS x).uses (.sram 4 0 5) = true := by decide +kernel
  have c : (latentS two).clock = 0 := rfl
  have l : (latentS two).latent = [(.sram 4 0 5, if two then 2 else 1)] := rfl
  rw [State.sramMet, l, c]
  simp only [List.length_singleton, List.range_one, List.zip_cons_cons, List.zip_nil_right, List.filter_cons, u, h,
    Bool.and_self, if_true, List.filter_nil, List.map_cons, List.map_nil]

theorem wit_StepKeepsMemWf : one.memWf ∧ gives (step one) fun _ => true := by decide +kernel

/-- R384, R410: power comes back in the next epoch; without power a program does not run. -/
theorem test_power_returns :
    let s : State := { State.reset with off := true, log := { boot := 4 } }
    gives (step { s with agenda := [.powerGood] }) (fun t => !t.off && t.rdymap == 1 <<< 40 && t.log.boot == 5) ∧
    gives (step { one with off := true, agenda := [.nop] }) (fun t => t.off && (t.group 0).tab == (one.group 0).tab) ∧
    (match step s with
     | .fault .powerOff => true
     | _ => false) = true := by decide +kernel

end Sys2Proof.Tests
end

section
/-! PROOFS. The system registers, the feature and stepping queries and the package time (R50 to R52, R115, R116, R126,
R164 to R171, R340): what SRD, FEATQ, PHYSQ and TIME read, and what SWR writes. -/

namespace Sys2Proof.Machine

theorem ofBool_eq_toNat (b : Bool) : ofBool b = b.toNat := by cases b <;> rfl

theorem bits_zero {w : Nat} (x : BitVec w) (n : Nat) : bits x 0 n = x.toNat % 2 ^ n := by simp [bits]

theorem State.homeGid_of_not_loupe {s : State} (h : s.g.isLoupe = false) : s.homeGid = s.cur.gid := by
  unfold State.homeGid
  split
  next hk => simp [Group.isLoupe, hk] at h
  next => rfl

/-! ### SRD -/

section
variable {s : State} {d : Fin 64} {r : SysReg} {x : Word64}

/-- A register that the party has is read at once unless it holds flags that are still to come. -/
theorem srd_setsS (hx : s.readSr r = some x) (hw : s.flagWait r = false) : SetsS (.srd d r) s d.val x :=
  setsS_scalar (by change execSrd d r s = _; simp [execSrd, hx, hw, State.scalar])

theorem srd_parks (hx : s.readSr r = some x) (hw : s.flagWait r = true) :
    exec (.srd d r) s = .next (s.parkHere .flags).stop := by
  change execSrd d r s = _
  simp [execSrd, hx, hw, commit, Eff.state]

theorem srd_traps (hx : s.readSr r = none) : Traps (.srd d r) s tEncoding := by
  change execSrd d r s = _
  simp [execSrd, hx, commit_trap]

/-- The flag registers are the two that wait. -/
theorem State.flagWait_flags (h : r ∈ [SysReg.fpstat, .mstat]) : s.flagWait r = s.flagging s.cur.gid s.cur.ent := by
  rcases List.mem_pair.mp h with rfl | rfl <;> rfl

theorem State.readSr_flags (h : r ∈ [SysReg.fpstat, .mstat]) : ∃ x, s.readSr r = some x := by
  rcases List.mem_pair.mp h with rfl | rfl <;> exact ⟨_, rfl⟩

theorem State.readSr_agentOnly (ha : s.g.isAgent = false) (hr : SysReg.agentOnly r = true) : s.readSr r = none := by
  cases r <;> simp_all [State.readSr, SysReg.agentOnly]

end

section
variable (s : State)

theorem State.readSr_fidx : s.readSr .fidx = some (BitVec.ofNat 64 (s.srGroup.sr.fidxV.toNat * 2 ^ 63 +
    s.srGroup.sr.fidxIx.toNat * 2 ^ 32 + s.srGroup.sr.fidxPc.toNat)) := by
  simp [State.readSr, SysRegs.fidx, ofBool_eq_toNat]

theorem State.readSr_mstat :
    s.readSr .mstat = some (BitVec.ofNat 64 (s.srGroup.sr.mnv.toNat * 2 + s.srGroup.sr.mov.toNat)) := by
  simp [State.readSr, SysRegs.mstat, ofBool_eq_toNat]

theorem State.readSr_mode : s.readSr .mode = some (if s.srGroup.sr.ftz then 1 else 0) := by
  cases h : s.srGroup.sr.ftz <;> simp [State.readSr, h, ofBool]

end

section
variable {s : State} (ha : s.g.isAgent = true)
include ha

theorem State.readSr_agid : s.readSr .agid = some (BitVec.ofNat 64 (s.srGroup.sr.ifn.toNat * 2 ^ 24 +
    s.srGroup.sr.agOut.toNat * 2 ^ 16 + s.core)) := by
  simp [State.readSr, ha, ofBool_eq_toNat]

theorem State.readSr_fwbase : s.readSr .fwbase = some (s.srGroup.sr.fwbase &&& ~~~ 0xFFF) := by
  simp [State.readSr, ha]

theorem State.readSr_apoll : s.readSr .apoll = some (s.srGroup.sr.apoll.zeroExtend 64) := by
  simp [State.readSr, ha]

theorem State.readSr_aasid : s.readSr .aasid =
    some (BitVec.ofNat 64 (s.srGroup.sr.aasidV.toNat * 2 ^ 9 + s.srGroup.sr.aasid.toNat)) := by
  simp [State.readSr, ha, ofBool_eq_toNat]

end

/-! ### Queries -/

section
variable {s : State} {d : Fin 64} {b : SSrc}

theorem time_setsS : SetsS (.time d) s d.val (s.times.get 0 (s.clu / 8)) := setsS_scalar rfl

theorem word64_ne_small {x : Word64} (h : 1 < x.toNat) : x ≠ 0 ∧ x ≠ 1 :=
  ⟨fun h0 => by simp [h0] at h, fun h1 => by simp [h1] at h⟩

theorem word64_eq_small {x : Word64} (h : x.toNat ≤ 1) : x = 0 ∨ x = 1 := by
  have : x.toNat = 0 ∨ x.toNat = 1 := by omega
  exact this.imp (fun h0 => BitVec.eq_of_toNat_eq h0) (fun h1 => BitVec.eq_of_toNat_eq h1)

theorem featq_past (h : 1 < (s.readB b).toNat) : SetsS (.featq d b) s d.val 0 := by
  have hx : ¬(s.readB b = 0 ∨ s.readB b = 1) := not_or.mpr (word64_ne_small h)
  exact setsS_scalar (by change execFeatq d b s = _; rw [execFeatq, if_neg hx]; rfl)

theorem featq_word0 (h : s.readB b = 0) (ha : s.g.isAgent = false) : SetsS (.featq d b) s d.val s.myCtx.feat0 :=
  setsS_scalar (by change execFeatq d b s = _; simp [execFeatq, h, ha, State.scalar])

theorem featq_word1 (h : s.readB b = 1) (ha : s.g.isAgent = false) : SetsS (.featq d b) s d.val s.myCtx.feat1 :=
  setsS_scalar (by change execFeatq d b s = _; simp [execFeatq, h, ha, State.scalar])

/-- The feature words of an agent are free values (log entry 14). -/
theorem featq_agent (h : (s.readB b).toNat ≤ 1) (ha : s.g.isAgent = true) (hd : d.val < 61) :
    Completes (.featq d b) s fun t =>
      Went s t s.next ∧ t.g.s.get 0 d.val = Config.freeWord s.free ∧ t.free = s.free + 1 := by
  let u := s.writeS d.val (Config.freeWord s.free)
  have hn : u.next = s.next := by simp [u, State.writeS, hd]
  have he : exec (.featq d b) s = .next (({ u with free := s.free + 1 } : State).advance u.next) := by
    change execFeatq d b s = _
    rw [execFeatq, if_pos (word64_eq_small h), if_pos ha]
    rfl
  rw [hn] at he
  obtain ⟨hset, hwent⟩ := (setS_writeS s d.val (Config.freeWord s.free) s.next).1.file hd
  exact ⟨_, he, ⟨hwent.ent, hwent.others⟩, hset, rfl⟩

theorem physq_past (h : 1 < (s.readB b).toNat) : SetsS (.physq d b) s d.val 0 := by
  obtain ⟨h0, h1⟩ := word64_ne_small h
  exact setsS_scalar (by change execPhysq d b s = _; rw [execPhysq, if_neg h0, if_neg h1]; rfl)

theorem physq_clocks (h : s.readB b = 1) :
    SetsS (.physq d b) s d.val (BitVec.ofNat 64 (Config.lclk * 2 ^ 16 + Config.aclk)) :=
  setsS_scalar (by change execPhysq d b s = _; simp [execPhysq, h, State.scalar])

/-- MIG and the stepping as a word. -/
theorem migWord_eq (mig : Bool) : BitVec.ofNat 64 (ofBool mig * 2 ^ 63 + Config.stepping.toNat) =
    (if mig then 1 <<< 63 else 0) + Config.stepping.zeroExtend 64 := by cases mig <;> decide

/-- Word 0 of PHYSQ clears MIG of the group. -/
theorem physq_mig (h : s.readB b = 0) (hl : s.g.isLoupe = false) (hd : d.val < 61) :
    Completes (.physq d b) s fun t =>
      OnlyGroup s t ∧ Went s t s.next ∧ t.g.mig = false ∧
      t.g.s.get 0 d.val = (if s.g.mig then 1 <<< 63 else 0) + Config.stepping.zeroExtend 64 ∧
      ∀ r, r ≠ d.val → t.g.s.get 0 r = s.g.s.get 0 r := by
  let x : Word64 := BitVec.ofNat 64 (ofBool s.g.mig * 2 ^ 63 + Config.stepping.toNat)
  let g : Group := { s.g with mig := false, s := s.g.s.set 0 d.val x }
  have he : exec (.physq d b) s = commit (.ok (s.setG g)) := by
    have hg : s.hg = s.g := by rw [State.hg, State.homeGid_of_not_loupe hl]; rfl
    have hw : (s.setG { s.g with mig := false }).writeS d.val x = s.setG g := by simp [State.writeS, hd, g]
    change execPhysq d b s = _
    rw [execPhysq, if_pos h, hg, State.homeGid_of_not_loupe hl, ← hw]
    rfl
  rw [commit_ok_setG] at he
  exact ⟨_, he, onlyGroup_setG _ _, went_setG s g _ rfl, by simp [g],
    (by simp [g] : _ = x).trans (migWord_eq s.g.mig), fun r hr => by simp [g, hr]⟩

end

/-- Settles O7: each register is read by `srd_setsS` or waits by `srd_parks`; the queries by a case of their operand. -/
theorem systemReads : Obligations.SystemReads := by
  refine ⟨fun s d => ⟨srd_setsS rfl rfl, srd_setsS rfl rfl, srd_setsS rfl rfl, srd_setsS rfl rfl, srd_setsS rfl rfl,
    srd_setsS rfl rfl, srd_setsS rfl rfl, srd_setsS rfl rfl, srd_setsS s.readSr_fidx rfl, fun hf => ?_, fun hf r hr => ?_,
    srd_setsS s.readSr_mode rfl, srd_setsS rfl rfl, fun ha => ?_, fun ha r hr => srd_traps (State.readSr_agentOnly ha hr)⟩,
    fun s d b => ⟨time_setsS, fun h => ⟨featq_past h, physq_past h⟩, featq_word0, featq_word1, featq_agent, physq_clocks,
      physq_mig⟩⟩
  · exact ⟨srd_setsS s.readSr_mstat hf, srd_setsS rfl hf⟩
  · obtain ⟨x, hx⟩ := State.readSr_flags (s := s) hr
    exact srd_parks hx ((State.flagWait_flags hr).trans hf)
  · exact ⟨srd_setsS (State.readSr_agid ha) rfl, srd_setsS (State.readSr_fwbase ha) rfl,
      srd_setsS (State.readSr_apoll ha) rfl, srd_setsS (State.readSr_aasid ha) rfl⟩

/-! ### SWR -/

section
variable {s : State} {n : SysReg} {b : SSrc}

theorem swr_recalls (hl : s.g.isLoupe = true) : exec (.swr n b) s = .next (s.recallAt s.cur.gid).stop := by
  change execSwr n b s = _
  simp [execSwr, State.groupOnly, hl, commit, Eff.state]

/-- The register is the party's, and no flags are still to come. -/
theorem swr_setsSr {r : SysRegs} (hl : s.g.isLoupe = false) (hp : s.g.sr.put n (s.readB b) = r)
    (ha : SysReg.agentOnly n = true → s.g.isAgent = true) (hw : s.flagWait n = false) : SetsSr (.swr n b) s r := by
  subst hp
  have he : exec (.swr n b) s = commit (.ok (s.setG { s.g with sr := s.g.sr.put n (s.readB b) })) := by
    change execSwr n b s = _
    simp only [execSwr, State.groupOnly, hl, hw]
    cases ho : SysReg.agentOnly n
    · simp
    · simp [ha ho]
  rw [commit_ok_setG] at he
  exact ⟨_, he, onlyGroup_setG _ _, went_setG s _ _ rfl, by simp [Group.setEnt]⟩

theorem swr_parks (hl : s.g.isLoupe = false) (ho : SysReg.agentOnly n = false) (hw : s.flagWait n = true) :
    exec (.swr n b) s = .next (s.parkHere .flags).stop := by
  change execSwr n b s = _
  simp [execSwr, State.groupOnly, hl, ho, hw, commit, Eff.state]

theorem swr_traps (hl : s.g.isLoupe = false) (ha : s.g.isAgent = false) (ho : SysReg.agentOnly n = true) :
    Traps (.swr n b) s tEncoding := by
  change execSwr n b s = _
  simp [execSwr, State.groupOnly, hl, ho, ha, commit_trap]

end

/-! ### What a write makes of the registers -/

section
variable (r : SysRegs) (x : Word64)

theorem SysRegs.put_ejt :
    r.put .ejt x = { r with ejt := if 8 < x.toNat % 16 then 8 else BitVec.ofNat 4 x.toNat } := by
  simp [SysRegs.put, bits_zero]

theorem SysRegs.put_ejto : r.put .ejto x = { r with ejto := BitVec.ofNat 32 x.toNat } := by simp [SysRegs.put]

theorem SysRegs.put_ejst : r.put .ejst x =
    { r with act := x.getLsbD 63, recNo := BitVec.ofNat 2 (x.toNat / 2 ^ 56)
             tout := r.tout &&& ~~~ BitVec.ofNat 4 (x.toNat / 2 ^ 48) } := by
  simp [SysRegs.put, BitVec.extractLsb', Nat.shiftRight_eq_div_pow]

theorem SysRegs.put_fidx : r.put .fidx x =
    { r with fidxV := x.getLsbD 63, fidxIx := BitVec.ofNat 7 (x.toNat / 2 ^ 32), fidxPc := BitVec.ofNat 32 x.toNat } := by
  simp [SysRegs.put, BitVec.extractLsb', Nat.shiftRight_eq_div_pow]

theorem SysRegs.put_fpstat : r.put .fpstat x = { r with fpstat := r.fpstat &&& ~~~ BitVec.ofNat 5 x.toNat } := by
  simp [SysRegs.put]

theorem SysRegs.put_apoll :
    r.put .apoll x = { r with apoll := if x.toNat % 8192 < 64 then 64 else BitVec.ofNat 13 x.toNat } := by
  simp [SysRegs.put, bits_zero]

theorem SysRegs.put_aasid : r.put .aasid x = { r with aasid := BitVec.ofNat 9 x.toNat, aasidV := x.getLsbD 9 } := by
  simp [SysRegs.put]

/-- The read-only registers of a group: a write is ignored, and neither traps nor waits. -/
theorem SysRegs.put_readOnly (s : State) {n : SysReg}
    (h : n ∈ [SysReg.ctxsave, .gotb, .trapvec, .fault, .faddr, .place]) :
    r.put n x = r ∧ SysReg.agentOnly n = false ∧ s.flagWait n = false := by
  cases n <;> simp_all [SysRegs.put, SysReg.agentOnly, State.flagWait]

end

/-- Settles O8: a write is the case of `SysRegs.put` for its register, once the register is the party's and does not
wait. -/
theorem swrWrites : Obligations.SwrWrites := by
  intro s b
  refine ⟨fun hl n => swr_recalls hl, fun hl => ?_⟩
  have put {n r} := swr_setsSr (n := n) (b := b) (r := r) hl
  refine ⟨put (SysRegs.put_ejt _ _) nofun rfl, put (SysRegs.put_ejto _ _) nofun rfl, put (SysRegs.put_ejst _ _) nofun rfl,
    put (SysRegs.put_fidx _ _) nofun rfl, fun hf => ⟨put rfl nofun hf, put (SysRegs.put_fpstat _ _) nofun hf⟩,
    fun hf n hn => swr_parks hl ?_ ((State.flagWait_flags hn).trans hf), put rfl nofun rfl, fun n hn => ?_, fun ha =>
    ⟨put (SysRegs.put_apoll _ _) (fun _ => ha) rfl, put (SysRegs.put_aasid _ _) (fun _ => ha) rfl, fun n hn => ?_⟩,
    fun ha n hn => swr_traps hl ha hn⟩
  · rcases List.mem_pair.mp hn with rfl | rfl <;> rfl
  · obtain ⟨hp, ha, hw⟩ := SysRegs.put_readOnly s.g.sr (s.readB b) s hn
    exact put hp (by simp [ha]) hw
  · rcases List.mem_pair.mp hn with rfl | rfl <;> exact put rfl (fun _ => ha) rfl

end Sys2Proof.Machine
end

section
/-! PROOFS. The registers that the host and the firmware reach outside the instruction set (R7, R8, R83, R322 to R327,
R345, R360, R361, R382 to R391): where they lie, what they read, and what a write changes. -/

namespace Sys2Proof.Machine

/-! ### Words made of fields -/

/-- An address of 48 bits. -/
theorem addr48_eq (v : Word64) (k : Nat) : addr48 v k = v.toNat % 2 ^ 48 / 2 ^ k * 2 ^ k := by rw [addr48, bits_zero]

/-- A field, as a number of its own width. -/
theorem ofNat_bits (v : Word64) (lo n : Nat) : BitVec.ofNat n (bits v lo n) = BitVec.ofNat n (v.toNat / 2 ^ lo) :=
  BitVec.eq_of_toNat_eq (by simp [bits])

@[simp] theorem fieldsNat_nil : fieldsNat [] = 0 := by simp [fieldsNat]

@[simp] theorem fieldsNat_cons (f : Nat × Nat) (fs : List (Nat × Nat)) :
    fieldsNat (f :: fs) = f.2 * 2 ^ f.1 + fieldsNat fs := by simp [fieldsNat]

/-- Writing a field changes its bits and no other. -/
theorem getLsbD_putBits (old v : Word64) (lo n j : Nat) (hj : j < 64) :
    (putBits old lo n v).getLsbD j = if lo ≤ j ∧ j < lo + n then v.getLsbD j else old.getLsbD j := by
  have hm : (BitVec.ofNat 64 ((2 ^ n - 1) * 2 ^ lo)).getLsbD j = decide (lo ≤ j ∧ j < lo + n) := by
    rw [BitVec.getLsbD_ofNat, ← Nat.shiftLeft_eq, Nat.testBit_shiftLeft, Nat.testBit_two_pow_sub_one]
    simp only [hj, decide_true, Bool.true_and, ge_iff_le, ← Bool.decide_and, decide_eq_decide]
    omega
  simp only [putBits, BitVec.getLsbD_or, BitVec.getLsbD_and, BitVec.getLsbD_not, hm, hj]
  by_cases h : lo ≤ j ∧ j < lo + n <;> simp [h]

/-! ### Interfaces (R324, R325) -/

section
variable {s : State} {vi : Nat} {v : Word64}

@[simp] theorem State.iface_setIface_self (s : State) (vi : Nat) (x : Iface) : (s.setIface vi x).iface vi = x := by
  simp [State.iface, State.setIface]

theorem State.writeIface_eq {f : Iface → Iface} {x : Iface} (hv : vi < 256) (h : f (s.iface vi) = x) :
    s.writeIface vi f = .next (s.setIface vi x) := by simp [State.writeIface, hv, h]

/-- Every value of rcmd that is no command is refused with ERR. -/
theorem State.writeRcmd_refused (h1 : v ≠ 1)
    (h : v.toNat % 2 ^ 16 ≠ 2 ∧ v.toNat % 2 ^ 16 ≠ 3 ∨ 2 ^ 28 ≤ v.toNat) :
    s.writeRcmd vi v = s.setIface vi { s.iface vi with rerr := true } := by
  have h2 : ¬(bits v 0 16 = 2 ∧ bits v 16 48 < 4096) := by unfold bits; omega
  have h3 : ¬(bits v 0 16 = 3 ∧ bits v 16 48 < 4096) := by unfold bits; omega
  simp only [State.writeRcmd, h1, h2, h3, if_false, State.ringRefuse, Bool.or_false]

theorem State.writeRcmd_create : s.writeRcmd vi 1 = s.createRing vi := by
  simp only [State.writeRcmd, if_true]

theorem State.writeRcmd_destroy {m : Nat} (hm : m < 4096) (h : v.toNat = 2 + m * 2 ^ 16) :
    s.writeRcmd vi v = s.destroyRing vi m := by
  have h1 : v ≠ 1 := fun h1 => by simp [h1] at h; omega
  have h2 : bits v 0 16 = 2 ∧ bits v 16 48 = m := by unfold bits; omega
  simp only [State.writeRcmd, h1, h2, hm, and_self, if_false, if_true]

theorem State.writeRcmd_restart {m : Nat} (hm : m < 4096) (h : v.toNat = 3 + m * 2 ^ 16) :
    s.writeRcmd vi v = s.postRestart vi m := by
  have h1 : v ≠ 1 := fun h1 => by simp [h1] at h; omega
  have h3 : bits v 0 16 = 3 ∧ bits v 16 48 = m := by unfold bits; omega
  simp only [State.writeRcmd, h1, h3, hm, Nat.reduceEqDiff, false_and, and_self, if_false, if_true]

end

/-! ### Queues (R326, R327) -/

section
variable {s : State} {vi q : Nat} {v : Word64}

@[simp] theorem State.queue_setQueue_self (s : State) (vi q : Nat) (x : Queue) : (s.setQueue vi q x).queue vi q = x := by
  simp [State.queue, State.setQueue]

theorem State.atQueue_eq {t u : State} (hv : vi < 256) (hq : q < 32) (h : t = u) : s.atQueue vi q t = .next u := by
  simp [State.atQueue, hv, hq, h]

theorem State.setDisabled_of_disabled (h : (s.queue vi q).st = .disabled) (f : Queue → Queue) :
    s.setDisabled vi q f = s.setQueue vi q (f (s.queue vi q)) := by simp [State.setDisabled, h]

theorem State.setDisabled_of_not_disabled (h : (s.queue vi q).st ≠ .disabled) (f : Queue → Queue) :
    s.setDisabled vi q f = s := by simp [State.setDisabled, h]

/-- CMD 1 acts on a disabled queue only. -/
theorem State.enableQueue_of_not_disabled (h : (s.queue vi q).st ≠ .disabled) : s.enableQueue vi q = s := by
  simp [State.enableQueue, h]

/-- CMD 2 does nothing to a disabled queue. -/
theorem State.resetQueue_of_disabled (h : (s.queue vi q).st = .disabled) : s.resetQueue vi q = s := by
  simp [State.resetQueue, h]

@[simp] theorem Queue.st_setCtl (x : Queue) (v : Word64) : (x.setCtl v).st = x.st := by
  unfold Queue.setCtl; dsimp only; split <;> rfl

theorem Queue.setCtl_of_disabled {x : Queue} (h : x.st = .disabled) : x.setCtl v =
    { x with vec := BitVec.ofNat 5 (v.toNat / 2 ^ 16), lsize := min 12 (v.toNat / 2 ^ 12 % 16), cls := v.getLsbD 8 } := by
  simp only [Queue.setCtl, h, if_true, ofNat_bits]
  rfl

theorem Queue.setCtl_of_not_disabled {x : Queue} (h : x.st ≠ .disabled) :
    x.setCtl v = { x with vec := BitVec.ofNat 5 (v.toNat / 2 ^ 16) } := by
  simp only [Queue.setCtl, h, if_false, ofNat_bits]

/-- A write of qctl to a disabled queue whose command is not 1 sets its fields. -/
theorem State.writeQctl_of_disabled (h : (s.queue vi q).st = .disabled) (hc : v.toNat % 4 ≠ 1) :
    s.writeQctl vi q v = s.setQueue vi q ((s.queue vi q).setCtl v) := by
  have h1 : bits v 0 2 ≠ 1 := by rwa [bits_zero]
  simp [State.writeQctl, h1, State.resetQueue_of_disabled, h]

/-- A write of qctl to any other queue whose command is not 2 sets its fields. -/
theorem State.writeQctl_of_not_disabled (h : (s.queue vi q).st ≠ .disabled) (hc : v.toNat % 4 ≠ 2) :
    s.writeQctl vi q v = s.setQueue vi q ((s.queue vi q).setCtl v) := by
  have h2 : bits v 0 2 ≠ 2 := by rwa [bits_zero]
  simp [State.writeQctl, h2, State.enableQueue_of_not_disabled, h]

end

/-! ### Contexts (R361) -/

section
variable {s : State} {vi n w : Nat} {v : Word64}

theorem Ctx.setField_of_not_free {c : Ctx} (h : c.cstate ≠ .free) : c.setField w v = c := by
  simp [Ctx.setField, h]

/-- The words that hold neither CMD nor FLTRD are set and nothing follows. -/
theorem State.writeCtx_eq (h0 : w ≠ 0) (h11 : w ≠ 11) :
    s.writeCtx vi n w v = s.setCtx vi n (((s.ctx vi n).setField w v).setLive w v) := by
  simp [State.writeCtx, h0, h11]

/-- Word 0 without a command. -/
theorem State.writeCtx_noCommand (h : v.toNat / 2 ^ 32 % 16 = 0) :
    s.writeCtx vi n 0 v = s.setCtx vi n (((s.ctx vi n).setField 0 v).setLive 0 v) := by
  have hb : bits v 32 4 = 0 := h
  simp [State.writeCtx, hb, State.ctxCommand]

theorem Ctx.setLive_word0 (c : Ctx) : c.setLive 0 v =
    { c with debug := v.getLsbD 16, hold := v.getLsbD 17, vec := BitVec.ofNat 5 (v.toNat / 2 ^ 18) } := by
  have hvec : (v >>> 18).truncate 5 = BitVec.ofNat 5 (v.toNat / 2 ^ 18) := by
    apply BitVec.eq_of_toNat_eq; simp [Nat.shiftRight_eq_div_pow]
  simp only [Ctx.setLive, hvec]

/-- A context that is not free keeps the fields that its driver set. -/
theorem State.writeCtx_of_not_free (h : (s.ctx vi n).cstate ≠ .free) (hw : w ∈ [2, 3, 4, 5, 6, 7, 12]) :
    s.writeCtx vi n w v = s.setCtx vi n (s.ctx vi n) := by
  have hl : ∀ c : Ctx, c.setLive w v = c := fun c => by fin_cases hw <;> rfl
  rw [State.writeCtx_eq (by rintro rfl; simp at hw) (by rintro rfl; simp at hw), Ctx.setField_of_not_free h, hl]

end

/-! ### Transcode windows (R83) -/

section
variable {s : State} {win : Nat} {v : Word64}

theorem State.windowFlush_of_not_busy (h : (s.win.get Window.reset win).busy = false) : s.windowFlush win = s := by
  simp [State.windowFlush, h]

theorem State.writeWin_of_en (h : (s.win.get Window.reset win).en = true) (f : Window → Window) : s.writeWin win f = s := by
  simp [State.writeWin, h]

theorem State.writeWin_of_idle (he : (s.win.get Window.reset win).en = false)
    (hb : (s.win.get Window.reset win).busy = false) (f : Window → Window) :
    s.writeWin win f = { s with win := s.win.set Window.reset win (f (s.win.get Window.reset win)) } := by
  simp [State.writeWin, he, State.windowFlush_of_not_busy hb, Store.upd]

theorem State.atWin_eq {st n : Nat} {f : Window → Window} {u : State} (hst : st < 4) (hn : n < 16)
    (h : s.writeWin (16 * st + n) f = u) : s.atWin st n f = .next u := by simp [State.atWin, hst, hn, h]

theorem State.writeTwctl_enable_of_en (he : (s.win.get Window.reset win).en = true) (hv : v.getLsbD 0 = true) :
    s.writeTwctl win v = .next s := by
  simp [State.writeTwctl, State.writeWin_of_en he, hv, execTwctlEnable, he]

theorem State.writeTwctl_disable_of_en (he : (s.win.get Window.reset win).en = true) (hv : v.getLsbD 0 = false) :
    s.writeTwctl win v = .next { s with
      win := s.win.set Window.reset win { s.win.get Window.reset win with en := false, busy := true } } := by
  simp only [State.writeTwctl, State.writeWin_of_en he, hv, Bool.false_eq_true, if_false, execTwctlDisable, he, if_true]

theorem State.writeTwctl_of_idle (he : (s.win.get Window.reset win).en = false)
    (hb : (s.win.get Window.reset win).busy = false) (hv : v.getLsbD 0 = false) :
    s.writeTwctl win v = .next { s with
      win := s.win.set Window.reset win { s.win.get Window.reset win with blen := v.getLsbD 2, fmt := v.getLsbD 1 } } := by
  simp only [State.writeTwctl, State.writeWin_of_idle he hb, hv, Bool.false_eq_true, if_false, execTwctlDisable,
    Store.get_set_self, he]

end

/-! ### Partitions, the firmware's structures, agents (R323, R341, R342, R345) -/

section
variable {s : State} {vi : Nat} {v : Word64}

theorem State.noQueue_iff : s.noQueue vi = true ↔ ∀ j < 32, (s.queue vi j).st = .disabled := by
  simp [State.noQueue]

theorem State.noQueue_eq_false (h : ∃ j < 32, (s.queue vi j).st ≠ .disabled) : s.noQueue vi = false := by
  obtain ⟨j, hj, hd⟩ := h
  exact Bool.eq_false_iff.mpr fun hn => hd (State.noQueue_iff.mp hn j hj)

/-- A package without groups has no agents to tell. -/
theorem State.tellAgents_of_no_groups (h : s.groups = []) : s.tellAgents = s := by
  cases s; simp_all [State.tellAgents]

/-- With no other interface in the way, no entry of another is found. -/
theorem any_other_iface (hi : ∀ p ∈ s.ifaces, p.1 = vi) (f : Nat × Iface → Bool) :
    (s.ifaces.any fun c => c.1 != vi && f c) = false := by
  rw [List.any_eq_false]
  intro c hc
  simp [hi c hc]

theorem State.setPartition_alone (hg : s.groups = []) (hq : ∀ j < 32, (s.queue vi j).st = .disabled)
    (hi : ∀ p ∈ s.ifaces, p.1 = vi) : s.setPartition vi v =
      s.setIface vi { s.iface vi with clus := (List.range 64).filter fun k => v.getLsbD k } := by
  simp only [State.setPartition, State.noQueue_iff.mpr hq, any_other_iface hi, if_true, Bool.not_false, Bool.and_true]
  exact State.tellAgents_of_no_groups hg

theorem State.setAsids_alone (hq : ∀ j < 32, (s.queue vi j).st = .disabled) (hi : ∀ p ∈ s.ifaces, p.1 = vi) :
    s.setAsids vi v = if v.toNat % 2 ^ 16 + v.toNat / 2 ^ 16 % 2 ^ 16 ≤ 512
      then s.setIface vi { s.iface vi with asidBase := v.toNat % 2 ^ 16, asidCount := v.toNat / 2 ^ 16 % 2 ^ 16 }
      else s := by
  simp [State.setAsids, State.noQueue_iff.mpr hq, any_other_iface hi, bits]

theorem State.setPartition_of_enabled (h : ∃ j < 32, (s.queue vi j).st ≠ .disabled) : s.setPartition vi v = s := by
  simp [State.setPartition, State.noQueue_eq_false h]

theorem State.setAsids_of_enabled (h : ∃ j < 32, (s.queue vi j).st ≠ .disabled) : s.setAsids vi v = s := by
  simp [State.setAsids, State.noQueue_eq_false h]

theorem State.setFwRegion_eq (hg : s.groups = []) (hc : canonical (v &&& ~~~ 0xFFF) = true) (hv : v.getLsbD 56 = true) :
    s.setFwRegion vi v = s.setIface vi { s.iface vi with fwbase := v &&& ~~~ 0xFFF } := by
  have hb : (v &&& ~~~ (0xFFF : Word64)).getLsbD 56 = true := by simp [hv]
  simp only [State.setFwRegion, hc, hb, Bool.and_self, if_true]
  exact State.tellAgents_of_no_groups hg

theorem State.setCtxTab_eq (hc : canonical (v &&& ~~~ 0xFFF) = true) (hv : v.getLsbD 56 = true) :
    s.setCtxTab vi v = s.setIface vi { s.iface vi with ctxTab := v &&& ~~~ 0xFFF } := by
  have hb : (v &&& ~~~ (0xFFF : Word64)).getLsbD 56 = true := by simp [hv]
  simp only [State.setCtxTab, hc, hb, Bool.and_self, if_true]

end

/-! ### Keys, dies, occupancy, pools (R142, R345, R388, R391) -/

section
variable {s : State} {v : Word64}

theorem State.writeKeyctl_noCommand (h : v.toNat / 2 ^ 16 % 4 = 0) :
    s.writeKeyctl v = { s with keyr := { s.keyr with asid := BitVec.ofNat 9 v.toNat } } := by
  have hb : bits v 16 2 = 0 := h
  simp [State.writeKeyctl, hb]

theorem State.writeDqctl_noCommand {d : Nat} (h : v.toNat % 4 = 0) :
    s.writeDqctl d v = s.setDq d { s.dq d with dline := max 1 (v.toNat / 2 ^ 32 % 2 ^ 16) } := by
  have hb : bits v 0 2 = 0 := by rwa [bits_zero]
  simp only [State.writeDqctl, hb]
  rfl

/-- Firmware writes the upper seven bits of an occupancy word; hardware keeps the others. -/
theorem registerWrite_occupancy {c : Nat} (hc : c < 512) :
    ∃ t, exec (.registerWrite (.occupancy c) v) s = .next t ∧ t = { s with occ := t.occ } ∧ ∀ j < 64,
      (t.occOf c).getLsbD j = if 57 ≤ j then v.getLsbD j else (s.occOf c).getLsbD j := by
  refine ⟨_, congrArg Host.Outcome.next (if_pos hc), rfl, fun j hj => ?_⟩
  have hb : (57 ≤ j ∧ j < 57 + 7) = (57 ≤ j) := by simpa using fun _ => hj
  simp only [State.occOf, Store.get_set_self, getLsbD_putBits _ _ _ _ _ hj, hb]

/-- Membership of one element of a list as a flag says. -/
theorem mem_filter_ne_append {α : Type} [DecidableEq α] [BEq α] [LawfulBEq α] (l : List α) (a p : α) (b : Bool) :
    p ∈ l.filter (· != a) ++ (if b then [a] else []) ↔ if p = a then b = true else p ∈ l := by
  by_cases hp : p = a <;> cases b <;> simp [hp]

theorem registerWrite_lpool (asid : Nat) :
    ∃ t, exec (.registerWrite (.lpool asid) v) s = .next t ∧ t = { s with pools := t.pools } ∧
      ∀ p, p ∈ t.pools ↔ if p = (asid, v &&& ~~~ 1) then v.getLsbD 0 = true else p ∈ s.pools :=
  ⟨_, rfl, rfl, fun p => mem_filter_ne_append _ _ p _⟩

theorem fwRoot_bits : bits v 12 52 * 4096 = v.toNat / 2 ^ 12 * 2 ^ 12 := by
  have := v.isLt
  unfold bits
  omega

end

/-! ### The write -/

section
variable {s u : State} {vi q n w d st : Nat} {v : Word64}

theorem registerWrite_rcmd (hv : vi < 256) (h : s.writeRcmd vi v = u) :
    exec (.registerWrite (.rcmd vi) v) s = .next u := congrArg Host.Outcome.next ((if_pos hv).trans h)

theorem registerWrite_ctxWord (hv : vi < 256) (hn : n < 256) (h : s.writeCtx vi n w v = u) :
    exec (.registerWrite (.ctxWord vi n w) v) s = .next u := congrArg Host.Outcome.next ((if_pos ⟨hv, hn⟩).trans h)

theorem registerWrite_twctl (hst : st < 4) (hq : q < 16) :
    exec (.registerWrite (.twctl st q) v) s = s.writeTwctl (16 * st + q) v := if_pos ⟨hst, hq⟩

theorem registerWrite_dqctl (hd : d < 8) (h : s.writeDqctl d v = u) :
    exec (.registerWrite (.dqctl d) v) s = .next u := congrArg Host.Outcome.next ((if_pos hd).trans h)

theorem registerWrite_partition (hv : vi < 256) (h : s.setPartition vi v = u) :
    exec (.registerWrite (.partition 0 vi) v) s = .next u := congrArg Host.Outcome.next ((if_pos ⟨rfl, hv⟩).trans h)

theorem registerWrite_asidRange (hv : vi < 256) (h : s.setAsids vi v = u) :
    exec (.registerWrite (.asidRange 0 vi) v) s = .next u := congrArg Host.Outcome.next ((if_pos ⟨rfl, hv⟩).trans h)

theorem registerWrite_fwRegion (hv : vi < 256) (h : s.setFwRegion vi v = u) :
    exec (.registerWrite (.fwRegion vi) v) s = .next u := congrArg Host.Outcome.next ((if_pos hv).trans h)

theorem registerWrite_ctxTable (hv : vi < 256) (h : s.setCtxTab vi v = u) :
    exec (.registerWrite (.ctxTable vi) v) s = .next u := congrArg Host.Outcome.next ((if_pos hv).trans h)

theorem registerWrite_fwRoot :
    exec (.registerWrite .fwRoot v) s = .next { s with fwRoot := v.toNat / 2 ^ 12 * 2 ^ 12 } :=
  congrArg (fun a => Host.Outcome.next ({ s with fwRoot := a } : State)) fwRoot_bits

/-- A virtual interface's accesses to a partition change nothing and read 0. -/
theorem partition_of_virtual {b : Nat} (hb : b ≠ 0) :
    exec (.registerWrite (.partition b vi) v) s = .next s ∧ exec (.registerWrite (.asidRange b vi) v) s = .next s ∧
      s.hostRead (.partition b vi) = 0 ∧ s.hostRead (.asidRange b vi) = 0 :=
  ⟨congrArg _ (if_neg fun h => hb h.1), congrArg _ (if_neg fun h => hb h.1), if_neg hb, if_neg hb⟩

/-- A partition, where no queue is enabled, no other interface has clusters and no agent is told. -/
theorem registerWrite_partition_alone (hv : vi < 256) (hg : s.groups = [])
    (hq : ∀ j, (s.queue vi j).st = .disabled) (hi : ∀ p ∈ s.ifaces, p.1 = vi) :
    ∃ t, exec (.registerWrite (.partition 0 vi) v) s = .next t ∧ t = { s with ifaces := t.ifaces } ∧
      ∀ j, j ∈ (t.iface vi).clus ↔ j < 64 ∧ v.getLsbD j = true :=
  ⟨_, registerWrite_partition hv (State.setPartition_alone hg (fun j _ => hq j) hi), rfl, fun j => by simp⟩

/-- A write of the partition registers sets what it stands for (log entry 19). -/
theorem registerWrite_part_none {off : Nat} (h : Config.partSet off v = none) :
    exec (.registerWrite (.part 0 off) v) s = .next s := by
  change Host.Outcome.next (s.writePart off v) = _
  simp [State.writePart, h]

theorem registerWrite_part_partition {off i : Nat} {p : Word64} (hi : i < 256)
    (h : Config.partSet off v = some (false, i, p)) :
    exec (.registerWrite (.part 0 off) v) s = exec (.registerWrite (.partition 0 i) p) s := by
  rw [registerWrite_partition hi rfl]
  change Host.Outcome.next (s.writePart off v) = _
  simp [State.writePart, h, Nat.not_le.mpr hi]

theorem registerWrite_part_asids {off i : Nat} {p : Word64} (hi : i < 256)
    (h : Config.partSet off v = some (true, i, p)) :
    exec (.registerWrite (.part 0 off) v) s = exec (.registerWrite (.asidRange 0 i) p) s := by
  rw [registerWrite_asidRange hi rfl]
  change Host.Outcome.next (s.writePart off v) = _
  simp [State.writePart, h, Nat.not_le.mpr hi]

theorem registerWrite_readOnly {off : Nat} {r : HostReg}
    (h : r ∈ [HostReg.viinfo vi, .qrd vi q, .rdymap, .rdyfail, .hbmcfg, .other off]) :
    exec (.registerWrite r v) s = .next s := by
  fin_cases h <;> rfl

end

/-! ### What the registers read -/

section
variable (s : State) (vi q n st d : Nat)

theorem hostRead_asidRange : s.hostRead (.asidRange 0 vi) =
    BitVec.ofNat 64 ((s.iface vi).asidBase + (s.iface vi).asidCount * 2 ^ 16) := by
  simp [State.hostRead, Iface.asidWord, fieldsWord]

theorem hostRead_viinfo : s.hostRead (.viinfo vi) = BitVec.ofNat 64 (vi + 8 * (s.iface vi).clus.length * 2 ^ 16 +
    (s.iface vi).asidBase * 2 ^ 32 + (s.iface vi).asidCount * 2 ^ 41) := by
  simp [State.hostRead, Iface.infoWord, Iface.cores, fieldsWord, add_assoc]

theorem hostRead_vistat : s.hostRead (.vistat vi) =
    BitVec.ofNat 64 ((s.iface vi).ufl.toNat + (s.iface vi).rfl.toNat * 2 + (s.iface vi).dfl.toNat * 4) := by
  simp [State.hostRead, Iface.statWord, fieldsWord, ofBool_eq_toNat, add_assoc]

theorem hostRead_rcmd : s.hostRead (.rcmd vi) = BitVec.ofNat 64
    ((s.iface vi).rlast.toNat + (s.iface vi).rerr.toNat * 2 ^ 30 + (s.iface vi).rbusy.toNat * 2 ^ 31) := by
  simp [State.hostRead, Iface.rcmdWord, fieldsWord, ofBool_eq_toNat, add_assoc]

theorem hostRead_qctl : s.hostRead (.qctl vi q) = BitVec.ofNat 64 ((s.queue vi q).st.num * 2 ^ 4 +
    (s.queue vi q).cls.toNat * 2 ^ 8 + (s.queue vi q).lsize * 2 ^ 12 + (s.queue vi q).vec.toNat * 2 ^ 16 +
    (s.queue vi q).ecode.toNat * 2 ^ 24) := by
  simp [State.hostRead, Queue.ctlWord, fieldsWord, ofBool_eq_toNat, add_assoc]

theorem hostRead_qctx :
    s.hostRead (.qctx vi q) = BitVec.ofNat 64 ((s.queue vi q).asid + (s.queue vi q).ctxn * 2 ^ 16) := by
  simp [State.hostRead, Queue.ctxWord, fieldsWord]

theorem hostRead_qwr : s.hostRead (.qwr vi q) = BitVec.ofNat 64 (s.queue vi q).wr.toNat := (BitVec.ofNat_toNat _ _).symm

theorem hostRead_qrd : s.hostRead (.qrd vi q) = BitVec.ofNat 64 (s.queue vi q).rd.toNat := (BitVec.ofNat_toNat _ _).symm

theorem hostRead_qdl : s.hostRead (.qdl vi q) = BitVec.ofNat 64 (s.queue vi q).dl := by
  simp [State.hostRead, fieldsWord]

theorem hostRead_qres : s.hostRead (.qres vi q) = BitVec.ofNat 64 (s.queue vi q).res := by
  simp [State.hostRead, fieldsWord]

theorem Ctx.word_control (c : Ctx) : c.word 0 = BitVec.ofNat 64 (c.asid.toNat + c.cstate.num * 2 ^ 9 +
    (Ctx.debug c).toNat * 2 ^ 16 + c.hold.toNat * 2 ^ 17 + c.vec.toNat * 2 ^ 18 + c.busy.toNat * 2 ^ 36 + c.err.toNat * 2 ^ 37 +
    c.endc.toNat * 2 ^ 48) := by
  simp [Ctx.word, fieldsWord, ofBool_eq_toNat, add_assoc]

theorem Ctx.word_faultIndices (c : Ctx) : c.word 11 = BitVec.ofNat 64 (c.fltrd.toNat + c.fltwr.toNat * 2 ^ 32) := by
  simp [Ctx.word, fieldsWord]

theorem Ctx.word_reserved (c : Ctx) {w : Nat} (h : 12 < w) : c.word w = 0 :=
  match w, h with
  | _ + 13, _ => rfl

theorem hostRead_twctl : s.hostRead (.twctl st q) =
    let w := s.win.get Window.reset (16 * st + q)
    BitVec.ofNat 64 (w.en.toNat + w.fmt.toNat * 2 + w.blen.toNat * 4 + w.err.toNat * 2 ^ 30 + w.busy.toNat * 2 ^ 31) := by
  simp [State.hostRead, Window.ctlWord, fieldsWord, ofBool_eq_toNat, add_assoc]

theorem hostRead_keyctl : s.hostRead .keyctl = BitVec.ofNat 64 (s.keyr.asid.toNat +
    (s.keys.get Key.none s.keyr.asid.toNat).valid.toNat * 2 ^ 9 + s.keyr.err.toNat * 2 ^ 62 +
    s.keyr.busy.isSome.toNat * 2 ^ 63) := by
  simp [State.hostRead, State.keyctlWord, State.hasKey, fieldsWord, ofBool_eq_toNat, add_assoc]

theorem hostRead_dqctl : s.hostRead (.dqctl d) = BitVec.ofNat 64 ((s.dq d).st.num * 2 ^ 4 + (s.dq d).dline * 2 ^ 32 +
    (s.dq d).forced.toNat * 2 ^ 62 + (s.dq d).busy.toNat * 2 ^ 63) := by
  simp [State.hostRead, Dq.word, fieldsWord, ofBool_eq_toNat, add_assoc]

theorem hostRead_hbmcfg : s.hostRead .hbmcfg = BitVec.ofNat 64 s.hbmFine.toNat := by
  simp [State.hostRead, fieldsWord, ofBool_eq_toNat]

end

/-! ### Where the registers lie -/

theorem windowReg_qdl {q : Nat} (vi : Nat) (hq : q < 32) : windowReg vi (0x1000 + 0x40 * q + 0x28) = .qdl vi q := by
  have hpart : ¬(0x100 ≤ 0x1000 + 0x40 * q + 0x28 ∧ 0x1000 + 0x40 * q + 0x28 < 0x200) := by omega
  have hqueue : 0x1000 ≤ 0x1000 + 0x40 * q + 0x28 ∧ 0x1000 + 0x40 * q + 0x28 < 0x1800 := by omega
  have hreg : (0x1000 + 0x40 * q + 0x28) % 0x40 = 0x28 := by omega
  have hnum : (0x1000 + 0x40 * q + 0x28 - 0x1000) / 0x40 = q := by omega
  simp only [windowReg, if_neg hpart, if_pos hqueue, hreg, hnum]

theorem tableReg_word1 {n : Nat} (vi : Nat) (hn : n < 256) : tableReg vi (256 * n + 8) = .ctxWord vi n 1 := by
  have hin : 256 * n + 8 < 0x10000 ∧ (256 * n + 8) % 8 = 0 := by omega
  have hent : (256 * n + 8) / 256 = n := by omega
  have hword : (256 * n + 8) % 256 / 8 = 1 := by omega
  rw [tableReg, if_pos hin, hent, hword]

theorem manageReg_dqctl {d : Nat} (hd : d < 8) : manageReg 0 (0x40 + 8 * d) = .dqctl d := by
  interval_cases d <;> rfl

/-- Settles O55: each register's write by the lemma about its operation, each read by the sum of its fields. -/
theorem registerWrites : Obligations.RegisterWrites := by
  intro s vi q n st d c off asid v hv hq hn
  refine ⟨State.writeIface_eq (f := fun x => x.clearStat v) hv rfl,
    State.writeIface_eq (f := fun x => { x with rbase := v }) hv rfl,
    State.writeIface_eq (f := fun x => { x with rcfg := v &&& 0x1FF3FFF }) hv rfl, ?rcmd1, fun m hm =>
    ⟨fun h => registerWrite_rcmd hv (State.writeRcmd_destroy hm h),
      fun h => registerWrite_rcmd hv (State.writeRcmd_restart hm h)⟩,
    fun h1 h => registerWrite_rcmd hv (State.writeRcmd_refused h1 h), State.atQueue_eq hv hq (if_pos hq).symm,
    State.atQueue_eq hv hq (if_pos hq).symm, fun h => ?qDisabled, fun h => ?qOther, ?qdl, fun h => ?ctxFree,
    fun h => ?ctxOther, fun hst hq he => ?winEn, fun hst hq he hb => ?winIdle, fun hst hq he => ?twctlEn,
    fun h => congrArg _ (State.writeKeyctl_noCommand h), rfl, rfl,
    fun hd h => registerWrite_dqctl hd (State.writeDqctl_noCommand h), registerWrite_occupancy,
    registerWrite_partition_alone hv,
    fun h => ⟨registerWrite_partition hv (State.setPartition_of_enabled h),
      registerWrite_asidRange hv (State.setAsids_of_enabled h)⟩, fun hd hi => ?asids,
    fun hg hc h => registerWrite_fwRegion hv (State.setFwRegion_eq hg hc h),
    fun hc h => registerWrite_ctxTable hv (State.setCtxTab_eq hc h), registerWrite_fwRoot, registerWrite_lpool asid,
    fun r => registerWrite_readOnly, fun h => congrArg _ (if_neg h), registerWrite_part_none,
    fun i hi p => ⟨registerWrite_part_partition hi, registerWrite_part_asids hi⟩, fun b => partition_of_virtual,
    hostRead_asidRange s vi, hostRead_viinfo s vi, hostRead_vistat s vi, hostRead_rcmd s vi, rfl, rfl,
    hostRead_qctl s vi q, rfl, hostRead_qctx s vi q, hostRead_qwr s vi q, hostRead_qrd s vi q, hostRead_qdl s vi q, rfl,
    hostRead_qres s vi q, Ctx.word_control _, Ctx.word_faultIndices _, fun k hk => Ctx.word_reserved _ hk,
    hostRead_twctl s q st, hostRead_keyctl s, hostRead_dqctl s d, rfl, rfl, hostRead_hbmcfg s, fun h => if_neg h, rfl,
    windowReg_qdl vi hq, rfl, tableReg_word1 vi hn, manageReg_dqctl, fun h => if_pos h⟩
  case rcmd1 =>
    rintro rfl
    exact registerWrite_rcmd hv State.writeRcmd_create
  case qDisabled =>
    have hset {f : Queue → Queue} {y : Queue} (hf : f (s.queue vi q) = y) :=
      State.atQueue_eq (s := s) hv hq ((State.setDisabled_of_disabled h f).trans (congrArg _ hf))
    exact ⟨hset rfl, hset (by rw [bits_zero]; rfl), hset (by rw [bits_zero]; rfl), fun hc => State.atQueue_eq hv hq
      ((State.writeQctl_of_disabled h hc).trans (congrArg _ (Queue.setCtl_of_disabled h)))⟩
  case qOther =>
    refine ⟨fun r hr => ?_, fun hc => State.atQueue_eq hv hq
      ((State.writeQctl_of_not_disabled h hc).trans (congrArg _ (Queue.setCtl_of_not_disabled h)))⟩
    have hkeep (f : Queue → Queue) := State.atQueue_eq (s := s) hv hq (State.setDisabled_of_not_disabled h f)
    fin_cases hr
    · exact hkeep _
    · exact hkeep _
    · exact hkeep _
  case qdl => exact State.atQueue_eq hv hq (by rw [bits_zero])
  case ctxFree =>
    have hset {w : Nat} {z : Ctx} (hw : w ≠ 0 ∧ w ≠ 11) (hz : ((s.ctx vi n).setField w v).setLive w v = z) :=
      registerWrite_ctxWord hv hn ((State.writeCtx_eq hw.1 hw.2).trans (congrArg (s.setCtx vi n) hz))
    refine ⟨hset (by decide) ?_, hset (by decide) ?_, hset (by decide) ?_, hset (by decide) ?_, hset (by decide) ?_,
      hset (by decide) ?_⟩ <;> simp [Ctx.setField, h, Ctx.setLive]
  case ctxOther =>
    refine ⟨fun k hk => registerWrite_ctxWord hv hn (State.writeCtx_of_not_free h hk), fun hc =>
      registerWrite_ctxWord hv hn ((State.writeCtx_noCommand hc).trans ?_)⟩
    rw [Ctx.setField_of_not_free h, Ctx.setLive_word0]
  case winEn =>
    intro r hr
    have hkeep (f : Window → Window) := State.atWin_eq (f := f) hst hq (State.writeWin_of_en he f)
    fin_cases hr
    · exact hkeep _
    · exact hkeep _
    · exact hkeep _
    · exact hkeep _
  case winIdle =>
    have hset {f : Window → Window} {w : Window} (hw : f (s.win.get Window.reset (16 * st + q)) = w) :=
      State.atWin_eq hst hq ((State.writeWin_of_idle he hb f).trans (by rw [hw]))
    refine ⟨hset (by rw [addr48_eq]), hset (by rw [addr48_eq, Nat.pow_zero, Nat.div_one, Nat.mul_one]),
      hset (by rw [addr48_eq]), hset (by rw [addr48_eq]),
      fun hv => (registerWrite_twctl hst hq).trans (State.writeTwctl_of_idle he hb hv)⟩
  case twctlEn =>
    exact ⟨fun h => (registerWrite_twctl hst hq).trans (State.writeTwctl_enable_of_en he h),
      fun h => (registerWrite_twctl hst hq).trans (State.writeTwctl_disable_of_en he h)⟩
  case asids =>
    have h := State.setAsids_alone (v := v) (fun j _ => hd j) hi
    exact ⟨fun hle => registerWrite_asidRange hv (h.trans (if_pos hle)),
      fun hgt => registerWrite_asidRange hv (h.trans (if_neg (Nat.not_le.mpr hgt)))⟩

end Sys2Proof.Machine
end

section
/-! PROOFS. The state after package reset (R19, R74, R77, R83, R326, R345, R361, R391, R417). -/
namespace Sys2Proof.Machine

/-- Settles O59: every map of the reset state is empty, so that each read gives its default, a reset value of the spec. -/
theorem resetState : Obligations.ResetState := by
  refine ⟨rfl, rfl, rfl, fun _ => rfl, fun _ => rfl, fun _ => rfl, fun _ => rfl, fun _ => rfl, fun _ => ⟨rfl, rfl⟩,
    fun _ _ => ⟨rfl, rfl⟩, fun vi n => ?_, fun _ => rfl, fun _ => ⟨rfl, rfl⟩, rfl, rfl, rfl, fun _ => rfl, memWf_reset⟩
  -- numbers from 256 on name no context, and read as a free one too
  have hc : State.reset.ctx vi n = Ctx.empty := ite_self Ctx.empty
  rw [hc]
  exact ⟨rfl, rfl⟩

end Sys2Proof.Machine
end

section
/-! PROOFS. The flush of a transcode window (R86) recalls its lines from the LLC of their home stack, and from no other. -/

namespace Sys2Proof.Machine

/-- Window 0 of stack 0 over the first aperture line, being flushed, while the LLC of stack 1, which is not the line's
home, holds a copy of it. No run from reset leads here; the statement speaks of every state. -/
def strayLlcCopy : State :=
  { State.reset with
    win := [(0, { busy := true, ap := 2 ^ 39, size := 1 })]
    coh := [(copyKey (llcUnit 1) (2 ^ 32), { valid := true })] }

/-- The home of the line is stack 0, whose LLC is the only one that the recall empties. -/
theorem strayLlcCopy_stays : ((strayLlcCopy.windowFlush 0).copy (llcUnit 1) (2 ^ 32)).valid = true := by decide +kernel

/-- Refutes O41: the end of a flush leaves the copy that an LLC of another stack holds of a line of the window, where
the statement says that no unit below 84 holds one. -/
theorem not_vaultsAndWindows : ¬ Obligations.VaultsAndWindows := by
  rintro ⟨-, hwin⟩
  obtain ⟨-, -, -, -, -, hflush⟩ := hwin strayLlcCopy 0
  obtain ⟨t, ht, -, hgone, -⟩ := hflush rfl (Nat.le_refl _) (by decide)
  obtain ⟨hcopies, -⟩ := hgone (2 ^ 32) (by decide) ⟨by decide, by decide⟩
  have hstep : strayLlcCopy.windowFlush 0 = t := Host.Outcome.next.inj ht
  have hnone := hcopies (llcUnit 1) (by decide)
  rw [← hstep, strayLlcCopy_stays] at hnone
  exact absurd hnone (by decide)

end Sys2Proof.Machine
end

section
/-! PROOFS. What an entry of the log, and the end of a context, can touch, said once (R263, R337, R363, R403 to R411): a
fact that no change of the memory system, of the log, of the vaults, of the parties and of the work taken off touches is
kept by every one of their operations. -/

namespace Sys2Proof.Machine

/-- A fact that neither the memory system nor the log touches. -/
structure LogSafe (P : State → Prop) : Prop extends MemSafe P where
  log : ∀ s l, P s → P { s with log := l }

/-- A fact that no part of what a context leaves behind as it ends touches. -/
structure EndSafe (P : State → Prop) : Prop extends LogSafe P where
  tlb : ∀ s q, P s → P { s with tlb := q }
  vaults : ∀ s v o q, P s → P { s with vault := v, vown := o, vq := q }
  parties : ∀ s g b c r sg oc, P s →
    P { s with groups := g, blocks := b, cohorts := c, rings := r, savedG := sg, occ := oc }
  ctxs : ∀ s c m f, P s → P { s with ctxs := c, msix := m, frees := f }
  work : ∀ s p l st b c rl ih e q d, P s → P { s with
    pkts := p, lrecs := l, starts := st, batches := b, cohorts := c, rlists := rl, inHand := ih, ends := e, queues := q
    decs := d }

/-! ### The log (R403 to R411) -/

namespace LogSafe

variable {P : State → Prop} (h : LogSafe P) {s : State}
include h

theorem putHost (a : Nat) (bs : List Byte) (hs : P s) : P (s.putHost a bs) := h.setMemBytes _ _ (h.recallLine _ hs)

theorem mirrorEntry (e : LogEntry) (hs : P s) : P (s.mirrorEntry e) := by
  unfold State.mirrorEntry
  split
  · exact hs
  · exact h.log _ _ (h.putHost _ _ (h.putHost _ _ hs))

theorem logOne (time : Word64) (typ : BitVec 8) (loc : BitVec 16) (data : Word64) (hs : P s) :
    P (s.logOne time typ loc data) := h.mirrorEntry _ (h.log _ _ hs)

theorem logAt (time : Word64) (typ : BitVec 8) (loc : BitVec 16) (data : Word64) (hs : P s) :
    P (s.logAt time typ loc data) := by
  unfold State.logAt
  dsimp only
  split_ifs
  · exact h.log _ _ hs
  · exact h.logOne _ _ _ _ hs
  · exact h.log _ _ (h.logOne _ _ _ _ (h.log _ _ hs))
  · exact h.logOne _ _ _ _ (h.logOne _ _ _ _ (h.log _ _ hs))

theorem logNow (typ : BitVec 8) (loc : BitVec 16) (data : Word64) (hs : P s) : P (s.logNow typ loc data) :=
  h.logAt _ _ _ _ hs

theorem logBad (line asid : Nat) (hs : P s) : P (s.logBad line asid) := h.logNow _ _ _ hs

end LogSafe

/-! ### Accesses of hardware -/

theorem Xl.hw_ne_ok {α : Type} (x : Xl) (a : α) : x.hw ≠ .ok a := by cases x <;> nofun

theorem Hw.bind_eq_ok {α β : Type} {o : Hw α} {f : α → Hw β} {b : β} (h : o.bind f = .ok b) :
    ∃ a, o = .ok a ∧ f a = .ok b := by
  cases o with
  | ok a => exact ⟨a, rfl, h⟩
  | fault | wait | bad => cases h

namespace EndSafe

variable {P : State → Prop} (h : EndSafe P) {s : State}
include h

/-! ### Engine operations that a block leaves (R263, R266 to R276) -/

theorem engAt (e : Eng) (sp : Space) (va : Word64) (n : Nat) (need : Need) (hs : P s) : P (s.engAt e sp va n need).1 := by
  cases sp with
  | tile => unfold State.engAt; dsimp only; split <;> exact hs
  | vault => unfold State.engAt; dsimp only; split <;> exact hs
  | glob =>
    let b := s.block e.bid
    let c := s.ctx b.vi b.ctx
    have ht := h.translateIn h.tlb (e.unit b.pcore) b.asid c.ptroot.toNat va.toNat need (c.feat0.getLsbD 22)
      (c.feat0.getLsbD 23) hs
    unfold State.engAt
    dsimp only
    split
    next heq => rw [heq] at ht; split <;> exact ht
    next heq => rw [heq] at ht; exact ht
    next heq => rw [heq] at ht; exact ht
    next heq => rw [heq] at ht; exact ht

theorem engCheck (e : Eng) (ts : List Touch) (hs : P s) : P (State.engCheck e ts s).1 := by
  induction ts generalizing s with
  | nil => exact hs
  | cons t ts ih =>
    have ha := h.engAt e t.sp t.va t.n t.need hs
    unfold State.engCheck
    split
    next heq => rw [heq] at ha; exact ih ha
    next heq => rw [heq] at ha; exact ha

theorem putTile (b o : Nat) (bs : List Byte) (hs : P s) : P (s.putTile b o bs) := h.parties _ _ _ _ _ _ _ hs

theorem putVault (a : Nat) (bs : List Byte) (hs : P s) : P (s.putVault a bs) := h.vaults _ _ _ _ hs

theorem engGet (e : Eng) (sp : Space) (va : Word64) (n : Nat) (hs : P s) : P (s.engGet e sp va n).1 := by
  have ha := h.engAt e sp va n .load hs
  unfold State.engGet
  split
  next pa heq => rw [heq] at ha; exact h.readFrom _ _ pa n ha
  next heq => rw [heq] at ha; exact ha
  next heq => rw [heq] at ha; exact ha
  next heq => rw [heq] at ha; exact ha

theorem engPut (e : Eng) (sp : Space) (va : Word64) (n x : Nat) (hs : P s) : P (s.engPut e sp va n x) := by
  have ha := h.engAt e sp va n .store hs
  unfold State.engPut
  dsimp only
  split
  next heq =>
    rw [heq] at ha
    split
    · exact h.writeFrom _ _ _ _ _ ha
    · exact h.l1Put _ _ _ (h.writeFrom _ _ _ _ _ ha)
  next heq => rw [heq] at ha; exact h.putTile _ _ _ ha
  next heq => rw [heq] at ha; exact h.putVault _ _ ha
  next heq => rw [heq] at ha; exact ha

theorem engRmw (e : Eng) (sp : Space) (va : Word64) (n : Nat) (f : Nat → Nat) (hs : P s) : P (s.engRmw e sp va n f) := by
  have ha := h.engAt e sp va n .both hs
  unfold State.engRmw
  dsimp only
  split
  next heq =>
    rw [heq] at ha
    split
    · exact h.l1Put _ _ _ (h.rmwHome _ _ _ _ ha)
    · exact h.l1Put _ _ _ (h.atomicFrom _ _ _ _ _ _ ha)
  next heq => rw [heq] at ha; exact h.engPut _ _ _ _ _ (h.engGet _ _ _ _ ha)
  next heq => rw [heq] at ha; exact ha

theorem engGets (e : Eng) (sp : Space) (n : Nat) (as : List Word64) (hs : P s) : P (State.engGets e sp n as s).1 := by
  induction as generalizing s with
  | nil => exact hs
  | cons a t ih => exact ih (h.engGet e sp a n hs)

theorem engPuts (e : Eng) (sp : Space) (n : Nat) (xs : List (Word64 × Nat)) (hs : P s) :
    P (State.engPuts e sp n xs s) := by
  induction xs generalizing s with
  | nil => exact hs
  | cons x t ih => exact ih (h.engPut e sp x.1 n x.2 hs)

theorem zoomChain (r : ZRec) (e : Eng) (p : List Nat) (ts : List Tap) (acc : Nat) (hs : P s) :
    P (r.chain e p ts acc s).1 := by
  induction ts generalizing s acc with
  | nil => exact hs
  | cons t ts ih =>
    unfold ZRec.chain
    split
    · exact ih _ hs
    · exact ih _ hs
    · exact ih _ (h.engGet _ _ _ _ hs)

theorem zoomPoint (r : ZRec) (e : Eng) (t : List Byte) (p : List Nat) (hs : P s) : P (r.point e t s p) := by
  have hc := h.zoomChain r e p (r.taps t p) 0 hs
  unfold ZRec.point
  dsimp only
  split
  · exact h.engPut _ _ _ _ _ (h.engGet _ _ _ _ hc)
  · exact h.engPut _ _ _ _ _ hc

theorem opRun (e : Eng) (k : Nat) (op : EOp) (hs : P s) : P (op.run e k s) := by
  cases op with
  | copy | interleave | swizzle => exact h.engPuts _ _ _ _ (h.engGets _ _ _ _ hs)
  | add => exact foldl_keeps _ (fun _ _ hs => h.engRmw _ _ _ _ _ hs) _ (h.engGets _ _ _ _ hs)
  | table => exact h.parties _ _ _ _ _ _ _ hs
  | transfer bytes =>
    change P (match ZRec.parse (ofBytes bytes) with
      | none => s
      | some r => (gridPoints r.dext).foldl (r.point e (((s.block e.bid).tc.get Tc.unbound k).table r.slot)) s)
    split
    · exact hs
    · exact foldl_keeps _ (fun _ _ hs => h.zoomPoint _ _ _ _ hs) _ hs

theorem opDone (bid k num : Nat) (hs : P s) : P (s.opDone bid k num) := h.parties _ _ _ _ _ _ _ hs

theorem opAfter (bid : Nat) (op : EOp) (hs : P s) : P (op.after bid s) := by
  unfold EOp.after
  split
  · exact h.parties _ _ _ _ _ _ _ (h.drain _ _ hs)
  · exact hs

theorem tryOp (bid k : Nat) (p : EPend) (hs : P s) : P (s.tryOp bid k p).1 := by
  have hc := h.engCheck ⟨bid, ((s.block bid).tc.get Tc.unbound k).bind == .zoom⟩
    (p.op.touches ((s.block bid).tc.get Tc.unbound k)) hs
  unfold State.tryOp
  dsimp only
  split
  next heq => rw [heq] at hc; exact hc
  next heq => rw [heq] at hc; exact h.opAfter _ _ (h.opDone _ _ _ (h.opRun _ _ _ hc))

theorem runAll (bid : Nat) (hs : P s) : P (s.runAll bid) :=
  foldl_keeps _ (fun _ _ hs => foldl_keeps _ (fun _ _ hs => by
    split
    · exact h.tryOp _ _ _ hs
    · exact hs) _ hs) _ hs

/-! ### Blocks that leave the machine (R260, R263, R337) -/

theorem setGroup (gid : Nat) (g : Group) (hs : P s) : P (s.setGroup gid g) := h.parties _ _ _ _ _ _ _ hs

theorem ackVaults (gid : Nat) (hs : P s) : P (s.ackVaults gid) :=
  foldl_keeps _ (fun _ _ hs => by
    split
    · exact hs
    · exact h.putVault _ _ (h.vaults _ _ _ _ hs)) _ (h.vaults _ _ _ _ hs)

theorem dropThreads (gid : Nat) (hs : P s) : P (s.dropThreads gid) := foldl_keeps _ (fun _ _ hs => h.setGroup _ _ hs) _ hs

theorem release (b : Block) (hs : P s) : P (s.release b) := h.parties _ _ _ _ _ _ _ hs

theorem forgetRings (bid : Nat) (hs : P s) : P (s.forgetRings bid) := h.parties _ _ _ _ _ _ _ hs

theorem linger (bid : Nat) (b : Block) (hs : P s) : P (s.linger bid b) := by
  unfold State.linger
  split
  · exact h.parties _ _ _ _ _ _ _ hs
  · exact hs

/-- What a block's accesses in flight come to before it leaves. -/
theorem performed (b : Block) (bid : Nat) (ps : List Nat) (hs : P s) :
    P (if b.saved then s else (ps.foldl State.ackVaults (s.drainCore b.pcore)).runAll bid) := by
  split
  · exact hs
  · exact h.runAll _ (foldl_keeps _ (fun _ _ hs => h.ackVaults _ hs) _ (h.drainCore _ hs))

theorem released (b : Block) (hs : P s) : P (if b.saved || b.killed then s else s.release b) := by
  split
  · exact hs
  · exact h.release _ hs

theorem stopBlock (bid : Nat) (ends : Bool) (hs : P s) : P (s.stopBlock bid ends) := by
  unfold State.stopBlock
  extract_lets b
  split
  · exact hs
  · rename_i parties s1 s2 left s3 s4 _
    have h1 : P s1 := h.performed _ _ _ hs
    have h2 : P s2 := foldl_keeps _ (fun _ _ hs => h.setGroup _ _ (h.dropThreads _ hs)) _ h1
    have h4 : P s4 := h.parties _ _ _ _ _ _ _ (h.forgetRings _ (h.released _ h2))
    split
    · exact h4
    · exact h.linger _ _ h4

/-! ### Contexts that end (R363, R367, R369) -/

theorem setCtx (vi n : Nat) (c : Ctx) (hs : P s) : P (s.setCtx vi n c) := by
  unfold State.setCtx
  split
  · exact h.ctxs _ _ _ _ hs
  · exact hs

theorem ctxWriteGo (pcore : Nat) (sp : Sp) (f va : Nat) (bs : List Byte) {t : State} (hs : P s)
    (ht : Machine.ctxWriteGo pcore sp f va bs s = .ok t) : P t := by
  induction f generalizing s va bs with
  | zero => cases ht; exact hs
  | succ f ih =>
    have hx := h.translateIn h.tlb pcore sp.asid sp.root va .store sp.twin sp.tier2 hs
    unfold Machine.ctxWriteGo State.spTranslate at ht
    dsimp only at ht
    split at ht
    · cases ht; exact hs
    · split at ht
      next heq =>
        rw [heq] at hx
        split at ht
        · cases ht
        · exact ih _ _ (h.writePkg _ _ _ hx) ht
      next => exact absurd ht (Xl.hw_ne_ok _ _)

theorem ctxReadGo (pcore : Nat) (sp : Sp) (f va n : Nat) {r : State × List Byte} (hs : P s)
    (hr : Machine.ctxReadGo pcore sp f va n s = .ok r) : P r.1 := by
  induction f generalizing s va n r with
  | zero => cases hr; exact hs
  | succ f ih =>
    have hx := h.translateIn h.tlb pcore sp.asid sp.root va .load sp.twin sp.tier2 hs
    unfold Machine.ctxReadGo State.spTranslate at hr
    dsimp only at hr
    split at hr
    · cases hr; exact hs
    · split at hr
      next heq =>
        rw [heq] at hx
        split at hr
        · cases hr
        · obtain ⟨r', hr', hr⟩ := Hw.bind_eq_ok hr
          cases hr
          exact ih (r := r') _ _ (h.readPkg _ _ _ hx) hr'
      next => exact absurd hr (Xl.hw_ne_ok _ _)

theorem freeArea (pcore vi n i : Nat) {t : State} (hs : P s) (ht : s.freeArea pcore vi n i = .ok t) : P t := by
  unfold State.freeArea at ht
  dsimp only at ht
  split at ht
  · cases ht; exact h.ctxs _ _ _ _ hs
  · obtain ⟨r, hr, ht⟩ := Hw.bind_eq_ok ht
    exact h.ctxWriteGo _ _ _ _ _ (h.ctxReadGo _ _ _ _ _ hs hr) ht

theorem giveArea (pcore vi n i : Nat) (hs : P s) : P (s.giveArea pcore vi n i) := by
  unfold State.giveArea
  split
  next heq => exact h.freeArea _ _ _ _ hs heq
  · exact h.logBad _ _ hs
  · exact hs

theorem putRecord (pcore vi n : Nat) (r : List Byte) {t : State} (hs : P s) (ht : s.putRecord pcore vi n r = .ok t) :
    P t := by
  unfold State.putRecord at ht
  dsimp only at ht
  split at ht
  · cases ht; exact h.setCtx _ _ _ hs
  · split at ht
    next => cases ht; exact h.setCtx _ _ _ hs
    next u heq =>
      cases ht
      exact h.ctxs (u.setCtx vi n _) _ _ _ (h.setCtx _ _ _ (h.ctxWriteGo _ _ _ _ _ hs heq))
    next hn => exact absurd ht (hn _)

theorem failQueues (vi n : Nat) (hs : P s) : P (s.failQueues vi n) := h.work _ _ _ _ _ _ _ _ _ _ _ hs

theorem dropWork (sel : Pkt → Bool) (hs : P s) : P (s.dropWork sel) := h.work _ _ _ _ _ _ _ _ _ _ _ hs

theorem endCore (vi n : Nat) (code : BitVec 8) (hs : P s) : P (s.endCore vi n code) := by
  unfold State.endCore
  extract_lets c
  split
  · exact hs
  · rename_i s1 s2 mine s3 s4 s5 _
    have h2 : P s2 := h.failQueues _ _ (h.setCtx _ _ _ hs)
    have h3 : P s3 := foldl_keeps _ (fun _ _ hs => h.giveArea _ _ _ _ hs) _ h2
    have h4 : P s4 := foldl_keeps _ (fun _ _ hs => by
      dsimp only
      split
      · exact h.stopBlock _ _ (h.giveArea _ _ _ _ hs)
      · exact h.stopBlock _ _ hs) _ h3
    exact h.work _ _ _ _ _ _ _ _ _ _ _ (h.dropWork _ h4)

theorem endContext (vi n pcore : Nat) (code : BitVec 8) (hs : P s) : P (s.endContext vi n pcore code) := by
  have hc := h.endCore vi n code hs
  unfold State.endContext
  dsimp only
  split
  · exact hs
  · split
    next heq => exact h.putRecord _ _ _ _ hc heq
    · exact h.logBad _ _ hc
    · exact hc

theorem endAll (xs : List (Nat × Nat)) (code : BitVec 8) (hs : P s) : P (s.endAll xs code) :=
  foldl_keeps _ (fun _ _ hs => h.endContext _ _ _ _ hs) _ hs

end EndSafe

end Sys2Proof.Machine
end

section
/-! PROOFS. Functions that become ready and fail, and the bring-up of a package (R19, R20, R82, R379, R380, R383 to R386,
R394, R417). -/

namespace Sys2Proof.Machine

/-! ### Bits of the readiness bitmap (R383) -/

theorem Func.bit_lt (f : Func) : Func.bit f < 64 := by
  cases f <;> simp only [Func.bit] <;> omega

theorem getLsbD_oneBit (k : Nat) {j : Nat} (hj : j < 64) : (1#64 <<< k).getLsbD j = decide (j = k) := by
  simp only [BitVec.getLsbD_shiftLeft, hj, BitVec.getLsbD_one]
  by_cases h : j = k
  · simp [h]
  · by_cases hlt : j < k
    · simp [h, hlt]
    · have : j - k ≠ 0 := by omega
      simp [h, this]

theorem getLsbD_setBit (x : Word64) (k : Nat) {j : Nat} (hj : j < 64) :
    (x ||| 1#64 <<< k).getLsbD j = (x.getLsbD j || decide (j = k)) := by
  rw [BitVec.getLsbD_or, getLsbD_oneBit k hj]

theorem getLsbD_clearBit (x : Word64) (k : Nat) {j : Nat} (hj : j < 64) :
    (x &&& ~~~ (1#64 <<< k)).getLsbD j = (x.getLsbD j && !decide (j = k)) := by
  rw [BitVec.getLsbD_and, BitVec.getLsbD_not, getLsbD_oneBit k hj]
  simp [hj]

/-- Clearing a bit that is clear changes nothing. -/
theorem clearBit_of_clear {x : Word64} {k : Nat} (h : x.getLsbD k = false) : x &&& ~~~ (1#64 <<< k) = x := by
  apply BitVec.eq_of_getLsbD_eq
  intro j hj
  rw [getLsbD_clearBit x k hj]
  by_cases hk : j = k
  · simp [hk, h]
  · simp [hk]

/-! ### Functions that become ready (R19, R384, R386) -/

section
variable {s : State} {f : Func}

theorem State.setReady_of_sound (h : s.rdyfail.getLsbD (Func.bit f) = false) :
    s.setReady f = { s with rdymap := s.rdymap ||| 1#64 <<< Func.bit f } := by simp [State.setReady, h]

theorem State.setReady_of_failed (h : s.rdyfail.getLsbD (Func.bit f) = true) : s.setReady f = s := by
  simp [State.setReady, h]

/-- Loading a die's time changes the time counters alone. -/
theorem State.loadTime_eq (s : State) (f : Func) : s.loadTime f = { s with times := (s.loadTime f).times } := by
  cases f with
  | die d => simp only [State.loadTime]; split <;> rfl
  | vault | base | hbm | cxl | peer | key => rfl

theorem State.loadTime_die {d : Fin 8} (h : s.rdymap.getLsbD d.val = false) :
    (s.loadTime (.die d)).times.get 0 d.val = s.times.get 0 79 := by simp [State.loadTime, h, State.trustTime]

theorem functionReady_sets (hm : s.mayReady f = true) (hf : s.rdyfail.getLsbD (Func.bit f) = false) :
    exec (.functionReady f) s =
      .next { s with rdymap := s.rdymap ||| 1#64 <<< Func.bit f, times := (s.loadTime f).times } := by
  change Host.Outcome.next (if s.mayReady f then (s.loadTime f).setReady f else s) = _
  have ht := s.loadTime_eq f
  generalize (s.loadTime f).times = x at ht ⊢
  rw [if_pos hm, ht, State.setReady_of_sound (s := { s with times := x }) hf]

theorem functionReady_refused (hm : s.mayReady f = false) : exec (.functionReady f) s = .next s := by
  change Host.Outcome.next (if s.mayReady f then (s.loadTime f).setReady f else s) = _
  rw [hm]
  rfl

/-- A port or stack trains on its base die. -/
theorem linkTrained_eq {b : Nat} (hb : Func.stack f = some b) :
    exec (.linkTrained f) s = .next (if s.rdymap.getLsbD (16 + b) then s.setReady f else s) := by
  change Host.Outcome.next (if (Func.stack f).isSome && s.mayReady f then s.setReady f else s) = _
  simp [State.mayReady, hb]

theorem linkTrained_of_no_stack (h : Func.stack f = none) : exec (.linkTrained f) s = .next s := by
  change Host.Outcome.next (if (Func.stack f).isSome && s.mayReady f then s.setReady f else s) = _
  simp [h]

end

/-! ### Functions that fail (R20, R383, R394) -/

/-- The bit of a function of a list. -/
def anyBit (fs : List Func) (j : Nat) : Prop := ∃ f ∈ fs, Func.bit f = j

/-- Each of some functions is marked failed, and no other. -/
theorem markFails_bits (fs : List Func) (s : State) {j : Nat} (hj : j < 64) :
    let t := fs.foldl State.markFail s
    (anyBit fs j → t.rdymap.getLsbD j = false ∧ t.released.getLsbD j = false ∧ t.rdyfail.getLsbD j = true) ∧
    (¬anyBit fs j → t.rdymap.getLsbD j = s.rdymap.getLsbD j ∧ t.released.getLsbD j = s.released.getLsbD j ∧
      t.rdyfail.getLsbD j = s.rdyfail.getLsbD j) := by
  induction fs generalizing s with
  | nil => exact ⟨fun ⟨f, hf, _⟩ => absurd hf (List.not_mem_nil), fun _ => ⟨rfl, rfl, rfl⟩⟩
  | cons f fs ih =>
    obtain ⟨hin, hout⟩ := ih (s.markFail f)
    have hone : (s.markFail f).rdymap.getLsbD j = (s.rdymap.getLsbD j && !decide (j = Func.bit f)) ∧
        (s.markFail f).released.getLsbD j = (s.released.getLsbD j && !decide (j = Func.bit f)) ∧
        (s.markFail f).rdyfail.getLsbD j = (s.rdyfail.getLsbD j || decide (j = Func.bit f)) :=
      ⟨getLsbD_clearBit _ _ hj, getLsbD_clearBit _ _ hj, getLsbD_setBit _ _ hj⟩
    obtain ⟨hr, hl, hf⟩ := hone
    by_cases ht : anyBit fs j
    · exact ⟨fun _ => hin ht, fun hn => absurd (ht.imp fun g hg => ⟨List.mem_cons_of_mem _ hg.1, hg.2⟩) hn⟩
    · obtain ⟨hr', hl', hf'⟩ := hout ht
      by_cases hb : j = Func.bit f
      · refine ⟨fun _ => ?_, fun hn => absurd ⟨f, List.mem_cons_self .., hb.symm⟩ hn⟩
        rw [List.foldl_cons, hr', hl', hf', hr, hl, hf]
        simp [hb]
      · refine ⟨fun ⟨g, hg, hgj⟩ => ?_, fun _ => ?_⟩
        · rcases List.mem_cons.mp hg with rfl | hg
          · exact absurd hgj.symm hb
          · exact absurd ⟨g, hg, hgj⟩ ht
        · rw [List.foldl_cons, hr', hl', hf', hr, hl, hf]
          simp [hb]

/-- Marking functions failed changes the readiness registers alone. -/
theorem markFails_eq (fs : List Func) (s : State) : fs.foldl State.markFail s =
    { s with rdymap := (fs.foldl State.markFail s).rdymap, rdyfail := (fs.foldl State.markFail s).rdyfail
             released := (fs.foldl State.markFail s).released } := by
  induction fs generalizing s with
  | nil => rfl
  | cons f fs ih => rw [List.foldl_cons, ih]; rfl

theorem anyBit_stackFuncs (b : Fin 4) (j : Nat) : anyBit (stackFuncs b) j ↔
    j = 28 + b.val ∨ ∃ i < 8, i / 2 = b.val ∧ (j = i ∨ j = 8 + i ∨ j = 20 + i ∨ j = 32 + i) := by
  have hbits : (stackFuncs b).map Func.bit = [28 + b.val, 20 + 2 * b.val, 32 + 2 * b.val, 2 * b.val, 8 + 2 * b.val,
      20 + (2 * b.val + 1), 32 + (2 * b.val + 1), 2 * b.val + 1, 8 + (2 * b.val + 1)] := by
    fin_cases b <;> rfl
  have hmem : anyBit (stackFuncs b) j ↔ j ∈ (stackFuncs b).map Func.bit := by simp [anyBit]
  rw [hmem, hbits]
  simp only [List.mem_cons, List.not_mem_nil, or_false]
  constructor
  · intro h
    by_cases he : j = 28 + b.val
    · exact .inl he
    · by_cases hodd : j % 2 = 1
      · exact .inr ⟨2 * b.val + 1, by omega, by omega, by omega⟩
      · exact .inr ⟨2 * b.val, by omega, by omega, by omega⟩
  · rintro (h | ⟨i, hi, hib, h⟩)
    · exact .inl h
    · omega

/-- The functions that fail with a function: with a base die in service, its stack (R394). -/
theorem anyBit_failsWith (s : State) (f : Func) (j : Nat) : anyBit (s.failsWith f) j ↔
    j = Func.bit f ∨ ∃ b : Fin 4, f = .base b ∧ s.rdymap.getLsbD (16 + b.val) = true ∧
      (j = 28 + b.val ∨ ∃ i < 8, i / 2 = b.val ∧ (j = i ∨ j = 8 + i ∨ j = 20 + i ∨ j = 32 + i)) := by
  have hself : anyBit [f] j ↔ j = Func.bit f := by simp [anyBit, eq_comm]
  cases f with
  | base b =>
    have hb : s.failsWith (.base b) = if s.rdymap.getLsbD (16 + b.val) then .base b :: stackFuncs b else [.base b] := rfl
    rw [hb]
    by_cases hr : s.rdymap.getLsbD (16 + b.val) = true
    · rw [if_pos hr]
      have hcons : anyBit (.base b :: stackFuncs b) j ↔ j = Func.bit (.base b) ∨ anyBit (stackFuncs b) j := by
        simp [anyBit, eq_comm]
      rw [hcons, anyBit_stackFuncs]
      refine or_congr Iff.rfl ⟨fun h => ⟨b, rfl, hr, h⟩, ?_⟩
      rintro ⟨c, hc, -, h⟩
      cases hc
      exact h
    · rw [if_neg hr, hself]
      refine (or_iff_left ?_).symm
      rintro ⟨c, hc, hr', -⟩
      cases hc
      exact hr hr'
  | die | vault | hbm | cxl | peer | key =>
    refine hself.trans (or_iff_left ?_).symm
    rintro ⟨c, hc, -⟩
    cases hc

theorem State.ctxsWhere_of_none {s : State} {p : Nat → Nat → Ctx → Bool}
    (h : ∀ c ∈ s.ctxs, (c.2.exists' && p (c.1 / 256) (c.1 % 256) c.2) = false) : s.ctxsWhere p = [] := by
  have : (s.ctxs.filter fun c => c.2.exists' && p (c.1 / 256) (c.1 % 256) c.2) = [] :=
    List.filter_eq_nil_iff.mpr fun c hc => by simp [h c hc]
  rw [State.ctxsWhere, this]
  rfl

/-- Without contexts no access is lost. -/
theorem State.failedCtxs_of_no_ctx {s : State} (h : ∀ c ∈ s.ctxs, c.2.exists' = false) (f : Func) :
    s.failedCtxs f = [] := by
  unfold State.failedCtxs
  split <;> exact State.ctxsWhere_of_none fun c hc => by simp [h c hc]

/-- A base die that is still in reset is lost to no context. -/
theorem State.failedCtxs_base_in_reset {s : State} {b : Fin 4} (h : s.rdymap.getLsbD (16 + b.val) = false) :
    s.failedCtxs (.base b) = [] := by
  unfold State.failedCtxs
  exact State.ctxsWhere_of_none fun c _ => by simp [Func.bit, h]

theorem State.setFail_one {s : State} {f : Func} (h : s.failedCtxs f = []) :
    s.setFail [f] = (s.failsWith f).foldl State.markFail s := by simp [State.setFail, h, State.endAll]

/-- A base die in reset is marked failed alone. -/
theorem State.setFail_base_in_reset {s : State} {b : Fin 4} (h : s.rdymap.getLsbD (16 + b.val) = false) :
    s.setFail [.base b] = s.markFail (.base b) := by
  rw [State.setFail_one (State.failedCtxs_base_in_reset h)]
  simp [State.failsWith, Func.bit, h]

/-- The readiness registers are as in another state. -/
def SameReady (s0 s : State) : Prop := s.rdymap = s0.rdymap ∧ s.rdyfail = s0.rdyfail

theorem sameReady_endSafe (s0 : State) : EndSafe (SameReady s0) where
  byte _ _ _ hs := hs
  errors _ _ _ _ _ hs := hs
  coh _ _ hs := hs
  times _ _ hs := hs
  dqs _ _ hs := hs
  l1 _ _ hs := hs
  wtq _ _ hs := hs
  pred _ _ _ hs := hs
  log _ _ hs := hs
  tlb _ _ hs := hs
  vaults _ _ _ _ hs := hs
  parties _ _ _ _ _ _ _ hs := hs
  ctxs _ _ _ _ hs := hs
  work _ _ _ _ _ _ _ _ _ _ _ hs := hs

/-- The end of contexts leaves the readiness registers alone. -/
theorem endAll_sameReady (s : State) (xs : List (Nat × Nat)) (code : BitVec 8) : SameReady s (s.endAll xs code) :=
  (sameReady_endSafe s).endAll xs code ⟨rfl, rfl⟩

/-- A failed function stays failed while others are marked. -/
theorem State.setFail_keeps_failed {s : State} (fs : List Func) {j : Nat} (hj : j < 64)
    (h : s.rdyfail.getLsbD j = true) : (s.setFail fs).rdyfail.getLsbD j = true := by
  refine foldl_keeps (P := fun t : State => t.rdyfail.getLsbD j = true) _ (fun t f ht => ?_) fs h
  obtain ⟨hin, hout⟩ := markFails_bits (t.failsWith f) t hj
  rw [(endAll_sameReady _ _ _).2]
  by_cases hf : anyBit (t.failsWith f) j
  · exact (hin hf).2.2
  · exact (hout hf).2.2.trans ht

theorem State.setFail_one_bits (s : State) (f : Func) :
    (s.setFail [f]).rdyfail.getLsbD (Func.bit f) = true ∧ (s.setFail [f]).rdymap.getLsbD (Func.bit f) = false := by
  obtain ⟨hmap, hfail⟩ := endAll_sameReady ((s.failsWith f).foldl State.markFail s) (s.failedCtxs f) 0x34
  have hself := (anyBit_failsWith s f (Func.bit f)).mpr (.inl rfl)
  obtain ⟨hr, -, hf⟩ := (markFails_bits (s.failsWith f) s (Func.bit_lt f)).1 hself
  exact ⟨(congrArg (BitVec.getLsbD · _) hfail).trans hf, (congrArg (BitVec.getLsbD · _) hmap).trans hr⟩

/-- Every function of a list is marked failed. -/
theorem State.setFail_marks {s : State} {fs : List Func} {f : Func} (h : f ∈ fs) :
    (s.setFail fs).rdyfail.getLsbD (Func.bit f) = true := by
  induction fs generalizing s with
  | nil => exact absurd h List.not_mem_nil
  | cons g fs ih =>
    have hcons : s.setFail (g :: fs) = (s.setFail [g]).setFail fs := rfl
    rw [hcons]
    rcases List.mem_cons.mp h with rfl | h
    · exact State.setFail_keeps_failed fs (Func.bit_lt f) (s.setFail_one_bits f).1
    · exact ih h

end Sys2Proof.Machine
end

section
/-! PROOFS. The bring-up of a package (R19, R82, R379, R380, R384 to R386, R417): data of the second tier, power, images,
base dies and compute dies. -/

namespace Sys2Proof.Machine

/-! ### Data of the second tier (R82, R400) -/

section
variable {s : State} {page vi n : Nat}

theorem deferredDataArrival_frees (s : State) (page : Nat) : ∃ t, exec (.deferredDataArrival page) s = .next t ∧
    t = { s with flash := t.flash } ∧ ∀ p, p ∈ t.flash ↔ p ∈ s.flash ∧ p ≠ page :=
  ⟨_, rfl, rfl, fun p => by simp⟩

theorem secondTierTimeout_idle (h : ∀ vi n, s.outstanding vi n (· == .deferred page) = false) :
    exec (.secondTierTimeout page) s = .next s := by
  have hx : (s.ctxsWhere fun vi n _ => s.outstanding vi n (· == .deferred page)) = [] :=
    State.ctxsWhere_of_none fun c _ => by simp [h]
  change Host.Outcome.next (s.tier2Timeout page) = _
  rw [State.tier2Timeout, hx]
  rfl

/-- The context of a package that has one. -/
theorem State.ctxsWhere_one {p : Nat → Nat → Ctx → Bool} (hk : s.ctxs.map Prod.fst = [256 * vi + n]) (hn : n < 256)
    (he : (s.ctx vi n).exists' = true) (hp : p vi n (s.ctx vi n) = true) : s.ctxsWhere p = [(vi, n)] := by
  obtain ⟨⟨k, c⟩, hc, hkc⟩ := List.map_eq_singleton_iff.mp hk
  have hkey : k = 256 * vi + n := hkc
  subst hkey
  have hget : s.ctx vi n = c := by simp [State.ctx, hn, ctxKey, hc, Nat.mul_comm vi]
  have hdiv : (256 * vi + n) / 256 = vi := by omega
  have hmod : (256 * vi + n) % 256 = n := by omega
  rw [hget] at he hp
  simp [State.ctxsWhere, hc, hdiv, hmod, he, hp]

theorem secondTierTimeout_ends (hk : s.ctxs.map Prod.fst = [256 * vi + n]) (hn : n < 256)
    (he : (s.ctx vi n).exists' = true) (ho : s.outstanding vi n (· == .deferred page) = true) :
    exec (.secondTierTimeout page) s = .next ((s.logNow 0x04 (locOf 8 (1 + page % 3)) (BitVec.ofNat 64
      (page * 4096 % 2 ^ 48 + (s.ctx vi n).asid.toNat * 2 ^ 48))).endContext vi n 0 0x41) := by
  change Host.Outcome.next (s.tier2Timeout page) = _
  rw [State.tier2Timeout, State.ctxsWhere_one hk hn he ho]
  rfl

end

/-! ### Power (R379, R403, R407, R417) -/

section
variable {s : State}

theorem State.logNow_of_empty {typ : BitVec 8} {loc : BitVec 16} {data : Word64} (hm : s.log.mirror = none)
    (hd : s.log.dropped = 0) (hl : s.log.ents.length < logRoom) :
    ∃ l e, s.logNow typ loc data = { s with log := l } ∧ l.ents = s.log.ents ++ [e] ∧ e.seq = s.log.seq + 1 ∧
      e.typ = typ ∧ e.loc = loc ∧ e.data = data ∧ l.seq = s.log.seq + 1 ∧ l.boot = s.log.boot ∧ l.live = s.log.live ∧
      l.mirror = none ∧ l.dropped = 0 := by
  have hone : s.logNow typ loc data = s.logOne s.trustTime typ loc data := by
    simp [State.logNow, State.logAt, hd, Nat.not_le.mpr hl]
  rw [hone, State.logOne, State.mirrorEntry]
  simp only [hm]
  exact ⟨_, _, rfl, rfl, rfl, rfl, rfl, rfl, rfl, rfl, rfl, rfl, hd⟩

/-- The two entries of a new epoch: its start and its cause. -/
theorem State.epoch_eq (s : State) (boot : Word64) (cause : BitVec 8) :
    ∃ l, s.epoch boot cause = { s with log := l } ∧ l.seq = 2 ∧ l.live = true ∧ l.boot = boot ∧
      l.ents.map (fun e => (e.seq, e.typ, e.loc, e.data)) = [(1, 0, 0, boot), (2, 0x60, 0, cause.zeroExtend 64)] := by
  let s0 : State := { s with log := { boot := boot, digest := chainStart boot, live := true } }
  obtain ⟨l, e, h1, hents, hseq, htyp, hloc, hdata, hlseq, hboot, hlive, hmir, hdrop⟩ :=
    State.logNow_of_empty (s := s0) (typ := 0x00) (loc := locOf 0 0) (data := boot) rfl rfl
      (show 0 < logRoom by decide)
  obtain ⟨l', e', h2, hents', hseq', htyp', hloc', hdata', hlseq', hboot', hlive', -, -⟩ :=
    State.logNow_of_empty (s := { s0 with log := l }) (typ := 0x60) (loc := locOf 0 0) (data := cause.zeroExtend 64) hmir
      hdrop (by rw [hents]; exact (show 1 < logRoom by decide))
  have hl : l.seq = 1 := hlseq
  refine ⟨l', ?_, hlseq'.trans (congrArg (· + 1) hl), hlive'.trans hlive, hboot'.trans hboot, ?_⟩
  · change (s0.logNow 0x00 (locOf 0 0) boot).logNow 0x60 (locOf 0 0) (cause.zeroExtend 64) = _
    rw [h1, h2]
  · have he : l'.ents = [e, e'] := by rw [hents', hents]; rfl
    have hseq2 : e'.seq = 2 := hseq'.trans (congrArg (· + 1) hl)
    have hseq1 : e.seq = 1 := hseq
    have hloc0 : locOf 0 0 = 0 := rfl
    simp [he, hseq1, hseq2, htyp, htyp', hloc, hloc', hdata, hdata', hloc0]

/-- The firmware's slot takes a key where the trust die was not up. -/
def State.firmwareKeys (s t : State) : Store Key :=
  if t.rdymap.getLsbD 40 then t.keys
  else t.keys.set Key.none 512 { key := Config.freshKey 512 s.clock, valid := true, gen := 1 }

/-- Power comes up with an epoch where none has started. -/
theorem powerGood_eq {t : State} (hf : t.rdyfail.getLsbD 40 = false)
    (ht : t = if s.log.live then s else
      s.epoch (if s.off then s.log.boot + 1 else s.log.boot) (if s.log.trip then 2 else 0)) :
    exec .powerGood s = .next { t with
      off := false, keys := s.firmwareKeys t, rdymap := t.rdymap ||| 1#64 <<< 40
      released := t.released ||| 1#64 <<< 40 } := by
  subst ht
  exact congrArg Host.Outcome.next (State.setReady_of_sound (f := .key) hf)

theorem powerGood_epoch (hl : s.log.live = false) (hf : s.rdyfail = 0) :
    ∃ t, exec .powerGood s = .next t ∧ t.rdymap = s.rdymap ||| 1#64 <<< 40 ∧ t.log.seq = 2 ∧ t.log.live = true ∧
      t.off = false ∧ t.log.ents.map (fun e => (e.seq, e.typ, e.loc, e.data)) =
        [(1, 0, 0, t.log.boot), (2, 0x60, 0, if s.log.trip then 2 else 0)] ∧
      (s.rdymap.getLsbD 40 = false → t.keys.get Key.none 512 =
        { key := Config.freshKey 512 s.clock, valid := true, gen := 1 }) ∧
      t.log.boot = if s.off then s.log.boot + 1 else s.log.boot := by
  obtain ⟨l, he, hseq, hlive, hboot, hents⟩ :=
    s.epoch_eq (if s.off then s.log.boot + 1 else s.log.boot) (if s.log.trip then 2 else 0)
  have hcause : (if s.log.trip then 2 else 0 : BitVec 8).zeroExtend 64 = (if s.log.trip then 2 else 0 : Word64) := by
    split <;> rfl
  have hsound : ({ s with log := l } : State).rdyfail.getLsbD 40 = false := by simp [hf]
  refine ⟨_, powerGood_eq hsound (by simp only [hl, Bool.false_eq_true, if_false, he]), rfl, hseq, hlive, rfl, ?_,
    fun hr => ?_, hboot⟩
  · rw [hboot, ← hcause]; exact hents
  · have hkeys : s.firmwareKeys { s with log := l } = s.keys.set Key.none 512
        { key := Config.freshKey 512 s.clock, valid := true, gen := 1 } := if_neg (Bool.eq_false_iff.mp hr)
    exact (congrArg (Store.get Key.none · 512) hkeys).trans (Store.get_set_self ..)

theorem powerGood_live (hl : s.log.live = true) (ho : s.off = false) (hf : s.rdyfail.getLsbD 40 = false) :
    exec .powerGood s = .next { s with keys := s.firmwareKeys s, rdymap := s.rdymap ||| 1#64 <<< 40
                                       released := s.released ||| 1#64 <<< 40 } := by
  rw [powerGood_eq hf (if_pos hl).symm, ← ho]

end

/-! ### Images (R379, R380, R385) -/

/-- What the check of an image leaves alone: the readiness registers, the memory mode, contexts, blocks and groups. -/
structure Measured (s0 s : State) : Prop where
  rdymap : s.rdymap = s0.rdymap
  rdyfail : s.rdyfail = s0.rdyfail
  hbmSet : s.hbmSet = s0.hbmSet
  hbmFine : s.hbmFine = s0.hbmFine
  ctxs : s.ctxs = s0.ctxs
  blocks : s.blocks = s0.blocks
  groups : s.groups = s0.groups

theorem measured_logSafe (s0 : State) : LogSafe (Measured s0) where
  byte _ _ _ hs := ⟨hs.1, hs.2, hs.3, hs.4, hs.5, hs.6, hs.7⟩
  errors _ _ _ _ _ hs := ⟨hs.1, hs.2, hs.3, hs.4, hs.5, hs.6, hs.7⟩
  coh _ _ hs := ⟨hs.1, hs.2, hs.3, hs.4, hs.5, hs.6, hs.7⟩
  times _ _ hs := ⟨hs.1, hs.2, hs.3, hs.4, hs.5, hs.6, hs.7⟩
  dqs _ _ hs := ⟨hs.1, hs.2, hs.3, hs.4, hs.5, hs.6, hs.7⟩
  l1 _ _ hs := ⟨hs.1, hs.2, hs.3, hs.4, hs.5, hs.6, hs.7⟩
  wtq _ _ hs := ⟨hs.1, hs.2, hs.3, hs.4, hs.5, hs.6, hs.7⟩
  pred _ _ _ hs := ⟨hs.1, hs.2, hs.3, hs.4, hs.5, hs.6, hs.7⟩
  log _ _ hs := ⟨hs.1, hs.2, hs.3, hs.4, hs.5, hs.6, hs.7⟩

section
variable {s0 s : State}

theorem Measured.verify (hs : Measured s0 s) (i : Image) (kind : BitVec 8) (loc : BitVec 16) :
    Measured s0 (s.verify i kind loc).1 := by
  have hl (typ : BitVec 8) (data : Word64) := (measured_logSafe s0).logNow typ loc data hs
  unfold State.verify
  dsimp only
  split
  · obtain ⟨h1, h2, h3, h4, h5, h6, h7⟩ := hl 0x40 _
    exact ⟨h1, h2, h3, h4, h5, h6, h7⟩
  · exact hl _ _

/-- An image of another kind than a configuration is accepted on its own. -/
theorem State.verify_snd (s : State) (i : Image) {kind : BitVec 8} (loc : BitVec 16) (hk : kind ≠ 5) :
    (s.verify i kind loc).2 = Image.ok i kind := by
  change (Image.ok i kind && (kind != 5 || s.keepsMode i)) = _
  rw [bne_iff_ne.mpr hk, Bool.true_or, Bool.and_true]

theorem State.verify_config (s : State) (i : Image) (loc : BitVec 16) :
    (s.verify i 5 loc).2 = (Image.ok i 5 && s.keepsMode i) := by simp [State.verify]

theorem State.keepsMode_iff (s : State) (i : Image) :
    s.keepsMode i = true ↔ (s.hbmSet = true → Config.fineOf (Image.body i) = s.hbmFine) := by
  cases h : s.hbmSet <;> simp [State.keepsMode, h]

theorem Measured.keepsMode (hs : Measured s0 s) (i : Image) : s.keepsMode i = s0.keepsMode i := by
  simp [State.keepsMode, hs.hbmSet, hs.hbmFine]

end

/-- The two images of a base die: its firmware, and its configuration. -/
def baseImages (k : Fin 4) (img cfg : Image) : List (Image × BitVec 8 × BitVec 16) :=
  [(img, 1, locOf 2 k.val), (cfg, 5, locOf 2 k.val)]

theorem verifyAll_baseImages (s : State) (k : Fin 4) (img cfg : Image) :
    Measured s (verifyAll (baseImages k img cfg) s).1 ∧
      ((verifyAll (baseImages k img cfg) s).2 = true ↔
        Image.ok img 1 = true ∧ Image.ok cfg 5 = true ∧
          (s.hbmSet = true → Config.fineOf (Image.body cfg) = s.hbmFine)) := by
  have h0 : Measured s s := ⟨rfl, rfl, rfl, rfl, rfl, rfl, rfl⟩
  have h1 := h0.verify img 1 (locOf 2 k.val)
  refine ⟨h1.verify cfg 5 (locOf 2 k.val), ?_⟩
  have hall : (verifyAll (baseImages k img cfg) s).2 = ((s.verify img 1 (locOf 2 k.val)).2 &&
    (((s.verify img 1 (locOf 2 k.val)).1.verify cfg 5 (locOf 2 k.val)).2 && true)) := rfl
  rw [hall, State.verify_snd _ _ _ (by decide), State.verify_config, h1.keepsMode]
  simp [State.keepsMode_iff]

/-! ### Base dies (R384, R385) -/

section
variable {s : State} {k : Fin 4} {img hd : Image} {body : List Byte}

/-- A base die in reset, below a trust die that is up, waits for its images. -/
def State.baseWaits (s : State) (k : Fin 4) : Bool :=
  s.rdymap.getLsbD 40 && !s.rdymap.getLsbD (16 + k.val) && !s.rdyfail.getLsbD (16 + k.val)

theorem baseDieRelease_refused (h : s.baseWaits k = false) : exec (.baseDieRelease k img hd body) s = .next s :=
  congrArg Host.Outcome.next (if_neg (Bool.eq_false_iff.mp h))

theorem baseDieRelease_eq (h : s.baseWaits k = true) : exec (.baseDieRelease k img hd body) s =
    .next (let r := verifyAll (baseImages k img (Image.append hd body)) s
      if r.2 then ((r.1.loadMode (Image.append hd body)).releaseFunc (.base k)).setReady (.base k)
      else r.1.setFail [.base k]) := by
  refine congrArg Host.Outcome.next ((if_pos h).trans ?_)
  change (match verifyAll (baseImages k img (Image.append hd body)) s with
    | (s, true) => ((s.loadMode (Image.append hd body)).releaseFunc (.base k)).setReady (.base k)
    | (s, false) => s.setFail [.base k]) = _
  rcases verifyAll (baseImages k img (Image.append hd body)) s with ⟨t, _ | _⟩ <;> rfl

/-- The memory mode is loaded where none has been. -/
theorem State.loadMode_eq (s : State) (cfg : Image)
    (h : s.hbmSet = true → Config.fineOf (Image.body cfg) = s.hbmFine) :
    s.loadMode cfg = { s with hbmFine := Config.fineOf (Image.body cfg), hbmSet := true } := by
  unfold State.loadMode
  split
  next hs => rw [h hs, ← hs]
  next => rfl

theorem baseDieRelease_accepted (h : s.baseWaits k = true) (hi : Image.ok img 1 = true)
    (hc : Image.ok (Image.append hd body) 5 = true)
    (hm : s.hbmSet = true → Config.fineOf (Image.body (Image.append hd body)) = s.hbmFine) :
    ∃ t, exec (.baseDieRelease k img hd body) s = .next t ∧ t.rdymap = s.rdymap ||| 1#64 <<< (16 + k.val) ∧
      t.hbmSet = true ∧ t.hbmFine = Config.fineOf (Image.body (Image.append hd body)) := by
  obtain ⟨hsame, hok⟩ := verifyAll_baseImages s k img (Image.append hd body)
  have hfail : s.rdyfail.getLsbD (16 + k.val) = false := by simp_all [State.baseWaits]
  refine ⟨_, (baseDieRelease_eq h).trans (congrArg _ (if_pos (hok.mpr ⟨hi, hc, hm⟩))), ?_⟩
  rw [State.loadMode_eq _ _ (by rw [hsame.hbmSet, hsame.hbmFine]; exact hm), State.setReady_of_sound
    (by simpa [State.releaseFunc, hsame.rdyfail, Func.bit] using hfail)]
  exact ⟨congrArg (· ||| _) hsame.rdymap, rfl, rfl⟩

theorem baseDieRelease_rejected (h : s.baseWaits k = true) (hn : ¬(Image.ok img 1 = true ∧
    Image.ok (Image.append hd body) 5 = true ∧
    (s.hbmSet = true → Config.fineOf (Image.body (Image.append hd body)) = s.hbmFine))) :
    ∃ t, exec (.baseDieRelease k img hd body) s = .next t ∧ t.rdyfail.getLsbD (16 + k.val) = true ∧
      t.rdymap = s.rdymap ∧ t.ctxs = s.ctxs ∧ t.blocks = s.blocks ∧ t.groups = s.groups := by
  obtain ⟨hsame, hok⟩ := verifyAll_baseImages s k img (Image.append hd body)
  have hreset : s.rdymap.getLsbD (16 + k.val) = false := by simp_all [State.baseWaits]
  have hreset' := (congrArg (BitVec.getLsbD · (16 + k.val)) hsame.rdymap).trans hreset
  refine ⟨_, (baseDieRelease_eq h).trans (congrArg _ (if_neg fun ha => hn (hok.mp ha))),
    State.setFail_marks (f := .base k) (by simp), ?_⟩
  rw [State.setFail_base_in_reset hreset']
  exact ⟨(clearBit_of_clear hreset').trans hsame.rdymap, hsame.ctxs, hsame.blocks, hsame.groups⟩

end

/-! ### Compute dies (R338, R380, R384, R386) -/

/-- The agent of a core stands at its start. -/
def AgentAtStart (s : State) (c : Nat) : Prop :=
  (s.group (17 * c + 16)).live = true ∧ (s.group (17 * c + 16)).kind = .agent ∧ ((s.group (17 * c + 16)).ent 0).pc = 0

theorem startAgent_starts (s : State) (c : Nat) : AgentAtStart (s.startAgent c) c := by
  have hg : ∃ sr, (s.startAgent c).group (17 * c + 16) = agentStart c sr s.clock :=
    ⟨_, by rw [Nat.mul_comm 17]; exact State.group_setGroup_self _ _ _⟩
  obtain ⟨sr, hg⟩ := hg
  unfold AgentAtStart
  rw [hg]
  exact ⟨rfl, rfl, rfl⟩

theorem AgentAtStart.startAgent {s : State} {c : Nat} (h : AgentAtStart s c) (c' : Nat) :
    AgentAtStart (s.startAgent c') c := by
  by_cases hc : c = c'
  · subst hc
    exact startAgent_starts s c
  · have hg : (s.startAgent c').group (17 * c + 16) = s.group (17 * c + 16) :=
      State.group_setGroup_ne _ _ (by omega)
    unfold AgentAtStart
    rw [hg]
    exact h

/-- The agents of a run of cores are started one by one. -/
theorem startAgents_start {cs : List Nat} {s : State} {c : Nat} (h : c ∈ cs) :
    AgentAtStart (cs.foldl State.startAgent s) c := by
  induction cs generalizing s with
  | nil => exact absurd h List.not_mem_nil
  | cons a cs ih =>
    by_cases hc : c ∈ cs
    · exact ih hc
    · have ha : c = a := by simpa [hc] using h
      subst ha
      exact foldl_keeps (P := fun t => AgentAtStart t c) _ (fun _ _ ht => ht.startAgent _) cs (startAgent_starts s c)

/-- What the placing of firmware and the start of agents leave alone. -/
structure SameClock (s0 s : State) : Prop where
  rdymap : s.rdymap = s0.rdymap
  rdyfail : s.rdyfail = s0.rdyfail
  times : s.times = s0.times

theorem SameClock.startAgent {s0 s : State} (h : SameClock s0 s) (c : Nat) : SameClock s0 (s.startAgent c) :=
  ⟨h.rdymap, h.rdyfail, h.times⟩

theorem SameClock.setMemBytes {s0 s : State} (h : SameClock s0 s) (a : Nat) (bs : List Byte) :
    SameClock s0 (s.setMemBytes a bs) := by
  induction bs generalizing s a with
  | nil => exact h
  | cons b t ih =>
    have hb : SameClock s0 (s.setMemByte a b) := ⟨h.rdymap, h.rdyfail, h.times⟩
    exact ih hb (a + 1)

theorem SameClock.setHbmByte {s0 s : State} (h : SameClock s0 s) (a asid : Nat) (b : Byte) :
    SameClock s0 (s.setHbmByte a asid b) := by
  rw [State.setHbmByte, State.setHbmLine, State.setMemLine]
  generalize (List.range 128).map _ = bs
  exact h.setMemBytes _ bs

/-- The recursion of `putStack`, by its definition through `List.brecOn`: comparing the states themselves would write out
the bytes of a line. -/
theorem State.putStack_cons (s : State) (st off : Nat) (b : Byte) (t : List Byte) : s.putStack st off (b :: t) =
    (s.setHbmByte (hbmAddr s.hbmFine st off) 512 b).putStack st (off + 1) t := by
  delta State.putStack
  simp only [List.brecOn.go]

theorem SameClock.putStack {s0 s : State} (h : SameClock s0 s) (st off : Nat) (bs : List Byte) :
    SameClock s0 (s.putStack st off bs) := by
  induction bs generalizing s off with
  | nil => exact h
  | cons b t ih =>
    rw [State.putStack_cons]
    exact ih (h.setHbmByte _ _ _) (off + 1)

theorem SameClock.placeFirmware {s0 s : State} (h : SameClock s0 s) (d : Nat) (agent : Image) :
    SameClock s0 (s.placeFirmware d agent) := by
  unfold State.placeFirmware
  split
  · exact h.putStack _ _ _
  · exact h

section
variable {s s1 : State} {d : Fin 8} {die vault agent : Image}

/-- The die's time is loaded, its firmware placed, its agents started. -/
def State.dieStarts (s : State) (d : Nat) (agent : Image) : State :=
  (coreRun (64 * d) 64).foldl State.startAgent
    (({ s with times := s.times.set 0 d s.trustTime } : State).placeFirmware d agent)

theorem dieStarts_sameClock (s : State) (d : Nat) (agent : Image) :
    SameClock { s with times := s.times.set 0 d s.trustTime } (s.dieStarts d agent) :=
  foldl_keeps _ (fun _ _ ht => ht.startAgent _) _ (SameClock.placeFirmware ⟨rfl, rfl, rfl⟩ _ _)

theorem dieStarts_agents (s : State) (agent : Image) {d c : Nat} (hlo : 64 * d ≤ c) (hhi : c < 64 * d + 64) :
    AgentAtStart (s.dieStarts d agent) c :=
  startAgents_start (List.mem_map.mpr ⟨c - 64 * d, by simp; omega, by omega⟩)

theorem State.setReady_two {f g : Func} (hf : s.rdyfail.getLsbD (Func.bit f) = false)
    (hg : s.rdyfail.getLsbD (Func.bit g) = false) : (s.setReady f).setReady g =
      { s with rdymap := s.rdymap ||| 1#64 <<< Func.bit f ||| 1#64 <<< Func.bit g } := by
  rw [State.setReady_of_sound hf]
  exact State.setReady_of_sound (s := { s with rdymap := s.rdymap ||| 1#64 <<< Func.bit f }) hg

/-- A die and its vault die are released and set their bits. -/
theorem State.releasePair (d : Fin 8) (hf : s.rdyfail = 0) :
    ∃ r, (((s.releaseFunc (.die d)).releaseFunc (.vault d)).setReady (.die d)).setReady (.vault d) =
      { s with rdymap := s.rdymap ||| 1#64 <<< d.val ||| 1#64 <<< (8 + d.val), released := r } := by
  have hbit (f : Func) : s.rdyfail.getLsbD (Func.bit f) = false := by simp [hf]
  exact ⟨_, State.setReady_two (s := (s.releaseFunc (.die d)).releaseFunc (.vault d)) (hbit (.die d)) (hbit (.vault d))⟩

theorem State.releaseDie_eq (s : State) (d : Fin 8) (agent : Image) : s.releaseDie d.val agent =
    ((((s.dieStarts d.val agent).releaseFunc (.die d)).releaseFunc (.vault d)).setReady (.die d)).setReady (.vault d) := by
  have hd : Fin.ofNat 8 d.val = d := Fin.ofNat_val_eq_self d
  rw [State.releaseDie, hd]
  rfl

/-- The die waits for its images: its base die and a stack are ready, it is in service, and neither ready nor failed. -/
def State.dieWaits (s : State) (d : Fin 8) : Bool :=
  s.dieMayStart d.val && !s.rdymap.getLsbD d.val && !s.rdyfail.getLsbD d.val && (s.dqs.get {} d.val).st == .service

theorem State.dieMayStart_iff (s : State) (d : Nat) : s.dieMayStart d = true ↔
    s.rdymap.getLsbD (16 + d / 2) = true ∧ s.rdymap.toNat / 2 ^ 20 % 256 ≠ 0 := by
  simp [State.dieMayStart, bits]

theorem computeDieRelease_refused (h : s.dieWaits d = false) :
    exec (.computeDieRelease d die vault agent) s = .next s := congrArg Host.Outcome.next (if_neg (Bool.eq_false_iff.mp h))

theorem computeDieRelease_eq (h : s.dieWaits d = true) {ok : Bool} (hv : s.verifyDie d.val die vault agent = (s1, ok)) :
    exec (.computeDieRelease d die vault agent) s = .next (if ok then s1.releaseDie d.val agent else s1) := by
  refine congrArg Host.Outcome.next ((if_pos h).trans ?_)
  rw [hv]
  cases ok <;> rfl

theorem computeDieRelease_starts (h : s.dieWaits d = true) (hv : s.verifyDie d.val die vault agent = (s1, true))
    (hf : s1.rdyfail = 0) : ∃ t, exec (.computeDieRelease d die vault agent) s = .next t ∧
      t.rdymap = s1.rdymap ||| 1#64 <<< d.val ||| 1#64 <<< (8 + d.val) ∧ t.times.get 0 d.val = s1.times.get 0 79 ∧
      ∀ c, 64 * d.val ≤ c → c < 64 * d.val + 64 → AgentAtStart t c := by
  have he := computeDieRelease_eq h hv
  rw [if_pos rfl, State.releaseDie_eq] at he
  obtain ⟨hmap, hfail, htimes⟩ := dieStarts_sameClock s1 d.val agent
  have hagents (c : Nat) := dieStarts_agents s1 agent (d := d.val) (c := c)
  generalize s1.dieStarts d.val agent = u at *
  obtain ⟨r, hr⟩ := State.releasePair (s := u) d (hfail.trans hf)
  rw [hr] at he
  refine ⟨_, he, congrArg (· ||| 1#64 <<< d.val ||| 1#64 <<< (8 + d.val)) hmap, ?_, hagents⟩
  exact (congrArg (Store.get 0 · d.val) htimes).trans (Store.get_set_self ..)

theorem State.verifyDie_snd (s : State) (d : Nat) (die vault agent : Image) :
    (s.verifyDie d die vault agent).2 = (Image.ok die 2 && Image.ok vault 3 && Image.ok agent 4) := by
  unfold State.verifyDie
  dsimp only
  rw [State.verify_snd _ _ _ (by decide), State.verify_snd _ _ _ (by decide), State.verify_snd _ _ _ (by decide)]

/-- A die or a vault die one of whose images is rejected is marked failed. -/
theorem State.setFail_rejected (s : State) (f g : Func) {a b c : Bool} (h : (a && b && c) = false) :
    let t := s.setFail ((if a && c then [] else [f]) ++ (if b then [] else [g]))
    t.rdyfail.getLsbD (Func.bit f) = true ∨ t.rdyfail.getLsbD (Func.bit g) = true := by
  cases hb : b with
  | false => exact .inr (State.setFail_marks (by simp))
  | true =>
    have hac : (a && c) = false := by simpa [hb] using h
    exact .inl (State.setFail_marks (by simp [hac]))

theorem State.verifyDie_eq (s : State) (d : Fin 8) (die vault agent : Image) : ∃ (t : State) (a b c : Bool),
    s.verifyDie d.val die vault agent = (t.setFail ((if a && c then [] else [.die d]) ++ (if b then [] else [.vault d])),
      a && b && c) := by
  have hd : Fin.ofNat 8 d.val = d := Fin.ofNat_val_eq_self d
  rw [State.verifyDie, hd]
  exact ⟨_, _, _, _, rfl⟩

/-- A rejected image leaves its die in reset. -/
theorem State.verifyDie_rejected (hv : s.verifyDie d.val die vault agent = (s1, false)) :
    s1.rdyfail.getLsbD d.val = true ∨ s1.rdyfail.getLsbD (8 + d.val) = true := by
  obtain ⟨t, a, b, c, he⟩ := s.verifyDie_eq d die vault agent
  obtain ⟨hs, hno⟩ := Prod.mk.inj (he.symm.trans hv)
  rw [← hs]
  exact State.setFail_rejected t (.die d) (.vault d) hno

end

end Sys2Proof.Machine
end

section
/-! PROOFS. Each event of the bring-up, with its condition as the statement of O49 writes it. -/

namespace Sys2Proof.Machine

section
variable {s : State} {f : Func}

theorem State.baseWaits_of {k : Fin 4} (hkey : s.rdymap.getLsbD 40 = true) (hr : s.rdymap.getLsbD (16 + k.val) = false)
    (hf : s.rdyfail.getLsbD (16 + k.val) = false) : s.baseWaits k = true := by
  simp only [State.baseWaits, hkey, hr, hf, Bool.not_false, Bool.and_true]

theorem onlyBit_of_eq {x y : Word64} {k : Nat} (h : y = x ||| 1#64 <<< k) :
    ∀ j < 64, y.getLsbD j = (x.getLsbD j || decide (j = k)) := fun _ hj => by rw [h, getLsbD_setBit x k hj]

theorem functionReady_clause (hm : s.mayReady f = true) (hf : s.rdyfail.getLsbD (Func.bit f) = false) :
    ∃ t, exec (.functionReady f) s = .next t ∧ t = { s with rdymap := t.rdymap, times := t.times } ∧
      (∀ j < 64, t.rdymap.getLsbD j = (s.rdymap.getLsbD j || decide (j = Func.bit f))) ∧
      ∀ d : Fin 8, f = .die d → s.rdymap.getLsbD d.val = false → t.times.get 0 d.val = s.times.get 0 79 :=
  ⟨_, functionReady_sets hm hf, rfl, onlyBit_of_eq rfl, fun _ hd hr => by subst hd; exact State.loadTime_die hr⟩

theorem functionMarkedFailed_eq (s : State) (f : Func) : exec (.functionMarkedFailed f) s = .next (s.setFail [f]) := rfl

theorem functionMarkedFailed_no_ctx (h : ∀ c ∈ s.ctxs, c.2.exists' = false) :
    exec (.functionMarkedFailed f) s = .next ((s.failsWith f).foldl State.markFail s) := by
  rw [functionMarkedFailed_eq, State.setFail_one (State.failedCtxs_of_no_ctx h f)]

/-- A link trains only where its base die is ready and it has not failed. -/
theorem linkTrained_refused {b : Nat} (hb : Func.stack f = some b)
    (h : s.rdymap.getLsbD (16 + b) = false ∨ s.rdyfail.getLsbD (Func.bit f) = true) :
    exec (.linkTrained f) s = .next s := by
  rw [linkTrained_eq hb]
  split
  next hr => rw [State.setReady_of_failed (h.resolve_left (by rw [hr]; nofun))]
  next => rfl

theorem linkTrained_sets {b : Nat} (hb : Func.stack f = some b) (hr : s.rdymap.getLsbD (16 + b) = true)
    (hf : s.rdyfail.getLsbD (Func.bit f) = false) :
    exec (.linkTrained f) s = .next { s with rdymap := s.rdymap ||| 1#64 <<< Func.bit f } := by
  rw [linkTrained_eq hb, if_pos hr, State.setReady_of_sound hf]

end

/-- Settles O49: each event is one of the lemmas above, with its condition as the statement writes it. -/
theorem bringUp : Obligations.BringUp := by
  intro s s1 f page k d img hd die vault agent body
  refine ⟨fun hm => functionReady_clause ?may, fun hm => functionReady_refused ?mayNot, fun hno => ?failed,
    fun b hf hr => ?reset, ?marked, deferredDataArrival_frees s page, secondTierTimeout_idle, fun vi n hk hn => secondTierTimeout_ends hk hn,
    powerGood_epoch, fun hl ho hf => ?power, fun h => ?baseNo, fun hkey hr hf => ⟨fun h => ?baseYes, fun h => ?baseBad⟩,
    fun b hb hr hf => ?link, fun b hb => linkTrained_refused hb, linkTrained_of_no_stack, fun h => ?dieNo,
    fun hb hh hr hf hq => ?die⟩
  case may => cases hb : Func.stack f <;> simpa only [State.mayReady, hb] using hm
  case mayNot => cases hb : Func.stack f <;> simpa [State.mayReady, hb] using hm
  case failed =>
    refine ⟨_, functionMarkedFailed_no_ctx hno, markFails_eq _ _, fun j hj => ?_⟩
    have hbits := markFails_bits (s.failsWith f) s hj
    rwa [anyBit_failsWith] at hbits
  case reset =>
    subst hf
    exact ⟨_, functionMarkedFailed_eq s _, by rw [State.setFail_base_in_reset hr]; exact ⟨rfl, rfl, rfl⟩⟩
  case marked => exact ⟨_, functionMarkedFailed_eq s f, s.setFail_one_bits f⟩
  case power => exact ⟨_, powerGood_live hl ho hf, rfl, onlyBit_of_eq rfl⟩
  case baseNo =>
    refine baseDieRelease_refused ?_
    rcases h with h | h | h <;> simp only [State.baseWaits, h, Bool.not_true, Bool.and_false, Bool.false_and]
  case baseYes =>
    obtain ⟨hi, hc, hm⟩ := h
    obtain ⟨t, he, hmap, hset, hfine⟩ := baseDieRelease_accepted (State.baseWaits_of hkey hr hf) hi hc hm
    exact ⟨t, he, onlyBit_of_eq hmap, hset, hfine⟩
  case baseBad => exact baseDieRelease_rejected (State.baseWaits_of hkey hr hf) h
  case link => exact ⟨_, linkTrained_sets hb hr hf, rfl, onlyBit_of_eq rfl⟩
  case dieNo =>
    refine computeDieRelease_refused ?_
    have hno (hn : ¬(s.rdymap.getLsbD (16 + d.val / 2) = true ∧ s.rdymap.toNat / 2 ^ 20 % 256 ≠ 0)) :
        s.dieWaits d = false := by
      have hmay : s.dieMayStart d.val = false := Bool.eq_false_iff.mpr (mt (s.dieMayStart_iff d.val).mp hn)
      simp only [State.dieWaits, hmay, Bool.false_and]
    rcases h with h | h | h
    · exact hno fun hb => Bool.eq_false_iff.mp h hb.1
    · exact hno fun hb => hb.2 h
    · simp only [State.dieWaits, h, Bool.not_true, Bool.and_false, Bool.false_and]
  case die =>
    have hw : s.dieWaits d = true := by
      have hmay := (s.dieMayStart_iff d.val).mpr ⟨hb, hh⟩
      simp [State.dieWaits, hmay, hr, hf, hq]
    exact ⟨computeDieRelease_starts hw, s.verifyDie_snd d.val die vault agent,
      fun hv => ⟨computeDieRelease_eq hw hv, State.verifyDie_rejected hv⟩⟩

end Sys2Proof.Machine
end

section
/-! PROOFS. A step of the package (R20, R131 to R133, R143, R372, R406, R410, R414): what it runs, the fetch, the checks of
R143, and the outcomes of issuing a word or a chain. -/

namespace Sys2Proof.Machine

/-! ### Continuing with a next state -/

section
variable {o : Host.Outcome State Fault Refusal} {f g : State → Host.Outcome State Fault Refusal}

@[simp] theorem andThen_next (s : State) : andThen (.next s) f = f s := rfl

theorem andThen_assoc : andThen (andThen o f) g = andThen o fun v => andThen (f v) g := by cases o <;> rfl

theorem andThen_skip (c : State → Bool) : (andThen o fun v => if c v then .next v else .next v) = o := by
  cases o <;> simp [andThen]

end

/-! ### What a step runs -/

section
variable {s s1 : State} {e : Instr} {t : List Instr} {c : Cur} {cs : List Cur} {o : Host.Outcome State Fault Refusal}

theorem step_of_off (h : s.off = true) : step s = andThen s.offAct fun v => .next v.finish := by rw [step, if_pos h]

theorem step_of_on (h : s.off = false) : step s = andThen s.act fun v => .next v.finish := by
  rw [step, if_neg (Bool.eq_false_iff.mp h)]

theorem step_off_idle (h : s.off = true) (ha : s.agenda = []) : step s = .fault .powerOff := by
  rw [step_of_off h, State.offAct, ha]
  rfl

theorem step_off_event (h : s.off = true) (ha : s.agenda = e :: t) (he : happensOff e = true) :
    step s = andThen (exec e { s with agenda := t }) fun v => .next v.finish := by
  rw [step_of_off h, State.offAct, ha]
  simp only [he, if_true]

theorem step_off_passes (h : s.off = true) (ha : s.agenda = e :: t) (he : happensOff e = false) :
    step s = .next ({ s with agenda := t } : State).finish := by
  rw [step_of_off h, State.offAct, ha]
  simp only [he, Bool.false_eq_true, if_false, andThen_next]

theorem step_event (h : s.off = false) (ha : s.agenda = e :: t) :
    step s = andThen (exec e { s with agenda := t }) fun v => .next v.finish := by
  rw [step_of_on h, State.act, ha]

theorem step_internal (h : s.off = false) (ha : s.agenda = []) (hi : s.internal = some o) :
    step s = andThen o fun v => .next v.finish := by
  rw [step_of_on h, State.act, ha, hi]

theorem step_units (h : s.off = false) (ha : s.agenda = []) (hi : s.internal = none) (hu : s.unitsFirst = some s1) :
    step s = .next s1.finish := by
  rw [step_of_on h, State.act, ha, hi, hu]
  rfl

theorem step_idle (h : s.off = false) (ha : s.agenda = []) (hi : s.internal = none) (hu : s.unitsFirst = none)
    (hp : s.pick = none) : step s = .next s.idle.finish := by
  rw [step_of_on h, State.act, ha, hi, hu, hp]
  rfl

theorem step_issue (h : s.off = false) (ha : s.agenda = []) (hi : s.internal = none) (hu : s.unitsFirst = none)
    (hp : s.pick = some (c, cs)) :
    step s = andThen ((s.issuing c cs).withSram (issueWith exec)) fun v => .next v.finish := by
  rw [step_of_on h, State.act, ha, hi, hu, hp]

end

/-! ### Errors of SRAM, and writes that a vault die holds back (R20, R79, R414) -/

section
variable {u v : State} {f : State → Host.Outcome State Fault Refusal} {ex : Meaning} {q : Wait} {qs : List Wait}
variable {x : EccPlace × Nat}

theorem State.withSram_clean (h : u.sramMet = []) : u.withSram f = f u := by rw [State.withSram, h]

theorem State.withSram_ends (ha : u.g.isAgent = false) (h : u.sramMet.find? (fun x => !correctable x) = some x) :
    u.withSram f = .next ((u.logEcc x u.blk.asid).endContext u.blk.vi u.blk.ctx u.core 0x41) := by
  rw [State.withSram]
  split
  next he => rw [he] at h; nomatch h
  next => simp only [ha, Bool.false_eq_true, if_false, h]

theorem State.withSram_corrected (hne : u.sramMet ≠ [])
    (h : u.g.isAgent = true ∨ ∀ x ∈ u.sramMet, correctable x = true) :
    u.withSram f = f { u with met := u.met ++ u.sramMet } := by
  have hnone : (if u.g.isAgent then none else u.sramMet.find? fun e => !correctable e) = none := by
    rcases h with ha | hc
    · rw [if_pos ha]
    · rw [List.find?_eq_none.mpr fun x hx => by simp [hc x hx], ite_self]
  rw [State.withSram]
  split
  next he => exact absurd he hne
  next => simp only [hnone]

theorem issueWith_free (h : u.vaultWaits u.cur.gid = []) : issueWith ex u = issueChain ex u := by
  unfold issueWith State.afterVaults
  rw [h]

theorem issueWith_held (h : u.vaultWaits u.cur.gid = q :: qs) (ho : issueChain ex u = .next v) :
    issueWith ex u = .next (if v.g.live ∧ (v.vaultWaits u.cur.gid).length ≤ qs.length
      then (u.parkHere (Wait.join (q :: qs))).stop else v) := by
  unfold issueWith State.afterVaults
  rw [h, ho]
  simp only [Bool.and_eq_true, decide_eq_true_eq]
  split <;> rfl

end

/-! ### The fetch (R131, R132, R140) -/

section
variable {u s1 s2 : State} {pool one : Bool} {n : Nat} {pc p : PC} {r : LRes} {w : Word32} {ls : List Word32}
variable {is : List Item}

theorem fetchChain_unread (h : u.codeWord pc = (s1, .error r)) :
    State.fetchChain pool one (n + 1) pc u = (s1, .error (pc, r)) := by rw [State.fetchChain, h]

/-- The words that follow a word in its packet as its literals. -/
def litsOf (pool : Bool) (w : Word32) : Nat := litLen pool (opOf (w.toNat % 2 ^ 31)) (w.toNat % 2 ^ 31)

theorem fetchChain_eq (h : u.codeWord pc = (s1, .ok w)) : State.fetchChain pool one (n + 1) pc u =
    match s1.codeWords (Nat.min (litsOf pool w) (2 - pcSlot pc)) (pcAdd pc 1) with
    | (s, .error r) => (s, .error r)
    | (s, .ok ls) =>
      let i : Item := ⟨pc, w, ⟨ls.getD 0 0, ls.getD 1 0⟩⟩
      if chainBit w && !one && litsOf pool w == 0 && pcSlot pc < 2 then
        match State.fetchChain pool one n (pcAdd pc 1) s with
        | (s, .error r) => (s, .error r)
        | (s, .ok t) => (s, .ok (i :: t))
      else (s, .ok [i]) := by
  rw [State.fetchChain, h]
  rfl

theorem fetchChain_unreadLiteral (h : u.codeWord pc = (s1, .ok w))
    (hl : s1.codeWords (Nat.min (litsOf pool w) (2 - pcSlot pc)) (pcAdd pc 1) = (s2, .error (p, r))) :
    State.fetchChain pool one (n + 1) pc u = (s2, .error (p, r)) := by rw [fetchChain_eq h, hl]

/-- A word without the chain bit, or one that is issued alone, is fetched alone. -/
theorem fetchChain_alone (h : u.codeWord pc = (s1, .ok w)) (hw : w.msb = false ∨ one = true)
    (hl : s1.codeWords (Nat.min (litsOf pool w) (2 - pcSlot pc)) (pcAdd pc 1) = (s2, .ok ls)) :
    State.fetchChain pool one (n + 1) pc u = (s2, .ok [⟨pc, w, ⟨ls.getD 0 0, ls.getD 1 0⟩⟩]) := by
  have hno : (chainBit w && !one) = false := by rcases hw with hw | hw <;> simp [chainBit, hw]
  rw [fetchChain_eq h, hl]
  simp only [hno, Bool.false_and, Bool.false_eq_true, if_false]

theorem pcSlot_pcAdd_one (h : pcSlot pc < 2) : pcSlot (pcAdd pc 1) = pcSlot pc + 1 := by
  simp only [pcAdd, pcSlot, mkPc, BitVec.toNat_ofNat] at *
  omega

/-- A fetched chain starts at the program counter; a longer one goes on with the next slot of the packet. -/
theorem fetchChain_ok (h : State.fetchChain pool one (n + 1) pc u = (s2, .ok is)) :
    ∃ i t, is = i :: t ∧ i.pc = pc ∧
      (t = [] ∨ pcSlot pc < 2 ∧ ∃ s, State.fetchChain pool one n (pcAdd pc 1) s = (s2, .ok t)) := by
  rcases hw : u.codeWord pc with ⟨s1, r | w⟩
  · rw [fetchChain_unread hw] at h; nomatch h
  · rw [fetchChain_eq hw] at h
    split at h
    next => nomatch h
    next s3 ls _ =>
      dsimp only at h
      split at h
      next hc =>
        split at h
        next => nomatch h
        next s4 t ht =>
          obtain ⟨rfl, hok⟩ := Prod.mk.inj h
          simp only [Bool.and_eq_true, decide_eq_true_eq] at hc
          exact ⟨_, t, (Except.ok.inj hok).symm, rfl, .inr ⟨hc.2, s3, ht⟩⟩
      next => exact ⟨_, [], (Except.ok.inj (Prod.mk.inj h).2).symm, rfl, .inl rfl⟩

/-- The two words of a chain stand at different program counters. -/
theorem fetchChain_pair {i j : Item} (h : State.fetchChain pool one 3 pc u = (s2, .ok [i, j])) : i.pc ≠ j.pc := by
  obtain ⟨i', t, he, hi, hnil | ⟨hslot, s, ht⟩⟩ := fetchChain_ok h
  · subst hnil; nomatch he
  obtain ⟨rfl, rfl⟩ := List.cons.inj he
  obtain ⟨j', t', he', hj, -⟩ := fetchChain_ok ht
  obtain ⟨rfl, -⟩ := List.cons.inj he'
  intro hpc
  have hsame := congrArg pcSlot (hi.symm.trans (hpc.trans hj))
  rw [pcSlot_pcAdd_one hslot] at hsame
  omega

end

end Sys2Proof.Machine
end

section
/-! PROOFS. The checks of R143 over the words of a chain, and what the issue of a word or a chain comes to (R131 to R133,
R143, R372, R414). -/

namespace Sys2Proof.Machine

/-! ### The checks of R143 -/

section
variable {u : State} {pool one agent : Bool} {is : List Item} {i : Item}

theorem checkChain_packet (h : is.find? (Item.badPacket pool one is) = some i) :
    checkChain pool one agent is = some (tPacket, pcSlot i.pc) := by
  simp only [checkChain, h]
  rfl

/-- The checks after those of the packet, where none of these fails. -/
theorem checkChain_of_packet (h : is.find? (Item.badPacket pool one is) = none) : checkChain pool one agent is =
    (((is.find? fun i => !assigned i.op).map fun i => (tInstruction, pcSlot i.pc)).or <|
    ((is.find? fun i => i.op == 0x3DC && !agent).map fun i => (tProt 6 none none, pcSlot i.pc)).or <|
    (is.find? (Item.badEncoding pool agent)).map fun i => (tEncoding, pcSlot i.pc)) := by
  simp only [checkChain, h]
  rfl

theorem find?_unassigned_none (h : ∀ i ∈ is, assigned i.op = true) : (is.find? fun i => !assigned i.op) = none :=
  List.find?_eq_none.mpr fun i hi => by simp [h i hi]

theorem find?_agentOnly_none (h : agent = true ∨ ∀ i ∈ is, i.op ≠ 0x3DC) :
    (is.find? fun i => i.op == 0x3DC && !agent) = none :=
  List.find?_eq_none.mpr fun i hi => by
    rcases h with h | h
    · simp [h]
    · simp [h i hi]

theorem checkChain_opcode (hp : is.find? (Item.badPacket pool one is) = none)
    (h : is.find? (fun i => !assigned i.op) = some i) :
    checkChain pool one agent is = some (tInstruction, pcSlot i.pc) := by
  rw [checkChain_of_packet hp, h]
  rfl

theorem checkChain_agentOnly (hp : is.find? (Item.badPacket pool one is) = none) (ho : ∀ i ∈ is, assigned i.op = true)
    (ha : agent = false) (h : is.find? (fun i => i.op == 0x3DC) = some i) :
    checkChain pool one agent is = some (tProt 6 none none, pcSlot i.pc) := by
  subst ha
  rw [checkChain_of_packet hp, find?_unassigned_none ho]
  simp only [Bool.not_false, Bool.and_true, h]
  rfl

/-- Past the first three checks, that of the encodings decides. -/
theorem checkChain_of_agentOnly (hp : is.find? (Item.badPacket pool one is) = none)
    (ho : ∀ i ∈ is, assigned i.op = true) (ha : agent = true ∨ ∀ i ∈ is, i.op ≠ 0x3DC) :
    checkChain pool one agent is = (is.find? (Item.badEncoding pool agent)).map fun i => (tEncoding, pcSlot i.pc) := by
  rw [checkChain_of_packet hp, find?_unassigned_none ho, find?_agentOnly_none ha]
  rfl

theorem Item.clash_iff (i j : Item) : i.clash j = true ↔ i.pc ≠ j.pc ∧
    ((∃ y, pipeOf i.op = some y ∧ pipeOf j.op = some y) ∨ ∃ y ∈ i.dests, y ∈ j.dests) := by
  have hpipe : ((pipeOf i.op).isSome && pipeOf i.op == pipeOf j.op) = true ↔
      ∃ y, pipeOf i.op = some y ∧ pipeOf j.op = some y := by
    cases pipeOf i.op with
    | none => simp
    | some y =>
      rw [Option.isSome_some, Bool.true_and, beq_iff_eq]
      exact ⟨fun h => ⟨y, rfl, h.symm⟩, fun ⟨_, hi, hj⟩ => hi.trans hj.symm⟩
  rw [Item.clash, Bool.and_eq_true, Bool.or_eq_true, hpipe]
  simp

theorem Item.badPacket_iff (i : Item) : i.badPacket pool false is = true ↔ (3 < pcSlot i.pc + 1 + i.lits pool ∨
    chainBit i.w = true ∧ (pcSlot i.pc = 2 ∨ i.lits pool ≠ 0) ∨ ∃ j ∈ is, i.pc ≠ j.pc ∧
      ((∃ y, pipeOf i.op = some y ∧ pipeOf j.op = some y) ∨ ∃ y ∈ i.dests, y ∈ j.dests)) := by
  simp only [Item.badPacket, ← Item.clash_iff, Bool.not_false, Bool.true_and, Bool.or_eq_true, Bool.and_eq_true,
    decide_eq_true_eq, beq_iff_eq, bne_iff_ne, List.any_eq_true]

theorem Item.not_clash_self (i : Item) : i.clash i = false := by simp [Item.clash]

/-- A word alone fails the first check only by a literal past its packet. -/
theorem Item.badPacket_alone (h : i.w.msb = false ∨ one = true) :
    i.badPacket pool one [i] = decide (3 < pcSlot i.pc + 1 + i.lits pool) := by
  have hchain : (!one && chainBit i.w) = false := by rcases h with h | h <;> simp [chainBit, h]
  simp only [Item.badPacket, List.any_cons, List.any_nil, Item.not_clash_self, Bool.or_false, ← Bool.and_assoc, hchain,
    Bool.false_and]

theorem find?_alone {f : Item → Bool} (h : f i = true) : [i].find? f = some i := by simp [h]

theorem find?_alone_none {f : Item → Bool} (h : f i = false) : [i].find? f = none := by simp [h]

end

/-! ### The issue of a word or a chain -/

section
variable {u s2 s3 : State} {ex : Meaning} {is : List Item} {p : PC} {r : LRes} {line slot n : Nat} {t : Trap} {q : Wait}

theorem issueChain_unread (h : State.fetchChain u.pool u.e.cont.isSome 3 u.e.pc u = (s2, .error (p, r))) :
    issueChain ex u = commit (scalarStop (u.codeVa p) u r) := by
  unfold issueChain
  simp only [h]

theorem commit_scalarStop_page (va : Word64) : commit (scalarStop va u .page) = .next (u.takePage u.here none va).stop := rfl

theorem commit_scalarStop_prot (va : Word64) :
    commit (scalarStop va u (.prot n)) = .next (u.takeTrap u.here (tProt n none (some va))).stop := rfl

theorem commit_scalarStop_wait (va : Word64) : commit (scalarStop va u (.wait q)) = .next (u.parkHere q).stop := rfl

theorem issueChain_badCode (h : State.fetchChain u.pool u.e.cont.isSome 3 u.e.pc u = (s2, .ok is))
    (ha : u.g.isAgent = false) (hb : s2.badCode (itemPcs u.pool is) = some line) :
    issueChain ex u = .next (s2.uncorrectable line).stop := by
  unfold issueChain
  simp only [h, ha, hb, Bool.false_eq_true, if_false]

/-- The words of a chain are fetched, and no line of its code has an error that a party meets. -/
structure Fetched (u s2 : State) (is : List Item) : Prop where
  words : State.fetchChain u.pool u.e.cont.isSome 3 u.e.pc u = (s2, .ok is)
  clean : u.g.isAgent = true ∨ s2.badCode (itemPcs u.pool is) = none

/-- The trap that the issue of a chain comes to. -/
def IssueTraps (ex : Meaning) (u s2 : State) (t : Trap) (slot : Nat) : Prop :=
  issueChain ex u = .next (s2.takeTrap ⟨u.cur.gid, u.cur.ent, u.e.pc, slot⟩ t).stop

theorem Fetched.badCode (h : Fetched u s2 is) :
    (if u.g.isAgent then none else s2.badCode (itemPcs u.pool is)) = none := by
  rcases h.clean with ha | hb
  · rw [if_pos ha]
  · rw [hb, ite_self]

theorem issueChain_traps (h : Fetched u s2 is)
    (hc : checkChain u.pool u.e.cont.isSome u.g.isAgent is = some (t, slot)) : IssueTraps ex u s2 t slot := by
  unfold IssueTraps issueChain
  simp only [h.words, h.badCode, hc]

/-- The words of a chain pass the checks of R143. -/
structure Passed (u s2 : State) (is : List Item) : Prop extends Fetched u s2 is where
  checks : checkChain u.pool u.e.cont.isSome u.g.isAgent is = none

theorem issueChain_copyWaits (h : Passed u s2 is) (hc : s2.cowCopy (is.flatMap Item.dests) = .wait q) :
    issueChain ex u = .next (u.parkHere q).stop := by
  unfold issueChain
  simp only [h.words, h.badCode, h.checks, hc]
  rfl

theorem issueChain_copyFaults (h : Passed u s2 is) (hc : s2.cowCopy (is.flatMap Item.dests) = .fault) :
    issueChain ex u = .next (u.saveFail u.g.bid 0x42) := by
  unfold issueChain
  simp only [h.words, h.badCode, h.checks, hc]

theorem issueChain_copyBad (h : Passed u s2 is) (hc : s2.cowCopy (is.flatMap Item.dests) = .bad line) :
    issueChain ex u = .next (u.blockBad u.g.bid line) := by
  unfold issueChain
  simp only [h.words, h.badCode, h.checks, hc]

theorem issueChain_alone {i : Item} {d : Decoded} (h : Passed u s2 [i]) (hc : s2.cowCopy i.dests = .ok s3)
    (hd : i.instr u.pool = .ok d) : issueChain ex u =
      andThen (ex d.instr { s3 with chain := u.aloneChain u.e.pc, next := u.e.cont.getD (pcAdd u.e.pc d.words) })
        fun v => .next (v.settleAlone u.cur u.e) := by
  have hc' : s2.cowCopy ([i].flatMap Item.dests) = .ok s3 := by rwa [List.flatMap_singleton]
  unfold issueChain
  simp only [h.words, h.badCode, h.checks, hc', hd]

/-- The state on which the words of a chain act: the registers of before it, and the word after it. -/
def chainState (u s3 : State) (last : Item) (n : Nat) : State :=
  { s3 with chain := some ⟨u.e.pc, pcSlot u.e.pc, s3.g⟩, next := pcAdd last.pc n }

/-- The outcome of the word of a chain that decides: the first that fails a check of its fields, else the first that
stops. -/
def decidingOutcome (v : State) (os : List (Host.Outcome State Fault Refusal)) :
    Option (Host.Outcome State Fault Refusal) :=
  (os.find? (misfielded v)).or (os.find? (stopped v))

theorem issueChain_chain {last : Item} {e : Instr} (h : Passed u s2 is) (hlen : 2 ≤ is.length)
    (hc : s2.cowCopy (is.flatMap Item.dests) = .ok s3) (hlast : is.getLast? = some last)
    (hd : last.instr u.pool = .ok ⟨e, n⟩) : issueChain ex u =
      (decidingOutcome (chainState u s3 last n) (is.map (runItem ex u.pool (chainState u s3 last n)))).getD
        (runChain ex u.pool is (chainState u s3 last n)) := by
  obtain ⟨a, b, l, rfl⟩ : ∃ a b l, is = a :: b :: l := by
    match is, hlen with
    | a :: b :: l, _ => exact ⟨a, b, l, rfl⟩
  have hlastD (d : Item) : (a :: b :: l).getLastD d = last := by
    rw [List.getLastD_eq_getLast?, hlast]
    rfl
  unfold issueChain
  simp only [h.words, h.badCode, h.checks, hc, hlastD, hd]
  generalize ho : decidingOutcome (chainState u s3 last n) _ = o
  change (match decidingOutcome (chainState u s3 last n)
    ((a :: b :: l).map (runItem ex u.pool (chainState u s3 last n))) with | some o => o | none => _) = _
  rw [ho]
  cases o <;> rfl

end

/-! ### A chain of two words, one of them on the B pipe (R133) -/

section
variable {ex : Meaning} {pool : Bool} {v : State} {i j : Item}

theorem runItems_pair (a b : Item) : runItems ex pool [a, b] v =
    andThen (runItem ex pool v a) fun x => if x.running then runItem ex pool x b else .next x := by
  simp only [runItems, andThen_skip]

theorem runChain_of_no_wait {is : List Item} (h : ∀ i ∈ is, waits i.op = false) : runChain ex pool is v =
    runItems ex pool ((is.filter fun i => pipeOf i.op != some .b) ++ is.filter fun i => pipeOf i.op == some .b) v := by
  have hno : (is.filter fun i => waits i.op) = [] := List.filter_eq_nil_iff.mpr fun i hi => by simp [h i hi]
  have hrest : (is.filter fun i => pipeOf i.op != some .b && !waits i.op) = is.filter fun i => pipeOf i.op != some .b :=
    List.filter_congr fun i hi => by simp [h i hi]
  unfold runChain
  simp only [hno, hrest, List.isEmpty_nil, if_true]

theorem runChain_pair (hi : waits i.op = false) (hj : waits j.op = false) (a b : Item)
    (hab : a = i ∧ b = j ∨ a = j ∧ b = i) (ha : pipeOf a.op ≠ some .b) (hb : pipeOf b.op = some .b) :
    runChain ex pool [i, j] v =
      andThen (runItem ex pool v a) fun x => if x.running then runItem ex pool x b else .next x := by
  rw [runChain_of_no_wait (by simp [hi, hj]), ← runItems_pair]
  have ha' : (pipeOf a.op == some Pipe.b) = false := beq_eq_false_iff_ne.mpr ha
  rcases hab with ⟨rfl, rfl⟩ | ⟨rfl, rfl⟩ <;> simp [hb, ha', bne]

/-- Of two words that pass the first check of R143, one is not on the pipe of the other. -/
theorem not_sharedPipe {is : List Item} (h : is.find? (Item.badPacket pool false is) = none) (hi : i ∈ is) (hj : j ∈ is)
    (hne : i.pc ≠ j.pc) {y : Pipe} (hy : pipeOf j.op = some y) : pipeOf i.op ≠ some y := fun hiy =>
  List.find?_eq_none.mp h i hi ((Item.badPacket_iff i).mpr (.inr (.inr ⟨j, hj, hne, .inl ⟨y, hiy, hy⟩⟩)))

end

end Sys2Proof.Machine
end

section
/-! PROOFS. The clauses of O58 about the fragment that a step has chosen: what its word meets, a word alone, a chain. -/

namespace Sys2Proof.Machine

/-! ### A word alone -/

section
variable {u s2 : State} {d : Decoded} {i : Item}

/-- The first check of R143 for a word alone. -/
theorem find?_badPacket_alone (hw : i.w.msb = false ∨ u.e.cont.isSome = true)
    (hk : pcSlot i.pc + 1 + i.lits u.pool ≤ 3) : [i].find? (Item.badPacket u.pool u.e.cont.isSome [i]) = none :=
  find?_alone_none (by rw [Item.badPacket_alone hw, decide_eq_false_iff_not]; omega)

theorem alone_trapsPacket (h : Fetched u s2 [i]) (hw : i.w.msb = false ∨ u.e.cont.isSome = true)
    (hk : 3 < pcSlot i.pc + 1 + i.lits u.pool) : IssueTraps exec u s2 tPacket (pcSlot i.pc) :=
  issueChain_traps h (checkChain_packet (find?_alone (by rw [Item.badPacket_alone hw, decide_eq_true_eq]; exact hk)))

section
variable (h : Fetched u s2 [i]) (hw : i.w.msb = false ∨ u.e.cont.isSome = true)
  (hk : pcSlot i.pc + 1 + i.lits u.pool ≤ 3)
include h hw hk

theorem alone_trapsInstruction (ho : assigned i.op = false) :
    IssueTraps exec u s2 tInstruction (pcSlot i.pc) :=
  issueChain_traps h (checkChain_opcode (find?_badPacket_alone hw hk) (find?_alone (by simp [ho])))

theorem alone_trapsAgentOnly (ho : i.op = 0x3DC) (ha : u.g.isAgent = false) :
    IssueTraps exec u s2 (tProt 6 none none) (pcSlot i.pc) := by
  have hassigned : ∀ j ∈ [i], assigned j.op = true := by simp only [List.mem_singleton, forall_eq, ho]; decide
  exact issueChain_traps h (checkChain_agentOnly (find?_badPacket_alone hw hk) hassigned ha (find?_alone (by simp [ho])))

variable (ho : assigned i.op = true) (ha : i.op ≠ 0x3DC ∨ u.g.isAgent = true)
include ho ha

omit h in
/-- Past the first three checks, that of the encoding decides. -/
theorem alone_checks : checkChain u.pool u.e.cont.isSome u.g.isAgent [i] =
    ([i].find? (Item.badEncoding u.pool u.g.isAgent)).map fun i => (tEncoding, pcSlot i.pc) :=
  checkChain_of_agentOnly (find?_badPacket_alone hw hk) (by simp [ho]) (by simpa using ha.symm)

theorem alone_trapsEncoding (hb : i.badEncoding u.pool u.g.isAgent = true) :
    IssueTraps exec u s2 tEncoding (pcSlot i.pc) :=
  issueChain_traps h ((alone_checks hw hk ho ha).trans (by rw [find?_alone hb]; rfl))

theorem alone_passes (hb : i.badEncoding u.pool u.g.isAgent = false) : Passed u s2 [i] :=
  { h with checks := (alone_checks hw hk ho ha).trans (by rw [find?_alone_none hb]; rfl) }

end

theorem Item.badEncoding_of_error {pool agent : Bool} {r : Reject} (h : i.instr pool = .error r) :
    i.badEncoding pool agent = true := by rw [Item.badEncoding, h]

theorem Item.badEncoding_of_ok {pool agent : Bool} (h : i.instr pool = .ok d) :
    i.badEncoding pool agent = (!agent && agentReg d.instr) := by rw [Item.badEncoding, h]

end

/-! ### A chain -/

section
variable {u s2 : State} {is : List Item} {i : Item}

theorem chain_trapsPacket (h : Fetched u s2 is) (hone : u.e.cont.isSome = false)
    (hi : is.find? (Item.badPacket u.pool false is) = some i) : IssueTraps exec u s2 tPacket (pcSlot i.pc) :=
  issueChain_traps h (checkChain_packet (by rwa [hone]))

variable (h : Fetched u s2 is) (hone : u.e.cont.isSome = false)
  (hp : is.find? (Item.badPacket u.pool false is) = none)
include h hone hp

theorem chain_trapsInstruction (hi : is.find? (fun i => !assigned i.op) = some i) :
    IssueTraps exec u s2 tInstruction (pcSlot i.pc) :=
  issueChain_traps h (checkChain_opcode (by rwa [hone]) hi)

variable (ho : ∀ i ∈ is, assigned i.op = true)
include ho

theorem chain_trapsAgentOnly (ha : u.g.isAgent = false) (hi : is.find? (fun i => i.op == 0x3DC) = some i) :
    IssueTraps exec u s2 (tProt 6 none none) (pcSlot i.pc) :=
  issueChain_traps h (checkChain_agentOnly (by rwa [hone]) ho ha hi)

variable (ha : u.g.isAgent = true ∨ ∀ i ∈ is, i.op ≠ 0x3DC)
include ha

theorem chain_trapsEncoding (hi : is.find? (Item.badEncoding u.pool u.g.isAgent) = some i) :
    IssueTraps exec u s2 tEncoding (pcSlot i.pc) :=
  issueChain_traps h ((checkChain_of_agentOnly (by rwa [hone]) ho ha).trans (by rw [hi]; rfl))

theorem chain_passes (hb : is.find? (Item.badEncoding u.pool u.g.isAgent) = none) : Passed u s2 is :=
  { h with checks := (checkChain_of_agentOnly (by rwa [hone]) ho ha).trans (by rw [hb]; rfl) }

end

/-- The B pipe's word of a chain of two comes last, and the other's on another pipe. -/
theorem runChain_branchLast {u s2 v : State} {i j b : Item}
    (hf : State.fetchChain u.pool false 3 u.e.pc u = (s2, .ok [i, j]))
    (hp : [i, j].find? (Item.badPacket u.pool false [i, j]) = none) (hij : b = i ∨ b = j) (hi : waits i.op = false)
    (hj : waits j.op = false) (hb : pipeOf b.op = some .b) :
    runChain exec u.pool [i, j] v = andThen (runItem exec u.pool v (if b = i then j else i)) fun x =>
      if x.running then runItem exec u.pool x b else .next x := by
  have hne : i.pc ≠ j.pc := fetchChain_pair hf
  have hmem : i ∈ [i, j] ∧ j ∈ [i, j] := by simp
  by_cases he : b = i
  · subst he
    rw [if_pos rfl]
    exact runChain_pair hi hj j b (.inr ⟨rfl, rfl⟩) (not_sharedPipe hp hmem.2 hmem.1 hne.symm hb) hb
  · obtain rfl := hij.resolve_left he
    rw [if_neg he]
    exact runChain_pair hi hj i b (.inl ⟨rfl, rfl⟩) (not_sharedPipe hp hmem.1 hmem.2 hne hb) hb

/-! ### The step -/

section
variable {s u s2 v : State} {r : LRes} {p : PC} {n : Nat} {is : List Item} {o : Host.Outcome State Fault Refusal}

/-- The step issues the word or chain of a fragment, in the state in which it has been chosen, and nothing comes before
its fetch. -/
def Issues (s u : State) : Prop := step s = andThen (issueChain exec u) fun v => .next v.finish

theorem issues_of_chosen (h : step s = andThen (u.withSram (issueWith exec)) fun v => .next v.finish) (hs : u.sramMet = [])
    (hv : u.vaultWaits u.cur.gid = []) : Issues s u := by
  rw [Issues, h, State.withSram_clean hs, issueWith_free hv]

theorem Issues.outcome (h : Issues s u) (ho : issueChain exec u = o) : step s = andThen o fun v => .next v.finish :=
  ho ▸ h

theorem Issues.next (h : Issues s u) (ho : issueChain exec u = .next v) : step s = .next v.finish := h.outcome ho

/-- What a fetch that fails comes to. -/
theorem Issues.unread (h : Issues s u)
    (hf : State.fetchChain u.pool u.e.cont.isSome 3 u.e.pc u = (s2, .error (p, r))) :
    (r = .page → step s = .next (u.takePage u.here none (u.codeVa p)).stop.finish) ∧
    (∀ n, r = .prot n → step s = .next (u.takeTrap u.here (tProt n none (some (u.codeVa p)))).stop.finish) ∧
    (∀ q, r = .wait q → step s = .next (u.parkHere q).stop.finish) := by
  have hi := h.outcome (issueChain_unread hf)
  refine ⟨?_, fun n => ?_, fun q => ?_⟩ <;> rintro rfl <;> exact hi

/-- What a copy of a save handler that fails comes to. -/
theorem Issues.copies (h : Issues s u) (hp : Passed u s2 is) :
    (∀ q, s2.cowCopy (is.flatMap Item.dests) = .wait q → step s = .next (u.parkHere q).stop.finish) ∧
    (s2.cowCopy (is.flatMap Item.dests) = .fault → step s = .next (u.saveFail u.g.bid 0x42).finish) ∧
    (∀ n, s2.cowCopy (is.flatMap Item.dests) = .bad n → step s = .next (u.blockBad u.g.bid n).finish) :=
  ⟨fun _ hc => h.next (issueChain_copyWaits hp hc), fun hc => h.next (issueChain_copyFaults hp hc),
    fun _ hc => h.next (issueChain_copyBad hp hc)⟩

end

/-- The opcode of a word does not depend on its chain bit. -/
theorem opcode_eq (w : Word32) : w.toNat / 2 ^ 21 % 2 ^ 10 = opOf (w.toNat % 2 ^ 31) := by
  unfold opOf
  omega

/-- Settles O58: the branches of a step, then the stages of the issue of a word and of a chain, each by its lemma. -/
theorem stepRuns : Obligations.StepRuns := by
  intro s s1 s2 s3 e t c cs w ls d is o r p line
  refine ⟨step_off_idle, step_off_event, step_off_passes, step_event, step_internal, step_units, step_idle,
    fun h ha hi hu hp => ?_⟩
  have hchosen := step_issue h ha hi hu hp
  generalize s.issuing c cs = u at *
  refine ⟨fun x hag hx => ?sramEnds, fun hne hx => ?sramMet, fun q qs v hs hq hv => ?held, fun hs hv => ?_⟩
  case sramEnds => rw [hchosen, State.withSram_ends hag hx]; rfl
  case sramMet => rw [hchosen, State.withSram_corrected hne hx]
  case held => rw [hchosen, State.withSram_clean hs, issueWith_held hq hv]; rfl
  have hi : Issues s u := issues_of_chosen hchosen hs hv
  rw [opcode_eq w]
  intro op k i
  refine ⟨fun hw => hi.unread (fetchChain_unread hw), fun hw hl => hi.unread (fetchChain_unreadLiteral hw hl),
    fun hf hag hb => hi.next (issueChain_badCode hf hag hb), fun hw hone hl hclean => ?alone,
    fun hcont hf hclean => ?chain⟩
  case alone =>
    have hf : Fetched u s2 [i] := ⟨fetchChain_alone hw hone hl, hclean⟩
    refine ⟨fun hk => hi.next (alone_trapsPacket (i := i) hf hone hk), fun hk =>
      ⟨fun ho => hi.next (alone_trapsInstruction (i := i) hf hone hk ho),
      fun ho hag => hi.next (alone_trapsAgentOnly (i := i) hf hone hk ho hag), fun ho hag =>
      ⟨fun hd => hi.next (alone_trapsEncoding (i := i) hf hone hk ho hag (Item.badEncoding_of_error hd)), fun hd =>
      ?_⟩⟩⟩
    have henc : i.badEncoding u.pool u.g.isAgent = (!u.g.isAgent && agentReg d.instr) := Item.badEncoding_of_ok hd
    refine ⟨fun hr hna => ?_, fun hr => ?_⟩
    · exact hi.next (alone_trapsEncoding (i := i) hf hone hk ho hag (by rw [henc, hr, hna]; rfl))
    · have hgood : i.badEncoding u.pool u.g.isAgent = false := by rw [henc]; rcases hr with hr | hr <;> simp [hr]
      have hpass := alone_passes (i := i) hf hone hk ho hag hgood
      refine ⟨hi.copies hpass, fun hc => ?_⟩
      rw [hi.outcome (issueChain_alone hpass hc hd), andThen_assoc]
      rfl
  case chain =>
    have hone : u.e.cont.isSome = false := by rw [hcont]; rfl
    have hfetch : Fetched u s2 is := ⟨by rwa [hone], hclean⟩
    refine ⟨fun i _ => i.badPacket_iff, fun i hb => hi.next (chain_trapsPacket hfetch hone hb), fun hb =>
      ⟨fun i ho => hi.next (chain_trapsInstruction hfetch hone hb ho), fun ho =>
      ⟨fun i hag hx => hi.next (chain_trapsAgentOnly hfetch hone hb ho hag hx), fun hag =>
      ⟨fun i he => hi.next (chain_trapsEncoding hfetch hone hb ho hag he), fun he => ?_⟩⟩⟩⟩
    have hpass := chain_passes hfetch hone hb ho hag he
    refine ⟨hi.copies hpass, fun last n hlen hc hlast hd => ?_⟩
    have hstep := hi.outcome (issueChain_chain hpass hlen hc hlast hd)
    refine ⟨fun x hx => ?_, fun x hm hx => ?_, fun hm hx => ?_, fun i j b hij hbij hwi hwj hpipe => ?_⟩
    · rw [hstep, decidingOutcome, chainState, hx]; rfl
    · rw [hstep, decidingOutcome, chainState, hm, hx]; rfl
    · rw [hstep, decidingOutcome, chainState, hm, hx]; rfl
    · subst hij
      exact runChain_branchLast hf hb hbij hwi hwj hpipe

end Sys2Proof.Machine
end

section
/-! PROOFS. The lane moves, VTOS and BALLOT of a group (R179, R200 to R202, R204), and the instructions that recall a
Loupe thread (R60). -/

namespace Sys2Proof.Machine

/-! ### Recall (R60) -/

section
variable {s : State} {i : Instr} (hl : s.g.isLoupe = true)
include hl

theorem groupOnly_recalls (f : State → Eff) : commit (s.groupOnly f) = .next (s.recallAt s.cur.gid).stop := by
  rw [State.groupOnly, if_pos hl]
  rfl

/-- A Zoom instruction reaches the Loupe's check where the context has the feature. -/
theorem onZoom_recalls (hf : s.feature 20 = true) (f : State → Eff) :
    commit (s.onZoom f) = .next (s.recallAt s.cur.gid).stop := by
  rw [State.onZoom, if_neg (by simp [hf])]
  exact groupOnly_recalls hl _

/-- QRESTART looks for an agent first, which a Loupe thread is not. -/
theorem qrestart_recalls (d : Fin 64) (a : Fin 63) (h : Bool) :
    exec (.qrestart d a h) s = .next (s.recallAt s.cur.gid).stop := by
  have ha : s.g.isAgent = false := by
    unfold Group.isLoupe at hl
    unfold Group.isAgent
    split at hl
    next hk => rw [hk]; rfl
    next => cases hl
  change execQrestart d a h s = _
  rw [execQrestart, ha, hl]
  rfl

/-- Every instruction that R60 lists is for a group alone. -/
theorem exec_recalls (hi : recallsThread i = true) (hz : zoomClass i = true → s.feature 20 = true) :
    exec i s = .next (s.recallAt s.cur.gid).stop := by
  cases i
  case zrst | zprl | zcpy | ztbl => exact onZoom_recalls hl (hz rfl) _
  case qrestart => exact qrestart_recalls hl _ _ _
  case qswx | qswy | qswd | qbc | lshfl | lbc | lscanAdd | lscanMax | lredAdd | lredMax | lredMin | lredOr | ballot
      | syncm | vtos | dxenc | bar | cbar | swp | swpr | swpc | itrst | mma | mmac | mzero | mrd | mwr | ldac | stac
      | pcpy | pcpyi | pcpys | padd | tcinc | qpubClaim | qpubPub | qrel | qerr | qstat | waitq | temit | tdone | swr
      | trap | bkpt | tret | hdone => exact groupOnly_recalls hl _
  all_goals cases hi

end

/-! ### Quads, shuffle, broadcast and VTOS (R179, R201, R202) -/

theorem commit_groupOnly {s : State} (hl : s.g.isLoupe = false) (f : State → Eff) :
    commit (s.groupOnly f) = commit (f s) := by
  rw [State.groupOnly, hl]
  rfl

section
variable {s : State} (hl : s.g.isLoupe = false)
include hl

/-- A move between lanes gives each active lane the value of the lane that it names. -/
theorem setsInts_permute {i : Instr} {w : Wid} {d a : Fin 96} {src : Nat → Nat} (h : exec i s = s.permute w d a src) :
    SetsInts i s false (Wid.width w) d fun l => s.oldD (Wid.width w) a (src l) :=
  setsInts_of (h.trans (commit_groupOnly hl _))

theorem lshfl_setsInts (d a : Fin 96) (b : Src) :
    SetsInts (.lshfl d a b) s false 32 d fun l => s.laneAt a (s.srcI b .i32 l) :=
  setsInts_of (commit_groupOnly hl _)

theorem lbc_setsInts (d a : Fin 96) (ix : LbcSrc) :
    SetsInts (.lbc (.v d) a ix) s false 32 d fun _ => s.laneAt a (s.lbcIx ix) :=
  setsInts_of (commit_groupOnly hl _)

theorem lbc_setsS (r : Fin 16) (a : Fin 96) (ix : LbcSrc) :
    SetsS (.lbc (.s r) a ix) s r.val (BitVec.ofNat 64 (s.laneAt a (s.lbcIx ix))) :=
  setsS_scalar (d := r.castLE (by decide)) (commit_groupOnly hl _)

theorem vtos_setsS (d sa : Fin 64) (a : Fin 96) :
    SetsS (.vtos d sa a) s d.val (BitVec.ofNat 64 (s.laneAt a (s.readS sa.val).toNat)) := by
  refine setsS_scalar ((commit_groupOnly hl _).trans ?_)
  have hx : (if (s.readS sa.val).toNat < 96 then (s.readV a.val (s.readS sa.val).toNat).zeroExtend 64 else 0) =
      BitVec.ofNat 64 (s.laneAt a (s.readS sa.val).toNat) := by
    unfold State.laneAt
    split
    · exact BitVec.eq_of_toNat_eq (by simp)
    · rfl
  dsimp only
  rw [hx]
  rfl

end

/-! ### BALLOT (R204) -/

/-- Word w of a lane set holds its lanes 32 w to 32 w + 31, and nothing above them. -/
theorem maskWord_toNat_lt (m : Mask) (w : Nat) : (maskWord m w).toNat < 2 ^ 32 := by
  rw [maskWord, BitVec.zeroExtend, BitVec.toNat_setWidth_of_le (by decide)]
  exact BitVec.isLt _

theorem maskWord_getLsbD (m : Mask) (w : Nat) {k : Nat} (hk : k < 32) :
    (maskWord m w).getLsbD k = Mask.has m (32 * w + k) := by
  simp [maskWord, Mask.has, hk, show k < 64 by omega]

/-- The scalars of a group once three of them from d on hold a lane set. -/
def ballotScalars (sc : Store Word64) (d : Nat) (m : Mask) : Store Word64 :=
  (List.range 3).foldl (fun sc w => sc.set 0 (d + w) (maskWord m w)) sc

theorem ballotScalars_get (sc : Store Word64) (d : Nat) (m : Mask) {j : Nat} (hj : j < 3) :
    (ballotScalars sc d m).get 0 (d + j) = maskWord m j := by
  have hj : j = 0 ∨ j = 1 ∨ j = 2 := by omega
  rcases hj with rfl | rfl | rfl <;> simp [ballotScalars, List.range_succ]

theorem ballotScalars_others (sc : Store Word64) (d : Nat) (m : Mask) {j : Nat} (hj : j < d ∨ d + 3 ≤ j) :
    (ballotScalars sc d m).get 0 j = sc.get 0 j := by
  have h0 : j ≠ d := by omega
  have h1 : j ≠ d + 1 := by omega
  have h2 : j ≠ d + 2 := by omega
  simp [ballotScalars, List.range_succ, h0, h1, h2]

theorem exec_ballot {s : State} (hl : s.g.isLoupe = false) (d : Fin 14) (p : Fin 8) :
    exec (.ballot d p) s =
      commit (.ok (s.setG { s.g with s := ballotScalars s.g.s d.val (s.actNH &&& s.readP p.val) })) := by
  refine (commit_groupOnly hl _).trans ?_
  have h0 : d.val < 61 := by omega
  have h1 : d.val + 1 < 61 := by omega
  have h2 : d.val + 2 < 61 := by omega
  simp [List.range_succ, State.writeS, ballotScalars, h0, h1, h2]

/-- The lanes of the ballot, as three words. -/
theorem ballot_completes {s : State} (hl : s.g.isLoupe = false) (d : Fin 14) (p : Fin 8) :
    Completes (.ballot d p) s fun t =>
      OnlyGroup s t ∧ Went s t s.next ∧
      (∀ j < 3, (t.g.s.get 0 (d.val + j)).toNat < 2 ^ 32 ∧ ∀ k < 32, (t.g.s.get 0 (d.val + j)).getLsbD k =
        (Mask.has s.actNH (32 * j + k) && Mask.has (s.readP p.val) (32 * j + k))) ∧
      (∀ j, j < d.val ∨ d.val + 3 ≤ j → t.g.s.get 0 j = s.g.s.get 0 j) ∧
      t.g = { s.g with s := t.g.s, tab := t.g.tab } := by
  refine ⟨_, (exec_ballot hl d p).trans (commit_ok_setG s _), onlyGroup_setG _ _, went_setG s _ _ rfl,
    fun j hj => ?_, fun j hj => ?_, by simp [Group.setEnt]⟩
  · simp only [State.g_setG, Group.s_setEnt, ballotScalars_get _ _ _ hj]
    refine ⟨maskWord_toNat_lt _ j, fun k hk => ?_⟩
    rw [maskWord_getLsbD _ j hk]
    exact BitVec.getLsbD_and
  · simpa using ballotScalars_others s.g.s d.val _ hj

/-- Settles O19: `exec_recalls` on a Loupe thread; in a group a lemma for each form of move. -/
theorem laneMoves : Obligations.LaneMoves := by
  refine ⟨fun s i hl hi hz => exec_recalls hl hi hz, fun s hl w k a d b ix sd sa r d3 p => ?_⟩
  exact ⟨setsInts_permute hl rfl, setsInts_permute hl rfl, setsInts_permute hl rfl, setsInts_permute hl rfl,
    lshfl_setsInts hl d a b, lbc_setsInts hl d a ix, lbc_setsS hl r a ix, vtos_setsS hl sd sa a, ballot_completes hl d3 p⟩

end Sys2Proof.Machine
end

section
/-! PROOFS. BRD with the eject permit (R53, R56, R58, R158): the read of its ejection entry, the threads of the ejected
lanes, and the group that is left. -/

namespace Sys2Proof.Machine

/-! ### What stands while only memory is acted on -/

section
variable {s t : State} (h : MemOnly s t)
include h

theorem MemOnly.setTlb (q : List TlbEntry) : MemOnly s { t with tlb := q } := ⟨by rw [h.1], h.2⟩

theorem MemOnly.setVaults (v : Store Byte) (o : Store Vown) (q : List VWrite) :
    MemOnly s { t with vault := v, vown := o, vq := q } := ⟨by rw [h.1], h.2⟩

theorem MemOnly.groups : t.groups = s.groups := by rw [h.1]

theorem MemOnly.cur : t.cur = s.cur := by rw [h.1]

theorem MemOnly.chain : t.chain = s.chain := by rw [h.1]

theorem MemOnly.next : t.next = s.next := by rw [h.1]

theorem MemOnly.clock : t.clock = s.clock := by rw [h.1]

theorem MemOnly.blocks : t.blocks = s.blocks := by rw [h.1]

theorem MemOnly.group (i : Nat) : t.group i = s.group i := by rw [State.group, h.groups]; rfl

theorem MemOnly.g : t.g = s.g := by rw [State.g, h.groups, h.cur]; rfl

theorem MemOnly.e : t.e = s.e := by rw [State.e, h.g, h.cur]; rfl

theorem MemOnly.rg : t.rg = s.rg := by rw [State.rg, h.chain, h.g]; rfl

theorem MemOnly.active : t.active = s.active := by rw [State.active, State.re, h.rg, h.cur]; rfl

theorem MemOnly.readP (k : Nat) : t.readP k = s.readP k := by rw [State.readP, h.rg]; rfl

theorem MemOnly.wordPc : t.wordPc = s.wordPc := by rw [State.wordPc, h.chain, h.e]; rfl

theorem MemOnly.blk : t.blk = s.blk := by rw [State.blk, h.blocks, h.g]; rfl

/-- An agent has every feature; any other party's context stands. -/
theorem MemOnly.feature (i : Nat) : t.feature i = s.feature i := by
  unfold State.feature
  rw [h.g]
  cases ha : s.g.isAgent
  · obtain ⟨-, -, -, -, -, hc⟩ := h.2 ha
    have hm : t.myCtx = s.myCtx := by unfold State.myCtx State.ctx; rw [h.blk, hc]
    rw [hm]
  · rfl

theorem MemOnly.clu : t.clu = s.clu := by simp [State.clu, State.core, State.homeGid, h.g, h.cur]

theorem MemOnly.freeThreads (k : Nat) : t.freeThreads k = s.freeThreads k := by
  simp [State.freeThreads, State.freeCtxs, h.group]

/-! ### Reads of bytes and releases act on memory alone -/

theorem MemOnly.translate (va : Word64) (need : Need) : MemOnly s (t.translate va need).1 := by
  unfold State.translate
  split
  · exact h
  · split
    · exact h
    · exact (memOnly_memSafe s).translateIn (fun _ q hs => hs.setTlb q) _ _ _ _ _ _ _ h

theorem MemOnly.fetchBytes (need : Need) (n : Nat) (va : Word64) : MemOnly s (State.fetchBytes need n va t).1 := by
  induction n generalizing t va with
  | zero => exact h
  | succ n ih =>
    have ht := h.translate va need
    unfold State.fetchBytes
    split
    next u pa heq =>
      rw [heq] at ht
      have hr := ih ((memOnly_memSafe s).readPkg (u.asidFor va) pa 1 ht) (va + 1)
      dsimp only
      split
      next heq' => rw [heq'] at hr; exact hr
      next heq' => rw [heq'] at hr; exact hr
    next heq => rw [heq] at ht; exact ht
    next heq => rw [heq] at ht; exact ht
    next heq => rw [heq] at ht; exact ht

theorem MemOnly.ackVaults (gid : Nat) : MemOnly s (t.ackVaults gid) :=
  foldl_keeps _ (fun u w hu => by
    split
    · exact hu
    · exact hu.setVaults _ _ _) _ (h.setVaults _ _ _)

theorem MemOnly.relScope (y : Scope) : MemOnly s (t.relScope y) :=
  (memOnly_memSafe s).drain _ _ (((memOnly_memSafe s).drainCore _ h).ackVaults _)

end

/-! ### Loupe contexts (R57, R58) -/

/-- The numbers of the Loupe contexts of a cluster. -/
def threadIds (clu : Nat) : List Nat := (List.range 64).map (16384 + 64 * clu + ·)

theorem threadIds_nodup (clu : Nat) : (threadIds clu).Nodup := List.nodup_range.map fun _ _ h => by simpa using h

theorem le_of_mem_threadIds {clu tid : Nat} (h : tid ∈ threadIds clu) : 16384 ≤ tid := by
  obtain ⟨_, _, rfl⟩ := List.mem_map.mp h
  omega

theorem State.freeThreads_eq (s : State) (clu : Nat) :
    s.freeThreads clu = (threadIds clu).countP fun tid => !(s.group tid).live := by
  have h64 : List.range 64 = (List.range 4).flatMap fun k => (List.range 16).map (16 * k + ·) := by decide
  rw [threadIds, h64, List.countP_map, List.countP_flatMap]
  simp [State.freeThreads, State.freeCtxs, List.countP_eq_length_filter, List.filter_map, Function.comp_def, tidOf,
    Nat.add_assoc]

/-- Contexts are counted by the groups that stand in them. -/
theorem State.freeThreads_congr {s t : State} {clu : Nat} (h : ∀ tid, 16384 ≤ tid → t.group tid = s.group tid) :
    t.freeThreads clu = s.freeThreads clu := by
  rw [State.freeThreads_eq, State.freeThreads_eq]
  exact List.countP_congr fun tid ht => by rw [h tid (le_of_mem_threadIds ht)]

/-- One context taken leaves all others. -/
theorem State.freeThreads_le_setGroup (s : State) (clu tid : Nat) (g : Group) :
    s.freeThreads clu ≤ (s.setGroup tid g).freeThreads clu + 1 := by
  let free := fun (s : State) i => !(s.group i).live
  have hcount : ∀ t : State, t.freeThreads clu = (threadIds clu).countP (free t) := fun t => t.freeThreads_eq clu
  have hsame : ((threadIds clu).erase tid).countP (free s) = ((threadIds clu).erase tid).countP (free (s.setGroup tid g)) :=
    List.countP_congr fun i hi => by
      have hne : i ≠ tid := ((threadIds_nodup clu).mem_erase_iff.mp hi).1
      simp [free, hne]
  have hone : (threadIds clu).countP (free s) ≤ ((threadIds clu).erase tid).countP (free s) + 1 := by
    rw [List.countP_erase]
    split <;> omega
  have hsub := (threadIds clu).erase_sublist (a := tid) |>.countP_le (p := free (s.setGroup tid g))
  rw [hcount, hcount]
  omega

/-- The choice of the largest of some numbers. -/
theorem le_foldl_larger (f : Nat → Nat) (l : List Nat) (b : Nat) :
    f b ≤ f (l.foldl (fun b k => if f b < f k then k else b) b) ∧
      ∀ k ∈ l, f k ≤ f (l.foldl (fun b k => if f b < f k then k else b) b) := by
  induction l generalizing b with
  | nil => simp
  | cons x l ih =>
    obtain ⟨hb, hl⟩ := ih (if f b < f x then x else b)
    have hmax : f b ≤ f (if f b < f x then x else b) ∧ f x ≤ f (if f b < f x then x else b) := by split <;> omega
    exact ⟨hmax.1.trans hb, List.forall_mem_cons.mpr ⟨hmax.2.trans hb, hl⟩⟩

/-- While a context of the cluster is free, the allocator gives one. -/
theorem State.allocThread_isSome {s : State} {clu : Nat} (h : 0 < s.freeThreads clu) :
    ∃ tid, s.allocThread clu = some tid := by
  let n := fun k => (s.freeCtxs clu k).length
  let best := (List.range 4).foldl (fun b k => if n b < n k then k else b) 0
  have hne : s.freeCtxs clu best ≠ [] := by
    intro h0
    have hle := (le_foldl_larger n (List.range 4) 0).2
    have hall : ∀ x ∈ (List.range 4).map n, x = 0 := fun x hx => by
      obtain ⟨k, hk, rfl⟩ := List.mem_map.mp hx
      have := hle k hk
      have hb : n best = 0 := List.length_eq_zero_iff.mpr h0
      exact Nat.le_zero.mp (this.trans_eq hb)
    exact absurd (List.sum_eq_zero hall) h.ne'
  obtain ⟨c, l, hc⟩ := List.exists_cons_of_ne_nil hne
  exact ⟨tidOf clu best c, by change ((s.freeCtxs clu best).head?.map _) = _; rw [hc]; rfl⟩

/-- It gives a context with no thread in it. -/
theorem State.allocThread_spec {s : State} {clu tid : Nat} (h : s.allocThread clu = some tid) :
    16384 ≤ tid ∧ (s.group tid).live = false := by
  obtain ⟨c, hc, rfl⟩ := Option.map_eq_some_iff.mp h
  obtain ⟨_, hfree⟩ := List.mem_filter.mp (List.mem_of_head? hc)
  exact ⟨by unfold tidOf; omega, by simpa using hfree⟩

section
variable {gid r : Nat} {pc : PC}

/-- A lane's thread stands at a program counter with its lane active. -/
def LaneOut (s : State) (gid r : Nat) (pc : PC) (l tid : Nat) : Prop :=
  (s.group tid).live = true ∧ (s.group tid).kind = .loupe gid r l ∧ ((s.group tid).ent 0).pc = pc ∧
    ((s.group tid).ent 0).mask = Mask.one l

/-- The first lane takes the context that the allocator gives; where it gives none no lane is started. -/
theorem startLanes_cons (l : Nat) (ls : List Nat) (s : State) :
    (s.allocThread (cluOf (coreOf gid)) = none ∧ State.startLanes gid r pc (l :: ls) s = s) ∨
    ∃ tid t, s.allocThread (cluOf (coreOf gid)) = some tid ∧ (∃ g, t = s.setGroup tid g) ∧ LaneOut t gid r pc l tid ∧
      State.startLanes gid r pc (l :: ls) s = State.startLanes gid r pc ls t := by
  rw [State.startLanes]
  cases ha : s.allocThread (cluOf (coreOf gid)) with
  | none => exact .inl ⟨rfl, rfl⟩
  | some tid =>
    refine .inr ⟨tid, _, rfl, ⟨_, rfl⟩, ?_, rfl⟩
    simp [LaneOut, Group.ent]

/-- Groups and threads that are there stand while lanes are started, and so do the numbers below the threads'. -/
theorem startLanes_group (ls : List Nat) {s : State} {i : Nat} (h : i < 16384 ∨ (s.group i).live = true) :
    (State.startLanes gid r pc ls s).group i = s.group i := by
  induction ls generalizing s with
  | nil => rfl
  | cons l ls ih =>
    rcases startLanes_cons (gid := gid) (r := r) (pc := pc) l ls s with ⟨_, he⟩ | ⟨tid, _, ha, ⟨g, rfl⟩, _, he⟩
    · rw [he]
    · obtain ⟨hlo, hdead⟩ := State.allocThread_spec ha
      have hne : i ≠ tid := by
        rintro rfl
        rcases h with h | h
        · omega
        · simp [hdead] at h
      have hs := State.group_setGroup_ne s g hne
      rw [he, ih (by rwa [hs]), hs]

theorem startLanes_cur (ls : List Nat) (s : State) : (State.startLanes gid r pc ls s).cur = s.cur := by
  induction ls generalizing s with
  | nil => rfl
  | cons l ls ih =>
    rcases startLanes_cons (gid := gid) (r := r) (pc := pc) l ls s with ⟨_, he⟩ | ⟨tid, _, _, ⟨g, rfl⟩, _, he⟩
    · rw [he]
    · rw [he, ih]; rfl

/-- With a context for each of them, every lane has its thread. -/
theorem startLanes_out (ls : List Nat) {s : State} (h : ls.length ≤ s.freeThreads (cluOf (coreOf gid))) {l : Nat}
    (hl : l ∈ ls) : ∃ tid, LaneOut (State.startLanes gid r pc ls s) gid r pc l tid := by
  induction ls generalizing s with
  | nil => cases hl
  | cons x ls ih =>
    rw [List.length_cons] at h
    obtain ⟨tid', hsome⟩ := State.allocThread_isSome (s := s) (clu := cluOf (coreOf gid)) (by omega)
    rcases startLanes_cons (gid := gid) (r := r) (pc := pc) x ls s with ⟨hnone, _⟩ | ⟨tid, _, _, ⟨g, rfl⟩, hout, he⟩
    · simp [hsome] at hnone
    · rw [he]
      rcases List.mem_cons.mp hl with rfl | hl
      · refine ⟨tid, ?_⟩
        unfold LaneOut at hout ⊢
        rwa [startLanes_group ls (.inr hout.1)]
      · have := s.freeThreads_le_setGroup (cluOf (coreOf gid)) tid g
        exact ih (by omega) hl

end

/-! ### Ejection (R56, R58) -/

/-- The group that an ejection leaves: the record of the ejected lanes, their helpers' entry, and the entry that goes on. -/
def Group.ejected (g : Group) (cur now r : Nat) (h : Option Nat) (ej rest : Mask) (tix : BitVec 16) (c : EjEntry)
    (x pcE pcS : PC) : Group :=
  let e := g.ent cur
  let hs := ej &&& g.helper
  let rc : Rec := {
    valid := true, tix := tix, rpc := x, srpc := e.rpc, sjoin := e.join, onl := ej &&& ~~~ g.helper
    lin := c.lin, lout := c.lout, pin := c.pin, pout := c.pout }
  let g := { g with recs := g.recs.set Rec.free r rc }
  let g := match h with
    | none => g
    | some i => g.setEnt i { (g.ent i).moved pcE now with valid := true, mask := hs, dom := hs, rpc := x, join := 8 + r }
  g.setEnt cur { e.moved pcS now with dom := e.dom &&& ~~~ ej, mask := rest, rpc := x, join := 8 + r }

section
variable {s : State} {r : Nat} {h : Option Nat} {ej rest : Mask} {tix : BitVec 16} {c : EjEntry} {x pcE pcS : PC}

theorem State.eject_eq : s.eject r h ej rest tix c x pcE pcS =
    State.startLanes s.cur.gid r pcE ((Mask.list (ej &&& ~~~ s.g.helper)).map Fin.val)
      ((s.setG (s.g.ejected s.cur.ent s.clock r h ej rest tix c x pcE pcS)).relScope .clu) := rfl

theorem State.eject_cur : (s.eject r h ej rest tix c x pcE pcS).cur = s.cur := by
  rw [State.eject_eq, startLanes_cur, ((MemOnly.refl _).relScope .clu).cur]
  rfl

/-- The group's own number is below those of the threads that start. -/
theorem State.eject_g (hg : s.cur.gid < 16384) :
    (s.eject r h ej rest tix c x pcE pcS).g = s.g.ejected s.cur.ent s.clock r h ej rest tix c x pcE pcS := by
  let v := s.setG (s.g.ejected s.cur.ent s.clock r h ej rest tix c x pcE pcS)
  have hr : MemOnly v (v.relScope .clu) := (MemOnly.refl v).relScope .clu
  calc (s.eject r h ej rest tix c x pcE pcS).g
      = (s.eject r h ej rest tix c x pcE pcS).group s.cur.gid :=
        congrArg (fun k : Cur => (s.eject r h ej rest tix c x pcE pcS).group k.gid) State.eject_cur
    _ = (v.relScope .clu).group s.cur.gid := startLanes_group _ (.inl hg)
    _ = v.group s.cur.gid := hr.group _
    _ = _ := s.group_setG_self _

theorem State.clu_of_group (hl : s.g.isLoupe = false) (hg : s.cur.gid < 16384) : s.clu = cluOf (coreOf s.cur.gid) := by
  rw [State.clu, if_pos hg, State.core, State.homeGid_of_not_loupe hl]

/-- Each ejected lane has a thread at its side's program counter. -/
theorem State.eject_out (hl : s.g.isLoupe = false) (hg : s.cur.gid < 16384)
    (hn : Mask.count (ej &&& ~~~ s.g.helper) ≤ s.freeThreads s.clu) {j : Nat}
    (hj : Mask.has (ej &&& ~~~ s.g.helper) j = true) :
    ∃ tid, LaneOut (s.eject r h ej rest tix c x pcE pcS) s.cur.gid r pcE j tid := by
  let v := s.setG (s.g.ejected s.cur.ent s.clock r h ej rest tix c x pcE pcS)
  have hr : MemOnly v (v.relScope .clu) := (MemOnly.refl v).relScope .clu
  have hfree : (v.relScope .clu).freeThreads (cluOf (coreOf s.cur.gid)) = s.freeThreads s.clu := by
    rw [hr.freeThreads, State.clu_of_group hl hg]
    exact State.freeThreads_congr fun tid ht => s.group_setG_ne _ (by omega)
  have hlt : j < 96 := BitVec.lt_of_getLsbD hj
  rw [State.eject_eq]
  refine startLanes_out _ (by rw [List.length_map]; exact hn.trans_eq hfree.symm) ?_
  exact List.mem_map.mpr ⟨⟨j, hlt⟩, List.mem_filter.mpr ⟨List.mem_finRange _, hj⟩, rfl⟩

end

section
variable {g : Group} {cur now r : Nat} {h : Option Nat} {ej rest : Mask} {tix : BitVec 16} {c : EjEntry} {x pcE pcS : PC}

theorem Group.ejected_rec : (g.ejected cur now r h ej rest tix c x pcE pcS).recs.get Rec.free r =
    { valid := true, tix := tix, rpc := x, srpc := (g.ent cur).rpc, sjoin := (g.ent cur).join
      onl := ej &&& ~~~ g.helper, lin := c.lin, lout := c.lout, pin := c.pin, pout := c.pout } := by
  cases h <;> simp [Group.ejected]

theorem Group.ejected_cur : (g.ejected cur now r h ej rest tix c x pcE pcS).ent cur =
    { (g.ent cur).onAt pcS now with dom := (g.ent cur).dom &&& ~~~ ej, mask := rest, rpc := x, join := 8 + r } :=
  Group.ent_setEnt_self _ _ _

theorem Group.ejected_helpers {i : Nat} (hi : i ≠ cur) :
    (g.ejected cur now r (some i) ej rest tix c x pcE pcS).ent i =
      { (g.ent i).onAt pcE now with
        valid := true, mask := ej &&& g.helper, dom := ej &&& g.helper, rpc := x, join := 8 + r } :=
  (Group.ent_setEnt_ne _ _ hi).trans (Group.ent_setEnt_self _ _ _)

/-- An allocatable entry is not valid. -/
theorem Group.ent_of_alloc {i : Nat} (h : g.alloc = some i) : (g.ent i).valid = false := by
  have ha := List.find?_some h
  simp only [Group.allocatable, Bool.and_eq_true, Bool.not_eq_true'] at ha
  exact ha.1.2

end

/-! ### The choice of a side (R56, R158) -/

/-- The non-helper lanes of a side. -/
def State.sideCount (s : State) (m : Mask) : Nat := Mask.count (m &&& ~~~ s.g.helper)

/-- A side has 1 to sr.ejt non-helper lanes. -/
def State.sideOk (s : State) (m : Mask) : Prop := 1 ≤ s.sideCount m ∧ s.sideCount m ≤ s.rg.sr.ejt.toNat

/-- The largest number of lanes that a side may send: none without the feature. -/
def State.ejectLimit (s : State) : Nat := if s.feature 19 then s.rg.sr.ejt.toNat else 0

/-- A side qualifies for ejection. -/
def State.qualifies (s : State) (m : Mask) : Bool := decide (1 ≤ s.sideCount m ∧ s.sideCount m ≤ s.ejectLimit)

/-- The side that is ejected where there is room for it: the taken one, or the other. -/
def State.ejectSide (s : State) (tk nt : Mask) : Option Bool :=
  if s.qualifies tk && (!s.qualifies nt || decide (s.sideCount tk ≤ s.sideCount nt)) then some true
  else if s.qualifies nt then some false else none

/-- Ejection of a side, where contexts are free for its lanes and its helpers find an entry. -/
def State.ejectOr (s : State) (r : Nat) (ej rest : Mask) (tix : BitVec 16) (c : EjEntry) (x pcE pcS : PC) (other : Eff) :
    Eff :=
  let hs := ej &&& s.g.helper
  let h := if hs = 0 then none else s.g.alloc
  if s.freeThreads s.clu < s.sideCount ej || (hs != 0 && h.isNone) then other
  else .done (s.eject r h ej rest tix c x pcE pcS)

section
variable {s : State} {tk nt : Mask}

theorem qualifies_iff (m : Mask) : s.qualifies m = true ↔ s.feature 19 = true ∧ s.sideOk m := by
  unfold State.qualifies State.ejectLimit State.sideOk
  cases s.feature 19
  · simp only [decide_eq_true_iff, Bool.false_eq_true, if_false, false_and, iff_false]
    omega
  · simp

theorem sideCount_pos (m : Mask) (h : s.qualifies m = true) : 0 < s.sideCount m := (of_decide_eq_true h).1

theorem ejectSide_some {b : Bool} (h : s.ejectSide tk nt = some b) : s.qualifies (if b then tk else nt) = true := by
  unfold State.ejectSide at h
  split at h
  next hk => cases h; exact (Bool.and_eq_true_iff.mp hk).1
  next =>
    split at h
    next hn => cases h; exact hn
    next => cases h

theorem ejectSide_taken (hk : s.qualifies tk = true) (hn : s.qualifies nt = true → s.sideCount tk ≤ s.sideCount nt) :
    s.ejectSide tk nt = some true := by
  refine if_pos ?_
  cases h : s.qualifies nt
  · simp [hk]
  · simp [hk, hn h]

theorem ejectSide_fall (hn : s.qualifies nt = true) (hk : s.qualifies tk = true → s.sideCount nt < s.sideCount tk) :
    s.ejectSide tk nt = some false := by
  refine (if_neg ?_).trans (if_pos hn)
  cases h : s.qualifies tk
  · simp
  · simp [hn, hk h]

section
variable {tix : BitVec 16} {c : EjEntry} {x taken fall : PC}

theorem tryEject_eq : s.tryEject tk nt tix c x taken fall = (match s.g.hnd, s.g.freeRec, s.ejectSide tk nt with
    | none, some r, some b => s.ejectOr r (if b then tk else nt) (if b then nt else tk) tix c x
        (if b then taken else fall) (if b then fall else taken) (s.diverge tk nt x taken fall)
    | _, _, _ => s.diverge tk nt x taken fall) := rfl

theorem tryEject_of_side {r : Nat} {b : Bool} (hh : s.g.hnd = none) (hr : s.g.freeRec = some r)
    (hs : s.ejectSide tk nt = some b) : s.tryEject tk nt tix c x taken fall =
      s.ejectOr r (if b then tk else nt) (if b then nt else tk) tix c x (if b then taken else fall)
        (if b then fall else taken) (s.diverge tk nt x taken fall) := by
  rw [tryEject_eq, hh, hr, hs]

/-- What keeps both sides on the group, whatever their helpers find. -/
theorem tryEject_diverges (h : s.qualifies tk = false ∧ s.qualifies nt = false ∨ s.g.hnd.isSome = true ∨
    s.g.freeRec = none ∨ s.freeThreads s.clu = 0) :
    s.tryEject tk nt tix c x taken fall = s.diverge tk nt x taken fall := by
  rw [tryEject_eq]
  split
  next b hh hr hs =>
    have hq := ejectSide_some hs
    rcases h with ⟨hk, hn⟩ | h | h | h
    · cases b <;> simp [hk, hn] at hq
    · simp [hh] at h
    · simp [hr] at h
    · exact if_pos (by simp [h, sideCount_pos _ hq])
  next => rfl

end

end

section
variable {s : State} {r : Nat} {ej rest : Mask} {tix : BitVec 16} {c : EjEntry} {x pcE pcS : PC} {other : Eff}

theorem ejectOr_of_full (h : s.freeThreads s.clu < s.sideCount ej ∨ ej &&& s.g.helper ≠ 0 ∧ s.g.alloc = none) :
    s.ejectOr r ej rest tix c x pcE pcS other = other := by
  refine if_pos ?_
  rcases h with h | ⟨hs, ha⟩
  · simp [h]
  · rw [if_neg hs, ha, bne_iff_ne.mpr hs]
    exact Bool.or_true _

theorem ejectOr_of_room (hn : s.sideCount ej ≤ s.freeThreads s.clu) (ha : ej &&& s.g.helper ≠ 0 → s.g.alloc ≠ none) :
    s.ejectOr r ej rest tix c x pcE pcS other =
      .done (s.eject r (if ej &&& s.g.helper = 0 then none else s.g.alloc) ej rest tix c x pcE pcS) := by
  refine if_neg ?_
  by_cases hs : ej &&& s.g.helper = 0
  · simp [hs, hn]
  · simp [hn, Option.isNone_iff_eq_none, ha hs]

end

/-! ### BRD and its ejection entry (R53, R158) -/

/-- The address of a BRD's ejection entry. -/
def State.ejectVa (s : State) (l : BrdLit) : Word64 := s.blk.kern.ejta + BitVec.ofNat 64 (32 * l.tix.toNat)

/-- The ejection entry of a BRD with the state after its read, or how the word ends without one. -/
def State.ejectEntry (s : State) (l : BrdLit) : Except Eff (State × EjEntry) :=
  if s.blk.kern.ejtn.toNat ≤ l.tix.toNat then .error (.trap tEncoding s)
  else match State.fetchBytes .load 32 (s.ejectVa l) s with
    | (_, .error r) => .error (scalarStop (s.ejectVa l) s r)
    | (s1, .ok bs) => match ejParse s.blk.kern.regs (ofBytes bs) with
      | none => .error (.trap tEncoding s)
      | some c => .ok (s1, c)

/-- The lanes for which a BRD is taken. -/
def State.takenSide (s : State) (p : Fin 8) : Mask := s.active &&& s.readP p.val

/-- The lanes for which it is not. -/
def State.otherSide (s : State) (p : Fin 8) : Mask := s.active &&& ~~~ s.readP p.val

/-- The sides of a BRD: where one of them is empty the fragment goes one way. -/
def State.onSides (s : State) (tk nt : Mask) (there : PC) (both : Eff) : Eff :=
  if tk = 0 then .ok s else if nt = 0 then .jump there s else both

section
variable {s s1 : State} {p : Fin 8} {t : Target} {l : BrdLit} {c : EjEntry}

theorem ejectEntry_pastTable (hx : s.blk.kern.ejtn.toNat ≤ l.tix.toNat) : s.ejectEntry l = .error (.trap tEncoding s) :=
  if_pos hx

section
variable (hx : l.tix.toNat < s.blk.kern.ejtn.toNat)
include hx

theorem ejectEntry_unread {r : LRes} (hb : State.fetchBytes .load 32 (s.ejectVa l) s = (s1, .error r)) :
    s.ejectEntry l = .error (scalarStop (s.ejectVa l) s r) := by
  rw [State.ejectEntry, if_neg (Nat.not_le.mpr hx), hb]

variable {bs : List Byte} (hb : State.fetchBytes .load 32 (s.ejectVa l) s = (s1, .ok bs))
include hb

theorem ejectEntry_invalid (hc : ejParse s.blk.kern.regs (ofBytes bs) = none) :
    s.ejectEntry l = .error (.trap tEncoding s) := by
  rw [State.ejectEntry, if_neg (Nat.not_le.mpr hx), hb]
  dsimp only
  rw [hc]

theorem ejectEntry_valid (hc : ejParse s.blk.kern.regs (ofBytes bs) = some c) : s.ejectEntry l = .ok (s1, c) := by
  rw [State.ejectEntry, if_neg (Nat.not_le.mpr hx), hb]
  dsimp only
  rw [hc]

end

theorem MemOnly.takenSide (h : MemOnly s s1) : s1.takenSide p = s.takenSide p := by
  rw [State.takenSide, h.active, h.readP]; rfl

theorem MemOnly.otherSide (h : MemOnly s s1) : s1.otherSide p = s.otherSide p := by
  rw [State.otherSide, h.active, h.readP]; rfl

/-- The read of the entry acts on memory alone. -/
theorem ejectEntry_memOnly (h : s.ejectEntry l = .ok (s1, c)) : MemOnly s s1 := by
  have hm := (MemOnly.refl s).fetchBytes .load 32 (s.ejectVa l)
  unfold State.ejectEntry at h
  split at h
  · cases h
  · split at h
    · cases h
    next hb =>
      rw [hb] at hm
      split at h <;> cases h
      exact hm

section
variable (hl : s.g.isLoupe = false) (ha : s.active ≠ 0)
include hl ha

theorem exec_brd_of_noPermit (hp : l.ep = false) :
    exec (.brd p t l) s = commit (s.onSides (s.takenSide p) (s.otherSide p) (t.pc s.wordPc)
      (s.diverge (s.takenSide p) (s.otherSide p) (l.recon.pc s.wordPc) (t.pc s.wordPc) s.next)) := by
  change commit (s.brd p t l) = _
  simp only [State.brd, hp, hl, ha, if_false, if_true, Bool.false_eq_true, Bool.not_false]
  rfl

/-- With the permit the entry decides: it ends the word, or a side may be ejected by it. -/
theorem exec_brd_of_permit (hp : l.ep = true) : exec (.brd p t l) s = commit (match s.ejectEntry l with
    | .error e => e
    | .ok (s1, c) => s1.onSides (s.takenSide p) (s.otherSide p) (t.pc s.wordPc)
        (s1.tryEject (s.takenSide p) (s.otherSide p) l.tix c (l.recon.pc s.wordPc) (t.pc s.wordPc) s1.next)) := by
  change commit (s.brd p t l) = _
  simp only [State.brd, hp, hl, ha, if_false, Bool.false_eq_true, Bool.not_true]
  by_cases hx : s.blk.kern.ejtn.toNat ≤ l.tix.toNat
  · rw [if_pos hx, ejectEntry_pastTable hx]
  · rw [if_neg hx, ← State.ejectVa]
    rcases hb : State.fetchBytes .load 32 (s.ejectVa l) s with ⟨s1, r | bs⟩
    · rw [ejectEntry_unread (Nat.not_le.mp hx) hb]
    · dsimp only
      cases hc : ejParse s.blk.kern.regs (ofBytes bs) with
      | none => rw [ejectEntry_invalid (Nat.not_le.mp hx) hb hc]
      | some c => rw [ejectEntry_valid (Nat.not_le.mp hx) hb hc]; rfl

end

/-- A group's BRD has the permit and an active lane, and its ejection entry has been read. -/
structure EjectRead (s s1 : State) (l : BrdLit) (c : EjEntry) : Prop where
  permit : l.ep = true
  group : s.g.isLoupe = false
  active : s.active ≠ 0
  entry : s.ejectEntry l = .ok (s1, c)

variable (h : EjectRead s s1 l c)
include h

theorem EjectRead.memOnly : MemOnly s s1 := ejectEntry_memOnly h.entry

theorem EjectRead.exec_eq : exec (.brd p t l) s =
    commit (s1.onSides (s.takenSide p) (s.otherSide p) (t.pc s.wordPc)
      (s1.tryEject (s.takenSide p) (s.otherSide p) l.tix c (l.recon.pc s.wordPc) (t.pc s.wordPc) s.next)) := by
  rw [exec_brd_of_permit h.group h.active h.permit, h.entry]
  exact congrArg (fun pc => commit (s1.onSides _ _ _ (s1.tryEject _ _ _ _ _ _ pc))) h.memOnly.next

/-- The word goes on as one without the permit, in the state after the read. -/
theorem EjectRead.exec_noPermit : exec (.brd p t { l with ep := false }) s1 =
    commit (s1.onSides (s.takenSide p) (s.otherSide p) (t.pc s.wordPc)
      (s1.diverge (s.takenSide p) (s.otherSide p) (l.recon.pc s.wordPc) (t.pc s.wordPc) s.next)) := by
  have hm := h.memOnly
  rw [exec_brd_of_noPermit (by rw [hm.g, h.group]) (by rw [hm.active]; exact h.active) rfl, hm.takenSide, hm.otherSide,
    hm.wordPc, hm.next]

/-- Where the choice of a side comes to none, or a side is empty, the permit makes no difference. -/
theorem EjectRead.exec_eq_noPermit
    (hd : s.takenSide p = 0 ∨ s.otherSide p = 0 ∨
      s1.tryEject (s.takenSide p) (s.otherSide p) l.tix c (l.recon.pc s.wordPc) (t.pc s.wordPc) s.next =
        s1.diverge (s.takenSide p) (s.otherSide p) (l.recon.pc s.wordPc) (t.pc s.wordPc) s.next) :
    exec (.brd p t l) s = exec (.brd p t { l with ep := false }) s1 := by
  rw [h.exec_eq, h.exec_noPermit]
  rcases hd with hk | hn | hd
  · simp [State.onSides, hk]
  · simp [State.onSides, hn]
  · rw [hd]

end

/-! ### The ejection of a side (R56, R58) -/

/-- What the ejection of a side leaves: its record, the entry that goes on, its helpers' entry, and its lanes' threads. -/
structure Ejects (s u : State) (r : Nat) (ej rest : Mask) (tix : BitVec 16) (c : EjEntry) (x pcE pcS : PC) : Prop where
  record : u.g.recs.get Rec.free r =
    { valid := true, tix := tix, rpc := x, srpc := s.e.rpc, sjoin := s.e.join
      onl := ej &&& ~~~ s.g.helper, lin := c.lin, lout := c.lout, pin := c.pin, pout := c.pout }
  goesOn : u.e = { s.e.onAt pcS s.clock with dom := s.e.dom &&& ~~~ ej, mask := rest, rpc := x, join := 8 + r }
  helpers : ∀ h, ej &&& s.g.helper ≠ 0 → s.g.alloc = some h → u.g.ent h = { (s.g.ent h).onAt pcE s.clock with
    valid := true, mask := ej &&& s.g.helper, dom := ej &&& s.g.helper, rpc := x, join := 8 + r }
  out : ∀ j, Mask.has (ej &&& ~~~ s.g.helper) j = true → ∃ tid, LaneOut u s.cur.gid r pcE j tid

theorem eject_ejects {s : State} {r : Nat} {ej rest : Mask} {tix : BitVec 16} {c : EjEntry} {x pcE pcS : PC}
    (hl : s.g.isLoupe = false) (hg : s.cur.gid < 16384) (hv : s.e.valid = true)
    (hn : s.sideCount ej ≤ s.freeThreads s.clu) :
    Ejects s (s.eject r (if ej &&& s.g.helper = 0 then none else s.g.alloc) ej rest tix c x pcE pcS) r ej rest tix c x pcE
      pcS where
  record := by rw [State.eject_g hg, Group.ejected_rec]; rfl
  goesOn := by rw [State.e, State.eject_g hg, State.eject_cur, Group.ejected_cur]; rfl
  helpers h hs ha := by
    have hne : h ≠ s.cur.ent := by
      rintro rfl
      exact absurd hv (by rw [State.e, Group.ent_of_alloc ha]; decide)
    rw [State.eject_g hg, if_neg hs, ha, Group.ejected_helpers hne]
  out _ hj := State.eject_out hl hg hn hj

section
variable {s s1 : State} {l : BrdLit} {c : EjEntry} {r : Nat} {ej rest : Mask} {x pcE pcS : PC} (hm : MemOnly s s1)
include hm

theorem MemOnly.sideCount (m : Mask) : s1.sideCount m = s.sideCount m := by rw [State.sideCount, hm.g]; rfl

theorem MemOnly.qualifies (m : Mask) : s1.qualifies m = s.qualifies m := by
  rw [State.qualifies, hm.sideCount, State.ejectLimit, hm.feature, hm.rg]
  rfl

/-- An ejection from the state after the read of the entry, as the state before it has it. -/
theorem MemOnly.ejects {u : State} {tix : BitVec 16} (h : Ejects s1 u r ej rest tix c x pcE pcS) :
    Ejects s u r ej rest tix c x pcE pcS := by
  obtain ⟨hrec, hgo, hhelp, hout⟩ := h
  rw [hm.e, hm.g] at hrec
  rw [hm.e, hm.clock] at hgo
  rw [hm.g, hm.clock] at hhelp
  rw [hm.g, hm.cur] at hout
  exact ⟨hrec, hgo, hhelp, hout⟩

end

/-! ### BRD with the permit (R53, R56, R58, R158) -/

/-- A side that the rules name as the one to eject, with the side that remains and where each of them goes on. -/
def State.chosen (s : State) (tk nt : Mask) (taken fall : PC) (out rest : Mask) (pcE pcS : PC) : Prop :=
  out = tk ∧ rest = nt ∧ pcE = taken ∧ pcS = fall ∧ s.sideOk tk ∧ (s.sideOk nt → s.sideCount tk ≤ s.sideCount nt) ∨
    out = nt ∧ rest = tk ∧ pcE = fall ∧ pcS = taken ∧ s.sideOk nt ∧ (s.sideOk tk → s.sideCount nt < s.sideCount tk)

section
variable {s s1 : State} {tk nt out rest : Mask} {taken fall pcE pcS : PC} {r : Nat}

theorem MemOnly.chosen (hm : MemOnly s s1) (h : s.chosen tk nt taken fall out rest pcE pcS) :
    s1.chosen tk nt taken fall out rest pcE pcS := by
  unfold State.chosen State.sideOk at h ⊢
  simpa only [hm.sideCount, hm.rg] using h

theorem tryEject_of_chosen {tix : BitVec 16} {c : EjEntry} {x : PC} (hf : s.feature 19 = true) (hh : s.g.hnd = none)
    (hr : s.g.freeRec = some r) (h : s.chosen tk nt taken fall out rest pcE pcS) :
    s.tryEject tk nt tix c x taken fall = s.ejectOr r out rest tix c x pcE pcS (s.diverge tk nt x taken fall) := by
  rcases h with ⟨rfl, rfl, rfl, rfl, hk, hn⟩ | ⟨rfl, rfl, rfl, rfl, hn, hk⟩
  · rw [tryEject_of_side hh hr (ejectSide_taken ((qualifies_iff _).mpr ⟨hf, hk⟩) fun hq => hn ((qualifies_iff _).mp hq).2)]
    simp only [if_true]
  · rw [tryEject_of_side hh hr (ejectSide_fall ((qualifies_iff _).mpr ⟨hf, hn⟩) fun hq => hk ((qualifies_iff _).mp hq).2)]
    simp only [Bool.false_eq_true, if_false]

end

section
variable {s s1 : State} {p : Fin 8} {t : Target} {l : BrdLit} {c : EjEntry} (h : EjectRead s s1 l c)
include h

theorem EjectRead.stays (hd : s.takenSide p = 0 ∨ s.otherSide p = 0 ∨ s.feature 19 = false ∨
    ¬s.sideOk (s.takenSide p) ∧ ¬s.sideOk (s.otherSide p) ∨ s.g.hnd.isSome = true ∨ s.g.freeRec = none ∨
    s.freeThreads s.clu = 0) :
    exec (.brd p t l) s = exec (.brd p t { l with ep := false }) s1 := by
  have hm := h.memOnly
  refine h.exec_eq_noPermit (hd.imp_right (Or.imp_right fun hd => tryEject_diverges ?_))
  rw [hm.qualifies, hm.qualifies, hm.g, hm.clu, hm.freeThreads]
  have hq : ∀ m, s.feature 19 = false ∨ ¬s.sideOk m → s.qualifies m = false := fun m hm =>
    Bool.eq_false_iff.mpr fun h => by
      obtain ⟨hf, hok⟩ := (qualifies_iff m).mp h
      exact hm.elim (by simp [hf]) (· hok)
  rcases hd with hf | ⟨hk, hn⟩ | hd
  · exact .inl ⟨hq _ (.inl hf), hq _ (.inl hf)⟩
  · exact .inl ⟨hq _ (.inr hk), hq _ (.inr hn)⟩
  · exact .inr hd

variable {r : Nat} {out rest : Mask} {pcE pcS : PC} (hf : s.feature 19 = true) (hh : s.g.hnd = none)
  (hr : s.g.freeRec = some r)
  (hc : s.chosen (s.takenSide p) (s.otherSide p) (t.pc s.wordPc) s.next out rest pcE pcS)
include hf hh hr hc

theorem EjectRead.tryEject_eq (x : PC) :
    s1.tryEject (s.takenSide p) (s.otherSide p) l.tix c x (t.pc s.wordPc) s.next =
      s1.ejectOr r out rest l.tix c x pcE pcS
        (s1.diverge (s.takenSide p) (s.otherSide p) x (t.pc s.wordPc) s.next) := by
  have hm := h.memOnly
  exact tryEject_of_chosen ((hm.feature 19).trans hf) (by rw [hm.g, hh]) (by rw [hm.g, hr]) (hm.chosen hc)

theorem EjectRead.full
    (hfull : s.freeThreads s.clu < s.sideCount out ∨ out &&& s.g.helper ≠ 0 ∧ s.g.alloc = none) :
    exec (.brd p t l) s = exec (.brd p t { l with ep := false }) s1 := by
  have hm := h.memOnly
  refine h.exec_eq_noPermit (.inr (.inr ((h.tryEject_eq hf hh hr hc _).trans (ejectOr_of_full ?_))))
  rwa [hm.freeThreads, hm.clu, hm.sideCount, hm.g]

theorem EjectRead.ejects (hg : s.cur.gid < 16384) (hv : s.e.valid = true) (hk : s.takenSide p ≠ 0)
    (hn : s.otherSide p ≠ 0) (hroom : s.sideCount out ≤ s.freeThreads s.clu)
    (ha : out &&& s.g.helper ≠ 0 → s.g.alloc ≠ none) :
    Completes (.brd p t l) s fun u => Ejects s u r out rest l.tix c (l.recon.pc s.wordPc) pcE pcS := by
  have hm := h.memOnly
  have hroom' : s1.sideCount out ≤ s1.freeThreads s1.clu := by rwa [hm.freeThreads, hm.clu, hm.sideCount]
  refine ⟨_, ?_, hm.ejects (eject_ejects (by rw [hm.g, h.group]) (by rwa [hm.cur]) (by rwa [hm.e]) hroom')⟩
  rw [h.exec_eq, State.onSides, if_neg hk, if_neg hn, h.tryEject_eq hf hh hr hc,
    ejectOr_of_room hroom' (by rwa [hm.g])]
  rfl

end

/-- Settles O3: how the read of the entry ends, then the side that is chosen and the room that it finds. -/
theorem brdEjects : Obligations.BrdEjects := by
  intro s s1 p t l tk nt there x va n ok hp hl hg ha hv
  refine ⟨fun hx => ?_, fun hx r hb => ?_, fun bs hx hb => ⟨fun hc => ?_, fun c hc => ?_⟩⟩
  · change exec _ s = _
    rw [exec_brd_of_permit hl ha hp, ejectEntry_pastTable hx, commit_trap]
  · rw [exec_brd_of_permit hl ha hp, ejectEntry_unread hx hb]
    rfl
  · change exec _ s = _
    rw [exec_brd_of_permit hl ha hp, ejectEntry_invalid hx hb hc, commit_trap]
  · have h : EjectRead s s1 l c := ⟨hp, hl, ha, ejectEntry_valid hx hb hc⟩
    refine ⟨fun hd => h.stays hd, fun r out rest pcE pcS hk hn hf hh hr hc => ⟨h.full hf hh hr hc, fun hroom ha => ?_⟩⟩
    obtain ⟨u, he, hrec, hgo, hhelp, hout⟩ := h.ejects hf hh hr hc hg hv hk hn hroom ha
    exact ⟨u, he, hrec, hgo, hhelp, fun j hj => hout j hj⟩

end Sys2Proof.Machine
end

section
/-! PROOFS. Numbers and lines as bytes (R5): what the bytes of a number, of a line and of a merge of lines are. -/

namespace Sys2Proof.Machine

@[simp] theorem length_toBytes (n x : Nat) : (toBytes n x).length = n := by simp [toBytes]

theorem toBytes_succ (n x : Nat) : toBytes (n + 1) x = BitVec.ofNat 8 x :: toBytes n (x / 256) := by
  simp [toBytes, List.range_succ_eq_map, Function.comp_def, Nat.pow_succ', Nat.div_div_eq_div_mul]

/-- Bytes are those of their number. -/
theorem toBytes_ofBytes (bs : List Byte) : toBytes bs.length (ofBytes bs) = bs := by
  induction bs with
  | nil => rfl
  | cons b t ih =>
    have hb : b.toNat < 256 := b.isLt
    have hdiv : ofBytes (b :: t) / 256 = ofBytes t := by rw [ofBytes]; omega
    have hlow : BitVec.ofNat 8 (ofBytes (b :: t)) = b := by
      apply BitVec.eq_of_toNat_eq
      rw [BitVec.toNat_ofNat, ofBytes]
      omega
    rw [List.length_cons, toBytes_succ, hdiv, hlow, ih]

/-- Bit i of byte k of a number. -/
theorem testBit_ofBytes (bs : List Byte) (k : Nat) {i : Nat} (hi : i < 8) :
    (ofBytes bs).testBit (8 * k + i) = (bs.getD k 0).getLsbD i := by
  induction bs generalizing k with
  | nil => simp [ofBytes]
  | cons b t ih =>
    have hb : b.toNat < 2 ^ 8 := b.isLt
    have hcons : ofBytes (b :: t) = 2 ^ 8 * ofBytes t + b.toNat := by rw [ofBytes]; omega
    rw [hcons, Nat.testBit_two_pow_mul_add _ hb]
    cases k with
    | zero => simp [hi, BitVec.getLsbD]
    | succ k =>
      have hge : ¬8 * (k + 1) + i < 8 := by omega
      have hsub : 8 * (k + 1) + i - 8 = 8 * k + i := by omega
      rw [if_neg hge, hsub, ih, List.getD_cons_succ]

theorem getLsbD_lineByte (d : Line) (k : Nat) {i : Nat} (hi : i < 8) :
    (Line.byte d k).getLsbD i = d.getLsbD (8 * k + i) := by
  rw [Line.byte, BitVec.getLsbD_extractLsb', decide_eq_true hi, Bool.true_and]

/-- A line made of bytes has them. -/
theorem byte_ofBytes (bs : List Byte) {k : Nat} (hk : k < 128) :
    Line.byte (BitVec.ofNat 1024 (ofBytes bs)) k = bs.getD k 0 := by
  refine BitVec.eq_of_getLsbD_eq fun i hi => ?_
  have hlt : 8 * k + i < 1024 := by omega
  rw [getLsbD_lineByte _ _ hi, BitVec.getLsbD_ofNat, decide_eq_true hlt, Bool.true_and, testBit_ofBytes _ _ hi]

theorem getD_map_range {α : Type} (f : Nat → α) (d : α) {n k : Nat} (hk : k < n) :
    ((List.range n).map f).getD k d = f k := by simp [List.getD_eq_getElem?_getD, hk]

theorem byte_byteBits (m : BitVec 128) {k : Nat} (hk : k < 128) :
    Line.byte (byteBits m) k = if m.getLsbD k then BitVec.allOnes 8 else 0#8 := by
  rw [byteBits, byte_ofBytes _ hk, getD_map_range _ _ hk]
  rfl

theorem byte_and (x y : Line) (k : Nat) : Line.byte (x &&& y) k = Line.byte x k &&& Line.byte y k := by
  simp [Line.byte, BitVec.extractLsb'_and]

theorem byte_or (x y : Line) (k : Nat) : Line.byte (x ||| y) k = Line.byte x k ||| Line.byte y k := by
  simp [Line.byte, BitVec.extractLsb'_or]

theorem byte_not (x : Line) {k : Nat} (hk : k < 128) : Line.byte (~~~x) k = ~~~Line.byte x k := by
  refine BitVec.eq_of_getLsbD_eq fun i hi => ?_
  have hlt : 8 * k + i < 1024 := by omega
  rw [getLsbD_lineByte _ _ hi, BitVec.getLsbD_not, BitVec.getLsbD_not, getLsbD_lineByte _ _ hi]
  simp [hi, hlt]

/-- A merge takes exactly the masked bytes (R96). -/
theorem byte_mergeBytes (old new : Line) (m : BitVec 128) {k : Nat} (hk : k < 128) :
    Line.byte (mergeBytes old new m) k = if m.getLsbD k then Line.byte new k else Line.byte old k := by
  by_cases hm : m = 0
  · simp [mergeBytes, hm]
  · rw [mergeBytes, if_neg hm, byte_or, byte_and, byte_and, byte_not _ hk, byte_byteBits _ hk]
    split
    · rw [BitVec.not_allOnes, BitVec.and_zero, BitVec.zero_or, BitVec.and_allOnes]
    · rw [BitVec.and_zero, BitVec.or_zero, BitVec.not_zero, BitVec.and_allOnes]

theorem getLsbD_byteMask {o n k : Nat} (hk : o + k < 128) : (byteMask o n).getLsbD (o + k) = decide (k < n) := by
  rw [byteMask, BitVec.getLsbD_ofNat, decide_eq_true hk, Bool.true_and, Nat.testBit_mul_two_pow]
  simp [Nat.testBit_two_pow_sub_one]

theorem byte_placeBytes (o : Nat) (bs : List Byte) {k : Nat} (hk : o + k < 128) :
    Line.byte (placeBytes o bs) (o + k) = bs.getD k 0 := by
  refine BitVec.eq_of_getLsbD_eq fun i hi => ?_
  have hlt : 8 * (o + k) + i < 1024 := by omega
  have hle : 8 * o ≤ 8 * (o + k) + i := by omega
  have hsub : 8 * (o + k) + i - 8 * o = 8 * k + i := by omega
  rw [getLsbD_lineByte _ _ hi, placeBytes, BitVec.getLsbD_ofNat, decide_eq_true hlt, Bool.true_and,
    Nat.testBit_mul_two_pow, hsub, testBit_ofBytes _ _ hi]
  simp [hle]

end Sys2Proof.Machine
end

section
/-! PROOFS. A page fault of a block whose context number names no entry of the table (R360, R367, R368). -/

namespace Sys2Proof.Machine

/-- A group of a block with context number 256, past the last entry of the context table, while core 0 caches a writable
page at address 0 of address space 0. No run from reset leads here; the statement speaks of every state. -/
def strayCtxBlock : State :=
  { State.reset with
    groups := [(0, { live := true })]
    blocks := [(0, { live := true, ctx := 256 })]
    tlb := [{ unit := 0, asid := 0, va := 0, lg := 12, pa := 0, r := true, w := true, x := false }]
    rdymap := 1#64 <<< 20 }

/-- Numbers from 256 on name no context. -/
theorem ctx_of_stray {s : State} {vi n : Nat} (h : 256 ≤ n) : s.ctx vi n = Ctx.empty := if_neg (Nat.not_lt.mpr h)

/-- Hardware's write of a record for that context finds the cached page, whatever the groups have become. -/
theorem strayCtxBlock_writes (gs : Store Group) (x : Nat) :
    ∃ w, ({ strayCtxBlock with groups := gs } : State).ctxWrite 0 0 256 0 (toBytes 64 x) = .ok w := by
  let v : State := { strayCtxBlock with groups := gs }
  have hpage : ∀ s va, SameTlb v s → 0 ≤ va → va < 64 →
      ∃ pa, s.spTranslate 0 (Ctx.empty.sp 0) va .store = (s, .ok pa) := fun s va hs _ hlt =>
    translateIn_page (lg := 12) (base := 0) hs rfl rfl rfl rfl rfl (by omega) rfl (by decide) rfl
      (by change (1#64 <<< 20).getLsbD 20 = true; decide) _ _
  obtain ⟨w, hw, -⟩ := ctxWriteGo_ok (sameTlb_memSafe v) hpage (fun s hs => hs.1.2.2 rfl)
    ((toBytes 64 x).length / 128 + 2) 0 (toBytes 64 x) v ⟨⟨rfl, rfl, id⟩, MemOnly.refl v⟩ (.inr ⟨Nat.le_refl _, by rw [length_toBytes]⟩)
  refine ⟨w, ?_⟩
  rw [State.ctxWrite, ctx_of_stray (Nat.le_refl _)]
  exact hw

/-- Refutes O25: the page fault's record is written for a context number that names no entry of the table, so that no
FLTWR of the table advances, where the statement says that the context's does. -/
theorem not_vectorStores : ¬ Obligations.VectorStores := by
  rintro ⟨-, -, hfault⟩
  obtain ⟨-, hrecord⟩ := hfault strayCtxBlock none 0 rfl rfl
  obtain ⟨w, hw⟩ := strayCtxBlock_writes _ _
  obtain ⟨-, hctx, -⟩ := hrecord w rfl rfl hw
  have hstray : ∀ s : State, s.ctx strayCtxBlock.blk.vi strayCtxBlock.blk.ctx = Ctx.empty := fun _ =>
    ctx_of_stray (Nat.le_refl 256)
  exact absurd (congrArg Ctx.fltwr ((hstray _).symm.trans hctx)) (by decide)

end Sys2Proof.Machine
end

section
/-! PROOFS. Engine operations that complete, stall and publish (R105, R106, R263, R266, R268, R276, R414). -/

namespace Sys2Proof.Machine

/-! ### Which operation an event names -/

/-- The pending operation of an engine context that an event names and that may run (R263, R276). -/
structure NextOp (s : State) (bid k : Nat) (p : EPend) : Prop where
  found : s.findOp bid k p.num = some p
  mayRun : ((s.block bid).tc.get Tc.unbound k).mayRun p.num = true

section
variable {s s1 : State} {bid k : Nat} {p : EPend}

/-- An event that names no operation, or one that may not run, changes nothing. -/
theorem engineEvents_idle {num : Nat}
    (h : s.findOp bid k num = none ∨ ((s.block bid).tc.get Tc.unbound k).mayRun num = false) :
    exec (.engineOpComplete bid k num) s = .next s ∧ exec (.engineFaultStall bid k num) s = .next s := by
  change Host.Outcome.next (s.engineRun bid k num) = _ ∧ Host.Outcome.next (s.engineFault bid k num) = _
  unfold State.engineRun State.engineFault
  rcases h with h | h
  · rw [h]; exact ⟨rfl, rfl⟩
  · cases s.findOp bid k num with
    | none => exact ⟨rfl, rfl⟩
    | some p => simp only [h, Bool.false_eq_true, if_false, and_self]

theorem findOp_none (h : ∀ q ∈ ((s.block bid).tc.get Tc.unbound k).pend, q.num ≠ p.num) :
    s.findOp bid k p.num = none :=
  List.find?_eq_none.mpr fun q hq => by simpa using h q hq

section
variable (h : NextOp s bid k p)
include h

theorem NextOp.completes (ht : s.tryOp bid k p = (s1, none)) :
    exec (.engineOpComplete bid k p.num) s = .next ((s1.trySave bid).blockOver bid) := by
  change Host.Outcome.next (s.engineRun bid k p.num) = _
  simp only [State.engineRun, h.found, h.mayRun, ht, if_true, State.engineIdle]

/-- A translation that refuses, or a target that is not ready, leaves the operation pending. -/
theorem NextOp.staysPending {x : EngStop} (ht : s.tryOp bid k p = (s1, some x)) (hx : ∀ line, x ≠ .bad line) :
    exec (.engineOpComplete bid k p.num) s = .next s := by
  change Host.Outcome.next (s.engineRun bid k p.num) = _
  cases x with
  | bad line => exact absurd rfl (hx line)
  | fault | hold => simp only [State.engineRun, h.found, h.mayRun, ht, if_true]

theorem NextOp.meetsBad {line : Nat} (ht : s.tryOp bid k p = (s1, some (.bad line))) :
    exec (.engineOpComplete bid k p.num) s = .next (s1.blockBad bid line) := by
  change Host.Outcome.next (s.engineRun bid k p.num) = _
  simp only [State.engineRun, h.found, h.mayRun, ht, if_true]

section
variable {info : Nat} {va : Word64} (ht : s.tryOp bid k p = (s1, some (.fault info va)))
include ht

theorem NextOp.stalls (hc : (s.ctx (s.block bid).vi (s.block bid).ctx).cstate ≠ .ending) :
    exec (.engineFaultStall bid k p.num) s = .next ((s1.engineRecord bid p info va).stallTc bid k p.num) := by
  change Host.Outcome.next (s.engineFault bid k p.num) = _
  simp only [State.engineFault, h.found, h.mayRun, ht, if_true, beq_false_of_ne hc, Bool.false_eq_true, if_false]

theorem NextOp.givesUp (hc : (s.ctx (s.block bid).vi (s.block bid).ctx).cstate = .ending) :
    exec (.engineFaultStall bid k p.num) s = .next (s1.giveUp bid k) := by
  change Host.Outcome.next (s.engineFault bid k p.num) = _
  simp only [State.engineFault, h.found, h.mayRun, ht, if_true, hc, beq_self_eq_true]

end

/-- Only a translation that refuses stalls a context. -/
theorem NextOp.noStall {x : EngStop} (ht : s.tryOp bid k p = (s1, some x)) (hx : ∀ info va, x ≠ .fault info va) :
    exec (.engineFaultStall bid k p.num) s = .next s := by
  change Host.Outcome.next (s.engineFault bid k p.num) = _
  cases x with
  | fault info va => exact absurd rfl (hx info va)
  | bad | hold => simp only [State.engineFault, h.found, h.mayRun, ht, if_true]

end

/-- The oldest operation of a context that is not stalled may run. -/
theorem nextOp_of_head {rest : List EPend} (hp : ((s.block bid).tc.get Tc.unbound k).pend = p :: rest)
    (hs : ((s.block bid).tc.get Tc.unbound k).stall = none) : NextOp s bid k p where
  found := by rw [State.findOp, hp]; exact List.find?_cons_of_pos (by simp)
  mayRun := by simp [Tc.mayRun, hp, hs]

/-- Behind the oldest operation of a Zoom no other runs. -/
theorem mayRun_behind {c : Tc} {rest : List EPend} {num : Nat} (hz : c.bind = .zoom) (hp : c.pend = p :: rest)
    (hn : num ≠ p.num) : c.mayRun num = false := by
  simp [Tc.mayRun, hz, hp, hn.symm]

theorem mayRun_stalled {c : Tc} {num : Nat} (h : c.stall ≠ none) : c.mayRun num = false := by
  cases hc : c.stall with
  | none => exact absurd hc h
  | some _ => simp [Tc.mayRun, hc]

end

/-! ### The counter (R106) -/

/-- The oldest operation completes while no later one has: the counter takes it alone. -/
theorem opDone_oldest {s : State} {bid k : Nat} {p : EPend} {rest : List EPend} {c : Tc}
    (hc : (s.block bid).tc.get Tc.unbound k = c) (hp : c.pend = p :: rest) (hn : p.num = c.value.toNat + 1)
    (hd : c.done = []) (hlt : c.value.toNat + 1 < 2 ^ 64) (hr : ∀ q ∈ rest, q.num ≠ p.num) :
    s.opDone bid k p.num = s.setBlock bid { s.block bid with
      tc := (s.block bid).tc.set Tc.unbound k { c with value := c.value + 1, pend := rest, done := [], stall := none } } := by
  have hpend : c.pend.filter (fun q => q.num != p.num) = rest := by
    rw [hp, List.filter_cons_of_neg (by simp)]
    exact List.filter_eq_self.mpr fun q hq => by simpa using hr q hq
  have hval : (c.value + 1).toNat = c.value.toNat + 1 := by
    rw [BitVec.toNat_add]
    exact Nat.mod_eq_of_lt hlt
  rw [State.opDone, hc]
  dsimp only
  rw [hpend, hd, hn]
  simp [Tc.settle]

/-! ### A copy within tile memory (R263, R266) -/

theorem get_foldl_bytes (o : Nat) (f : Nat → Byte) (n : Nat) (m : Store Byte) (x : Nat) :
    ((List.range n).foldl (fun m k => m.set 0 (o + k) (f k)) m).get 0 x =
      if o ≤ x ∧ x < o + n then f (x - o) else m.get 0 x := by
  induction n with
  | zero => simp
  | succ n ih =>
    rw [List.range_succ, List.foldl_concat, Store.get_set, ih]
    by_cases hx : x = o + n
    · subst hx; simp
    · have : (o ≤ x ∧ x < o + n) ↔ (o ≤ x ∧ x < o + (n + 1)) := by omega
      simp only [hx, if_false, this]

section
variable {s : State} {e : Eng} {va : Word64} {n : Nat}

theorem engAt_tile (need : Need) (h : va.toNat + n ≤ (s.block e.bid).tileSize) :
    s.engAt e .tile va n need = (s, .ok (.tile e.bid va.toNat)) := by
  simp [State.engAt, State.tileAt, h]

theorem engAt_pastTile (need : Need) (h : (s.block e.bid).tileSize < va.toNat + n) (hw : va.toNat < 0x400000) :
    s.engAt e .tile va n need = (s, .error (.fault 0 va)) := by
  simp [State.engAt, State.tileAt, hw, Nat.not_le.mpr h]

theorem engGet_tile (h : va.toNat + n ≤ (s.block e.bid).tileSize) : s.engGet e .tile va n =
    (s, ofBytes ((List.range n).map fun j => (s.block e.bid).tile.get 0 (va.toNat + j))) := by
  rw [State.engGet, engAt_tile _ h]

theorem engPut_tile (x : Nat) (h : va.toNat + n ≤ (s.block e.bid).tileSize) :
    s.engPut e .tile va n x = s.putTile e.bid va.toNat (toBytes n x) := by
  rw [State.engPut, engAt_tile _ h]

end

theorem touches_copyOne (c : Tc) (w : Nat) (dsp ssp : Space) (a d : Word64) (pub : Option (Nat × BitVec 32)) :
    EOp.touches c (.copy w dsp ssp [(a, d)] pub) = [⟨ssp, a, w, .load⟩, ⟨dsp, d, w, .store⟩] := rfl

theorem run_copyOne (e : Eng) (k w : Nat) (dsp ssp : Space) (a d : Word64) (pub : Option (Nat × BitVec 32)) (s : State) :
    EOp.run e k (.copy w dsp ssp [(a, d)] pub) s =
      (s.engGet e ssp a w).1.engPut e dsp d w (s.engGet e ssp a w).2 := rfl

section
variable {s : State} {bid k w : Nat} {p : EPend} {a d : Word64} (hop : p.op = .copy w .tile .tile [(a, d)] none)
include hop

/-- A copy within the block's tile memory is performed: its bytes are read, then written. -/
theorem tryOp_tileCopy (ha : a.toNat + w ≤ (s.block bid).tileSize) (hd : d.toNat + w ≤ (s.block bid).tileSize) :
    s.tryOp bid k p = ((s.putTile bid d.toNat
      ((List.range w).map fun j => (s.block bid).tile.get 0 (a.toNat + j))).opDone bid k p.num, none) := by
  let e : Eng := ⟨bid, ((s.block bid).tc.get Tc.unbound k).bind == .zoom⟩
  let bs : List Byte := (List.range w).map fun j => (s.block bid).tile.get 0 (a.toNat + j)
  have hbytes : toBytes w (ofBytes bs) = bs := by
    simpa [bs] using toBytes_ofBytes bs
  have hcheck : State.engCheck e (p.op.touches ((s.block bid).tc.get Tc.unbound k)) s = (s, none) := by
    rw [hop, touches_copyOne, State.engCheck, engAt_tile _ ha]
    dsimp only
    rw [State.engCheck, engAt_tile _ hd]
    rfl
  have hrun : EOp.run e k p.op s = s.putTile bid d.toNat bs := by
    rw [hop, run_copyOne, engGet_tile ha, engPut_tile _ hd]
    exact congrArg (s.putTile bid d.toNat) hbytes
  rw [State.tryOp, hcheck]
  dsimp only
  rw [hrun, hop]
  rfl

/-- One whose source lies past it, and below the window map, faults. -/
theorem tryOp_pastTile (ha : (s.block bid).tileSize < a.toNat + w) (hw : a.toNat < 0x400000) :
    s.tryOp bid k p = (s, some (.fault 0 a)) := by
  rw [State.tryOp, hop, touches_copyOne, State.engCheck, engAt_pastTile _ ha hw]

end

/-- While a group of the block is not to be saved by force, nothing is saved and no block ends. -/
theorem engineIdle_of_live {s : State} {bid : Nat} (hk : (s.block bid).killed = false) (hl : s.liveIx bid ≠ [])
    (hf : ∃ g ∈ s.liveGids (s.block bid), (s.group g).forced = false) : (s.trySave bid).blockOver bid = s := by
  obtain ⟨g, hg, hforced⟩ := hf
  have hall : ((s.liveGids (s.block bid)).all fun i => (s.group i).forced) = false :=
    List.all_eq_false.mpr ⟨g, hg, by simp [hforced]⟩
  have hsave : s.trySave bid = s := by simp [State.trySave, State.saveDue, hall]
  have hne : (s.liveIx bid).isEmpty = false := by simpa using hl
  rw [hsave]
  simp [State.blockOver, hk, hne]

/-- The groups of a block that have not ended are told by its slots. -/
theorem liveIx_setBlock {s : State} {bid : Nat} {b : Block} (hs : b.slots = (s.block bid).slots)
    (hc : b.pcore = (s.block bid).pcore) : (s.setBlock bid b).liveIx bid = s.liveIx bid := by
  simp only [State.liveIx, State.block_setBlock_self, Block.gids, hs, hc]
  rfl

/-- The copy completes: its bytes stand at their destination, and the counter has advanced. -/
theorem completes_tileCopy {s : State} {bid k w : Nat} {p : EPend} {rest : List EPend} {a d : Word64} {c : Tc}
    (hc : (s.block bid).tc.get Tc.unbound k = c) (hp : c.pend = p :: rest) (hs : c.stall = none)
    (hop : p.op = .copy w .tile .tile [(a, d)] none)
    (ha : a.toNat + w ≤ (s.block bid).tileSize) (hd : d.toNat + w ≤ (s.block bid).tileSize)
    (hn : p.num = c.value.toNat + 1) (hdone : c.done = []) (hlt : c.value.toNat + 1 < 2 ^ 64)
    (hr : ∀ q ∈ rest, q.num ≠ p.num) (hk : (s.block bid).killed = false) (hl : s.liveIx bid ≠ [])
    (hf : ∃ g ∈ s.liveGids (s.block bid), (s.group g).forced = false) :
    Completes (.engineOpComplete bid k p.num) s fun t =>
      t = { s with blocks := t.blocks } ∧ (∀ j, j ≠ bid → t.block j = s.block j) ∧
      t.block bid = { s.block bid with
        tile := (t.block bid).tile
        tc := (s.block bid).tc.set Tc.unbound k { c with value := c.value + 1, pend := rest } } ∧
      ∀ x, (t.block bid).tile.get 0 x = if d.toNat ≤ x ∧ x < d.toNat + w then
        (s.block bid).tile.get 0 (a.toNat + (x - d.toNat)) else (s.block bid).tile.get 0 x := by
  let bs : List Byte := (List.range w).map fun j => (s.block bid).tile.get 0 (a.toNat + j)
  let tile := (List.range bs.length).foldl (fun m j => m.set 0 (d.toNat + j) (bs.getD j 0)) (s.block bid).tile
  let b : Block := { s.block bid with
    tile := tile
    tc := (s.block bid).tc.set Tc.unbound k { c with value := c.value + 1, pend := rest } }
  have hnext : NextOp s bid k p := nextOp_of_head (by rw [hc, hp]) (by rw [hc, hs])
  have hput : ((s.putTile bid d.toNat bs).block bid) = { s.block bid with tile := tile } := State.block_setBlock_self _ _ _
  have hdoneS : (s.putTile bid d.toNat bs).opDone bid k p.num = s.setBlock bid b := by
    have hidle : ({ c with value := c.value + 1, pend := rest, done := [], stall := none } : Tc) =
        { c with value := c.value + 1, pend := rest } := by rw [← hdone, ← hs]
    rw [opDone_oldest (by rw [hput, hc]) hp hn hdone hlt hr, hput, hidle]
    simp only [State.putTile, State.setBlock, Store.set_set]
    rfl
  have hblk : (s.setBlock bid b).block bid = b := State.block_setBlock_self _ _ _
  have hover : ((s.setBlock bid b).trySave bid).blockOver bid = s.setBlock bid b :=
    engineIdle_of_live (by rw [hblk]; exact hk) ((liveIx_setBlock (b := b) rfl rfl).trans_ne hl) (by rw [hblk]; exact hf)
  refine ⟨s.setBlock bid b, ?_, rfl, fun j hj => State.block_setBlock_ne _ _ hj, ?_, fun x => ?_⟩
  · rw [hnext.completes (tryOp_tileCopy hop ha hd), hdoneS, hover]
  · rw [hblk]
  · rw [hblk]
    change tile.get 0 x = _
    have hlen : bs.length = w := by simp [bs]
    rw [get_foldl_bytes, hlen]
    split
    next hx => exact getD_map_range _ _ (by omega)
    next => rfl

/-! ### Ring copies (R268) -/

section
variable {s : State} {r : Nat} {i : BitVec 32}

theorem ringPublish_absent (h : i ∉ (s.ring r).pend) : exec (.ringPcpyPublish r i) s = .next s := by
  change Host.Outcome.next (s.ringPublish r i) = _
  simp [State.ringPublish, h]

section
variable (h : i ∈ (s.ring r).pend)
include h

/-- A ring in error discards the slot. -/
theorem ringPublish_discards (he : (s.ring r).st = .error) : exec (.ringPcpyPublish r i) s =
    .next (s.setRing r { s.ring r with pend := (s.ring r).pend.erase i }) := by
  change Host.Outcome.next (s.ringPublish r i) = _
  simp [State.ringPublish, h, he]

section
variable (he : (s.ring r).st ≠ .error)
include he

theorem ringPublish_publishes {q : Ring} (hq : (s.ring r).publish i 1 = some q) : exec (.ringPcpyPublish r i) s =
    .next (s.setRing r { q with pend := (s.ring r).pend.erase i }) := by
  have hpub : ({ s.ring r with pend := (s.ring r).pend.erase i } : Ring).publish i 1 =
      some { q with pend := (s.ring r).pend.erase i } := by
    unfold Ring.publish at hq ⊢
    split at hq
    next hok => cases hq; exact if_pos hok
    next => cases hq
  change Host.Outcome.next (s.ringPublish r i) = _
  simp [State.ringPublish, h, he, hpub]

theorem ringPublish_refused (hq : (s.ring r).publish i 1 = none) : exec (.ringPcpyPublish r i) s =
    .next ((s.setRing r { s.ring r with pend := (s.ring r).pend.erase i }).ringError r 0x80) := by
  have hpub : ({ s.ring r with pend := (s.ring r).pend.erase i } : Ring).publish i 1 = none := by
    unfold Ring.publish at hq ⊢
    split at hq
    next => cases hq
    next hbad => exact if_neg hbad
  change Host.Outcome.next (s.ringPublish r i) = _
  simp [State.ringPublish, h, he, hpub]

end

end

end

/-- Settles O42: which operation an event names, what trying it comes to, the one copy whose bytes the statement follows,
and the slot of a ring copy. -/
theorem engineEvents : Obligations.EngineEvents := by
  intro s s1 bid k r w p rest i info va a d b c ring ending
  refine ⟨fun hstall => engineEvents_idle (.inr (mayRun_stalled hstall)), fun q _ hz hp hn =>
    engineEvents_idle (.inr (mayRun_behind hz hp hn)), fun hnone => engineEvents_idle (.inl (findOp_none hnone)),
    fun hp hs => ?_, ringPublish_absent, fun hi he q hq => ⟨_, ringPublish_publishes hi he hq, rfl, ?_⟩,
    ringPublish_refused, ringPublish_discards⟩
  · have hnext : NextOp s bid k p := nextOp_of_head hp hs
    refine ⟨hnext.completes, fun ht => ⟨hnext.staysPending ht nofun, hnext.stalls ht, hnext.givesUp ht⟩,
      fun line ht => ⟨hnext.meetsBad ht, hnext.noStall ht nofun⟩,
      fun ht => ⟨hnext.staysPending ht nofun, hnext.noStall ht nofun⟩,
      fun hop ha hd hn hdone hlt hr hk hl hf => completes_tileCopy rfl hp hs hop ha hd hn hdone hlt hr hk hl hf,
      fun hop ha hw hc => hnext.stalls (tryOp_pastTile hop ha hw) hc, fun hn hdone hlt hr => ?_⟩
    rw [opDone_oldest rfl hp hn hdone hlt hr, State.block_setBlock_self, Store.get_set_self]
  · rw [State.ring_setRing_self]

end Sys2Proof.Machine
end

section
/-! PROOFS. Accesses of a group to memory (R214 to R219, R227 to R231): what locating, storing and read-modify-writes leave
outside the memory system, and the words that end by them. -/

namespace Sys2Proof.Machine

/-! ### Accesses act on memory alone -/

section
variable {s t : State} (h : MemOnly s t)
include h

theorem MemOnly.locate (sp : Space) (va : Word64) (n : Nat) (need : Need) : MemOnly s (t.locate sp va n need).1 := by
  unfold State.locate
  split
  · exact h
  · cases sp with
    | glob =>
      have ht := h.translate va need
      dsimp only
      split <;> next heq => rw [heq] at ht; exact ht
    | tile => dsimp only; split_ifs <;> first | exact h | (split <;> exact h)
    | vault => dsimp only; split_ifs <;> exact h

theorem MemOnly.locateAll (sp : Space) (addr : Nat → Word64) (n : Nat) (need : Need) (ls : List Nat) :
    MemOnly s (locateAll sp addr n need ls t).1 := by
  induction ls generalizing t with
  | nil => exact h
  | cons l ls ih => exact ih (h.locate sp (addr l) n need)

theorem MemOnly.relPart (x : Acc) : MemOnly s (t.relPart x) := by
  unfold State.relPart
  split
  · exact h.relScope _
  · exact h

theorem MemOnly.acqScope (y : Scope) : MemOnly s (t.acqScope y) := by
  unfold State.acqScope State.acquire1
  split_ifs
  · exact h
  · exact h
  · exact (memOnly_memSafe s).flushL1 _ h

theorem MemOnly.acqPart (x : Acc) : MemOnly s (t.acqPart x) := by
  unfold State.acqPart
  split
  · exact h.acqScope _
  · exact h

theorem MemOnly.rmw (x : Scope) (asid pa n : Nat) (f : List Byte → List Byte) : MemOnly s (t.rmw x asid pa n f).1 := by
  have hm := memOnly_memSafe s
  have hd : MemOnly s (if t.g.isLoupe then t else t.drainCore t.core) := by
    split
    · exact h
    · exact hm.drainCore _ h
  unfold State.rmw
  dsimp only
  generalize (if t.g.isLoupe = true then t else t.drainCore t.core) = u at hd ⊢
  split_ifs
  · exact hm.rmwHome _ _ _ _ hd
  · exact hm.l1Put _ _ _ (hm.rmwHome _ _ _ _ hd)
  · exact hm.atomicFrom _ _ _ _ _ _ hd
  · exact hm.l1Put _ _ _ (hm.atomicFrom _ _ _ _ _ _ hd)

/-! ### The firmware region and the context tables, which agents alone reach (R341, R342) -/

/-- What a store to the firmware region or a context table changes is an agent's to change. -/
theorem MemOnly.setFw (ha : s.g.isAgent = true) (rl : Store RList) (lr : Store LRec) (ba : Store (List (List Byte)))
    (ma : Store Mailbox) (oc : Store Word64) (cx : Store Ctx) :
    MemOnly s { t with rlists := rl, lrecs := lr, batches := ba, mail := ma, occ := oc, ctxs := cx } :=
  ⟨by rw [h.1], fun hn => absurd (ha.symm.trans hn) (by decide)⟩

theorem MemOnly.setFwWord (ha : s.g.isAgent = true) (vi : Nat) (v : Word64) (f : FwField) :
    MemOnly s (t.setFwWord vi v f) := by
  cases f with
  | push | ticket | record | batch | mailTicket | start | ready => exact h.setFw ha _ _ _ _ _ _
  | occ c =>
    unfold State.setFwWord
    dsimp only
    split
    · exact h.setFw ha _ _ _ _ _ _
    · exact h
  | entry l slot w =>
    unfold State.setFwWord
    dsimp only
    split
    · split
      · exact h.setFw ha _ _ _ _ _ _
      · exact h
    · exact h
  | ctx n w =>
    unfold State.setFwWord State.setCtx
    dsimp only
    split
    · exact h.setFw ha _ _ _ _ _ _
    · exact h
  | command | ring | copy | consumed | reserved | plain => exact h

theorem MemOnly.putFw (ha : s.g.isAgent = true) (vi : Nat) (tab : Bool) (off : Nat) (bs : List Byte) :
    MemOnly s (t.putFw vi tab off bs) :=
  foldl_keeps _ (fun u k hu => by
    unfold State.putFwWord
    dsimp only
    split
    · exact hu
    · exact hu.setFwWord ha _ _ _) _ h

end

/-- Located lanes reach the firmware region or a context table for an agent alone. -/
def FwOfAgent (s : State) (rs : List (Nat × Word64 × LRes)) : Prop :=
  ∀ r ∈ rs, ∀ vi tab off pa asid, r.2.2 = .ok (.fw vi tab off pa asid) → s.g.isAgent = true

theorem locate_fwOfAgent {s t u : State} (h : MemOnly s t) {sp : Space} {va : Word64} {n : Nat} {need : Need}
    {vi off pa asid : Nat} {tab : Bool} (hl : t.locate sp va n need = (u, .ok (.fw vi tab off pa asid))) :
    s.g.isAgent = true := by
  by_contra hna
  have hn : s.g.isAgent = false := Bool.eq_false_iff.mpr hna
  unfold State.locate at hl
  split at hl
  · cases hl
  · cases sp with
    | glob =>
      have ht := h.translate va need
      dsimp only at hl
      split at hl
      next heq =>
        rw [heq] at ht
        rw [ht.g, hn] at hl
        cases hl
      all_goals cases hl
    | tile =>
      dsimp only at hl
      split_ifs at hl
      · split at hl <;> cases hl
      · cases hl
    | vault => dsimp only at hl; split_ifs at hl <;> cases hl

theorem locateAll_fwOfAgent {s t : State} (h : MemOnly s t) (sp : Space) (addr : Nat → Word64) (n : Nat) (need : Need)
    (ls : List Nat) : FwOfAgent s (locateAll sp addr n need ls t).2 := by
  induction ls generalizing t with
  | nil => exact fun r hr => absurd hr List.not_mem_nil
  | cons l ls ih =>
    intro r hr vi tab off pa asid he
    rcases List.mem_cons.mp hr with rfl | hr
    · exact locate_fwOfAgent h (Prod.ext rfl he)
    · exact ih (h.locate sp (addr l) n need) r hr vi tab off pa asid he

theorem MemOnly.rmwAll {s t : State} (h : MemOnly s t) (x : Scope) (n : Nat) (f : Nat → Nat → Nat)
    {rs : List (Nat × Word64 × LRes)} (hf : FwOfAgent s rs) : MemOnly s (State.rmwAll x n f rs t).1 := by
  induction rs generalizing t with
  | nil => exact h
  | cons r rs ih =>
    have hrest : FwOfAgent s rs := fun q hq => hf q (List.mem_cons_of_mem _ hq)
    obtain ⟨l, va, res⟩ := r
    cases res with
    | ok loc =>
      cases loc with
      | glob pa asid => exact ih (h.rmw _ _ _ _ _) hrest
      | fw vi tab off pa asid =>
        exact ih ((h.rmw _ _ _ _ _).putFw (hf _ List.mem_cons_self _ _ _ _ _ rfl) _ _ _ _) hrest
      | tile | vault => exact ih h hrest
    | mis | prot | page | wait => exact ih h hrest

/-! ### Words that go on after acting on memory -/

section
variable {s u : State} (h : MemOnly s u)
include h

theorem MemOnly.went {t : State} {pc : PC} (hw : Went u t pc) : Went s t pc :=
  ⟨by rw [hw.ent, h.e, h.clock], fun i hi => by rw [hw.others i (by rwa [h.cur]), h.g]⟩

/-- Groups and blocks rewritten beside what an access has changed. -/
theorem MemOnly.beside (gs : Store Group) (bs : Store Block)
    (hk : (Store.get Group.empty gs s.cur.gid).kind = s.g.kind) :
    MemOnly { s with groups := gs, blocks := bs } { u with groups := gs, blocks := bs } := by
  refine ⟨by rw [h.1], fun hn => h.2 ?_⟩
  rw [← hn]
  change (s.g.kind == .agent) = ((Store.get Group.empty gs s.cur.gid).kind == .agent)
  rw [hk]

/-- Rewriting the executing group beside what an access has changed. -/
theorem MemOnly.setG {g : Group} (hk : g.kind = s.g.kind) : MemAndGroup s (u.setG g) := by
  have hself : Store.get Group.empty (u.setG g).groups s.cur.gid = g := by
    rw [State.groups_setG, h.cur]
    exact Store.get_set_self _ _ _ _
  have hu : ({ u with groups := (u.setG g).groups, blocks := s.blocks } : State) = u.setG g := by rw [← h.blocks]; rfl
  exact ⟨hu ▸ h.beside (u.setG g).groups s.blocks (by rw [hself, hk]),
    fun i hi => by rw [State.group_setG_ne _ _ (by rwa [h.cur]), h.group]⟩

/-- A word that acts on memory alone and goes on. -/
theorem MemOnly.stores {i : Instr} (hi : exec i s = commit (.ok u)) : Stores i s fun t => t = u.advance s.next := by
  have hn : exec i s = .next (u.advance s.next) := by rw [hi, ← h.next]; rfl
  refine ⟨_, hn, ?_, h.went (went_setG u u.g s.next rfl), ?_, rfl⟩
  · exact h.setG (by rw [Group.kind_setEnt, h.g])
  · rw [State.advance_eq, State.g_setG, h.g]
    rfl

end

/-- An acquire leaves the group as it was written before. -/
theorem acqPart_setG {u : State} {g : Group} (x : Acc) (hk : g.kind = u.g.kind) :
    (u.setG g).acqPart x = (u.acqPart x).setG g := by
  have hl : (u.setG g).g.isLoupe = u.g.isLoupe := by rw [State.g_setG, Group.isLoupe, hk]; rfl
  have hc : (u.setG g).core = u.core := by
    rw [State.core, State.homeGid, State.g_setG, hk]
    rfl
  unfold State.acqPart State.acqScope State.acquire1
  rw [hl, hc]
  split_ifs <;> rfl

/-- A word that sets registers from memory, acquires and goes on. -/
theorem MemOnly.loadsV {s u : State} (h : MemOnly s u) {i : Instr} {m : Mask} {d n : Nat} {f : Nat → Nat → Word32}
    {x : Acc} (hn : 0 < n) (hi : exec i s = commit (.ok ((u.writeVs m d n fun k l => f k l.val).acqPart x))) :
    LoadsV i s m d n f := by
  obtain ⟨n, rfl⟩ := Nat.exists_eq_succ_of_ne_zero hn.ne'
  obtain ⟨v, hv, htook⟩ := writeVs_tookV u m d n fun k l => f k l.val
  have hw : MemOnly s (u.acqPart x) := h.acqPart x
  have hg : u.g = (u.acqPart x).g := h.g.trans hw.g.symm
  rw [hv, acqPart_setG (g := { u.g with v := v }) x rfl, commit_ok_setG, hw.next] at hi
  refine ⟨_, hi, hw.setG ?_, hw.went (went_setG _ _ _ ?_), ⟨fun k hk l hl => ?_, fun r hr => ?_, ?_⟩, ?_⟩
  · rw [Group.kind_setEnt, ← h.g]
  · rw [← hg]
  · rw [State.g_setG, Group.v_setEnt, htook.value k hk, Row.at_merge _ _ _ _ hl, h.g]
  · rw [State.g_setG, Group.v_setEnt, htook.others r hr, h.g]
  · rw [State.g_setG, Group.sr_setEnt, h.g]
    simp
  · rw [State.g_setG, h.g]
    rfl

/-! ### Checks that pass (R216) -/

theorem decideAcc_of_allOk {s1 : State} {rs : List (Nat × Word64 × LRes)} (h : AllOk s1 rs) (part : Nat → Bool)
    (s0 : State) : decideAcc part rs s1 s0 = none := by
  obtain ⟨hok, hbad⟩ := h
  have hfind : ∀ p : Nat × Word64 × LRes → Bool, (∀ l va loc, p (l, va, .ok loc) = false) → rs.find? p = none := by
    refine fun p hp => List.find?_eq_none.mpr fun r hr => ?_
    obtain ⟨loc, he⟩ := hok r hr
    obtain ⟨l, va, res⟩ := r
    cases he
    simp [hp]
  have hwaits : ∀ q : Nat × Word64 × LRes → Option Wait, (∀ l va loc, q (l, va, .ok loc) = none) →
      rs.filterMap q = [] := by
    refine fun q hq => List.filterMap_eq_nil_iff.mpr fun r hr => ?_
    obtain ⟨loc, he⟩ := hok r hr
    obtain ⟨l, va, res⟩ := r
    cases he
    exact hq l va loc
  unfold decideAcc
  dsimp only
  rw [hfind, hfind, hfind, hwaits, hbad]
  · rfl
  all_goals simp

/-! ### Atomics and reductions (R102, R227 to R231) -/

section
variable {s s1 : State} {rs : List (Nat × Word64 × LRes)} {m : MAddr} {x : Acc} {n : Nat}
  (hl : locateAll .glob (fun l => s.addr m l) n .both ((Mask.list s.actNH).map Fin.val) s = (s1, rs))
  (hok : AllOk s1 rs)
include hl

theorem memOnly_rmwAll (f : Nat → Nat → Nat) : MemOnly s (State.rmwAll x.scope n f rs (s1.relPart x)).1 := by
  have hm := (MemOnly.refl s).locateAll .glob (fun l => s.addr m l) n .both ((Mask.list s.actNH).map Fin.val)
  have hf := locateAll_fwOfAgent (MemOnly.refl s) .glob (fun l => s.addr m l) n .both ((Mask.list s.actNH).map Fin.val)
  rw [hl] at hm hf
  exact (hm.relPart x).rmwAll _ _ _ hf

include hok

theorem atomic_eq (f : Nat → Nat → Nat) (k : State → Store Nat → State) : s.atomic n m x f k =
    .ok ((k (State.rmwAll x.scope n f rs (s1.relPart x)).1 (State.rmwAll x.scope n f rs (s1.relPart x)).2).acqPart x) := by
  rw [State.atomic]
  dsimp only
  rw [hl]
  dsimp only
  rw [decideAcc_of_allOk hok]

theorem atomicRet_loadsV {i : Instr} {d : Fin 96} {f : Nat → Nat → Nat} (hn : 0 < n / 4)
    (hi : exec i s = s.atomicRet n d m x f) :
    LoadsV i s s.actNH d.val (n / 4) fun k l =>
      BitVec.ofNat 32 (Store.get 0 (State.rmwAll x.scope n f rs (s1.relPart x)).2 l / 2 ^ (32 * k)) := by
  refine (memOnly_rmwAll (x := x) hl f).loadsV hn (x := x) ?_
  rw [hi, State.atomicRet, atomic_eq hl hok]
  rfl

theorem atomicRed_stores {i : Instr} {f : Nat → Nat → Nat} (hi : exec i s = s.atomicRed n m x f) :
    Stores i s fun t => t = ((State.rmwAll x.scope n f rs (s1.relPart x)).1.acqPart x).advance s.next := by
  refine ((memOnly_rmwAll (x := x) hl f).acqPart x).stores ?_
  rw [hi, State.atomicRed, atomic_eq hl hok]

end

/-- The paired bfloat16 form needs the deprecated class (R147, R169). -/
theorem redAddPbf16_eq {s : State} {a : Src} {m : MAddr} {x : Acc} (hf : s.feature 25 = true) :
    exec (.redAddPbf16 a m x) s = s.atomicRed 4 m x fun l old => atVal .pbf .n32 old (s.srcI a .i32 l) := by
  change execRedAddPbf16 a m x s = _
  rw [execRedAddPbf16, hf]
  rfl

theorem redAddPbf16_traps {s : State} {a : Src} {m : MAddr} {x : Acc} (hf : s.feature 25 = false) :
    Traps (.redAddPbf16 a m x) s tInstruction := by
  change execRedAddPbf16 a m x s = _
  rw [execRedAddPbf16, hf]
  rfl

/-- Settles O29: each form is a returning atomic or a reduction of its width and operation. -/
theorem atomics : Obligations.Atomics := by
  have hty : ∀ t : AType, 0 < AType.bits t / 8 / 4 := by rintro ⟨⟩ <;> decide
  refine ⟨fun s s1 rs d m x => ⟨fun t hl hok => atomicRet_loadsV hl hok (hty t) rfl,
      fun t hl hok => atomicRet_loadsV hl hok (hty _) rfl, fun t hl hok => atomicRet_loadsV hl hok (hty _) rfl,
      fun t hl hok => atomicRet_loadsV hl hok (hty _) rfl, fun t hl hok => atomicRet_loadsV hl hok (hty _) rfl,
      fun w => ?_, fun hl hok => atomicRet_loadsV hl hok (by decide) rfl,
      fun hl hok => atomicRet_loadsV hl hok (by decide) rfl, fun hl hok => atomicRet_loadsV hl hok (by decide) rfl⟩,
    fun s s1 rs a m x => ⟨fun t => ⟨fun hl hok => atomicRed_stores hl hok rfl, fun hl hok => atomicRed_stores hl hok rfl⟩,
      fun t hl hok => atomicRed_stores hl hok rfl, fun t hl hok => atomicRed_stores hl hok rfl, fun w => ?_,
      fun hf hl hok => atomicRed_stores hl hok (redAddPbf16_eq hf), redAddPbf16_traps⟩⟩
  · cases w with
    | b32 | b64 =>
      exact ⟨fun hl hok => atomicRet_loadsV hl hok (by decide) rfl, fun hl hok => atomicRet_loadsV hl hok (by decide) rfl,
        fun hl hok => atomicRet_loadsV hl hok (by decide) rfl, fun hl hok => atomicRet_loadsV hl hok (by decide) rfl,
        fun hl hok => atomicRet_loadsV hl hok (by decide) rfl⟩
  · cases w with
    | b32 | b64 =>
      exact ⟨fun hl hok => atomicRed_stores hl hok rfl, fun hl hok => atomicRed_stores hl hok rfl,
        fun hl hok => atomicRed_stores hl hok rfl⟩

end Sys2Proof.Machine
end

section
/-! PROOFS. Issue of Prism and Zoom operations, and the counter instructions (R85, R105, R106, R262 to R276, R297). -/

namespace Sys2Proof.Machine

/-! ### A counter handle written after a release -/

section
variable {s u : State} (h : MemOnly s u)
include h

theorem MemOnly.tc (k : Nat) : u.tc k = s.tc k := by rw [State.tc, h.blk]; rfl

theorem MemOnly.slot : u.slot = s.slot := by rw [State.slot, h.chain, h.e]; rfl

theorem MemOnly.here : u.here = s.here := by rw [State.here, h.cur, h.e, h.slot]; rfl

theorem MemOnly.rings : u.rings = s.rings := by rw [h.1]

end

/-- A counter handle of the executing party's block takes a new value. -/
def State.setTc (s : State) (k : Nat) (c : Tc) : State :=
  s.setBlk { s.blk with tc := s.blk.tc.set Tc.unbound k c }

/-- A word has written a counter handle, beside what its release changed, and has gone on. -/
structure WroteTc (s t : State) (k : Nat) (c : Tc) : Prop where
  memory : MemOnly { s with groups := t.groups, blocks := t.blocks } t
  groups : ∀ j, j ≠ s.cur.gid → t.group j = s.group j
  went : Went s t s.next
  group : t.g = { s.g with tab := t.g.tab }
  block : t.blk = { s.blk with tc := t.blk.tc }
  others : ∀ j, j ≠ k → t.tc j = s.tc j
  counter : t.tc k = c

theorem MemOnly.wroteTc {s u : State} (h : MemOnly s u) (k : Nat) (c : Tc) :
    WroteTc s ((u.setTc k c).advance s.next) k c := by
  let e := s.e.onAt s.next s.clock
  let g := s.g.setEnt s.cur.ent e
  let b : Block := { s.blk with tc := s.blk.tc.set Tc.unbound k c }
  have ht : (u.setTc k c).advance s.next =
      { u with groups := s.groups.set Group.empty s.cur.gid g, blocks := s.blocks.set Block.empty s.g.bid b } := by
    have hgs : u.groups.set Group.empty u.cur.gid (u.g.setEnt u.cur.ent (u.e.onAt s.next u.clock)) =
        s.groups.set Group.empty s.cur.gid g := by rw [h.groups, h.g, h.e, h.clock, h.cur]
    have hbs : u.blocks.set Block.empty u.g.bid { u.blk with tc := u.blk.tc.set Tc.unbound k c } =
        s.blocks.set Block.empty s.g.bid b := by rw [h.blocks, h.g, h.blk]
    rw [← hgs, ← hbs]
    rfl
  have hself : Store.get Group.empty (s.groups.set Group.empty s.cur.gid g) s.cur.gid = g := Store.get_set_self _ _ _ _
  have htg : ((u.setTc k c).advance s.next).g = g := by
    rw [ht]
    change Store.get Group.empty (s.groups.set Group.empty s.cur.gid g) u.cur.gid = g
    rw [h.cur, hself]
  have htb : ((u.setTc k c).advance s.next).blk = b := by
    rw [State.blk, htg, ht]
    exact Store.get_set_self _ _ _ _
  refine ⟨?_, fun j hj => ?_, ⟨?_, fun i hi => ?_⟩, ?_, ?_, fun j hj => ?_, ?_⟩
  · rw [ht]
    exact h.beside _ _ (by rw [hself]; rfl)
  · rw [ht]
    exact Store.get_set_ne _ _ _ hj
  · have hcur : ((u.setTc k c).advance s.next).cur = s.cur := h.cur
    rw [State.e, htg, hcur]
    exact Group.ent_setEnt_self _ _ _
  · rw [htg]
    exact Group.ent_setEnt_ne _ _ hi
  · rw [htg]
    rfl
  · rw [htb]
  · rw [State.tc, htb]
    exact Store.get_set_ne _ _ _ hj
  · rw [State.tc, htb]
    exact Store.get_set_self _ _ _ _

/-- A handle with an operation issued as its next (R105, R106). -/
def State.issuedTc (s : State) (k : Nat) (op : EOp) : Tc :=
  { s.tc k with
    issued := (s.tc k).issued + 1
    pend := (s.tc k).pend ++ [⟨(s.tc k).issued + 1, s.cur.gid, op, s.e.pc, s.slot⟩] }

theorem issueOp_eq (s : State) (k : Nat) (x : Scope) (op : EOp) :
    s.issueOp k x op = (s.relScope x).setTc k (s.issuedTc k op) := by
  have h : MemOnly s (s.relScope x) := (MemOnly.refl s).relScope x
  rw [State.issueOp, h.tc, h.cur, h.e, h.slot]
  rfl

theorem issueOp_wroteTc (s : State) (k : Nat) (x : Scope) (op : EOp) :
    WroteTc s ((s.issueOp k x op).advance s.next) k (s.issuedTc k op) := by
  rw [issueOp_eq]
  exact ((MemOnly.refl s).relScope x).wroteTc k _

theorem commit_issueOp (s : State) (k : Nat) (x : Scope) (op : EOp) :
    commit (.ok (s.issueOp k x op)) = .next ((s.issueOp k x op).advance s.next) := by
  have hn : (s.issueOp k x op).next = s.next := by
    rw [issueOp_eq]
    exact ((MemOnly.refl s).relScope x).next
  rw [← hn]
  rfl

/-- What the issue of an operation comes to, with what it leaves as it was. -/
theorem issues_of {i : Instr} {s : State} {k : Nat} {x : Scope} {op : EOp}
    (hi : exec i s = commit (.ok (s.issueOp k x op))) : Completes i s fun t =>
      MemOnly { s with groups := t.groups, blocks := t.blocks } t ∧ (∀ j, j ≠ s.cur.gid → t.group j = s.group j) ∧
      Went s t s.next ∧ t.g = { s.g with tab := t.g.tab } ∧ t.blk = { s.blk with tc := t.blk.tc } ∧
      (∀ j, j ≠ k → t.tc j = s.tc j) ∧
      t.tc k = { s.tc k with
        issued := (s.tc k).issued + 1
        pend := (s.tc k).pend ++ [⟨(s.tc k).issued + 1, s.cur.gid, op, s.e.pc, s.slot⟩] } ∧
      t = (s.issueOp k x op).advance s.next := by
  obtain ⟨hmem, hgroups, hwent, hg, hblk, hothers, hc⟩ := issueOp_wroteTc s k x op
  exact ⟨_, hi.trans (commit_issueOp s k x op), hmem, hgroups, hwent, hg, hblk, hothers, hc, rfl⟩

/-! ### Per-lane copies and adds (R85, R265 to R268) -/

theorem findSome?_or_of_none {α β : Type} {l : List α} {f g : α → Option β} (h : ∀ a ∈ l, f a = none) :
    l.findSome? (fun a => (f a).or (g a)) = l.findSome? g := by
  induction l with
  | nil => rfl
  | cons a l ih =>
    obtain ⟨ha, hl⟩ := List.forall_mem_cons.mp h
    rw [List.findSome?_cons, List.findSome?_cons, ha, Option.none_or, ih hl]

section
variable {s : State} {w : Nat} {adds : Bool} {d a : Fin 48} {dsp ssp : Space} {ch : Fin 8}
  {op : List (Word64 × Word64) → EOp}

theorem perLane_unbound (h : s.prismOf ch.val = none) :
    s.perLane w adds d a dsp ssp ch op = .trap (tProt 5 none none) s := by
  simp only [State.perLane, h]

section
variable {k : Nat} (hk : s.prismOf ch.val = some k)
include hk

/-- The first lane that fails a check names the trap. -/
theorem perLane_trap {x : Trap} (hb : s.saveBars dsp = false ∨ s.pairs d a ≠ [])
    (hx : (s.pairs d a).findSome? (fun p => (s.lanePair w dsp ssp p.1 p.2.1 p.2.2).or
      (if adds then s.addStop dsp p.1 p.2.2 else none)) = some x) :
    s.perLane w adds d a dsp ssp ch op = .trap x s := by
  have hbar : (s.saveBars dsp && (s.pairs d a).isEmpty) = false := by
    rcases hb with hb | hb <;> simp [hb]
  simp only [State.perLane, hk, hbar, Bool.false_eq_true, if_false, List.head?_filterMap, hx]

section
variable (hb : s.saveBars dsp = false)
  (hp : ∀ p ∈ s.pairs d a, s.lanePair w dsp ssp p.1 p.2.1 p.2.2 = none)
include hb hp

omit hk hb in
theorem perLane_noTrap (ha : adds = true → ∀ p ∈ s.pairs d a, s.addStop dsp p.1 p.2.2 = none) :
    (s.pairs d a).findSome? (fun p => (s.lanePair w dsp ssp p.1 p.2.1 p.2.2).or
      (if adds then s.addStop dsp p.1 p.2.2 else none)) = none := by
  rw [findSome?_or_of_none hp]
  refine List.findSome?_eq_none_iff.mpr fun p hmem => ?_
  split
  next h => exact ha h p hmem
  next => rfl

/-- Where every lane passes its checks, and no destination waits for a walk, the operation is issued. -/
theorem perLane_issues (ha : adds = true → ∀ p ∈ s.pairs d a, s.addStop dsp p.1 p.2.2 = none)
    (hw : (if adds then (s.pairs d a).filterMap fun p => s.addWait dsp p.2.2 else []) = []) :
    s.perLane w adds d a dsp ssp ch op = .ok (s.issueOp k .core (op ((s.pairs d a).map Prod.snd))) := by
  simp only [State.perLane, hk, hb, Bool.false_and, Bool.false_eq_true, if_false, List.head?_filterMap,
    perLane_noTrap hp ha, hw]

/-- An add waits for the walks of its destinations. -/
theorem perLane_waits (ha : adds = true → ∀ p ∈ s.pairs d a, s.addStop dsp p.1 p.2.2 = none) {q : Wait} {qs : List Wait}
    (hw : (if adds then (s.pairs d a).filterMap fun p => s.addWait dsp p.2.2 else []) = q :: qs) :
    s.perLane w adds d a dsp ssp ch op = .park (Wait.join (q :: qs)) s := by
  simp only [State.perLane, hk, hb, Bool.false_and, Bool.false_eq_true, if_false, List.head?_filterMap,
    perLane_noTrap hp ha, hw]

end

end

end

section
variable {s : State} (hl : s.g.isLoupe = false)
include hl

theorem exec_pcpy (w : PcpyW) (d a : Fin 48) (dsp ssp : Space) (ch : Fin 8) :
    exec (.pcpy w false d a dsp ssp ch) s = commit (s.perLane (PcpyW.bytes w) false d a dsp ssp ch fun xs =>
      .copy (PcpyW.bytes w) dsp ssp xs none) := commit_groupOnly hl _

theorem exec_pcpyRing (w : PcpyW) (d a : Fin 48) (dsp ssp : Space) (ch : Fin 8) :
    exec (.pcpy w true d a dsp ssp ch) s = commit (s.pcpyRing (PcpyW.bytes w) d a ssp ch) := commit_groupOnly hl _

theorem exec_padd (ty : PaddTy) (d a : Fin 48) (dsp ssp : Space) (ch : Fin 8) :
    exec (.padd ty d a dsp ssp ch) s = commit (s.perLane (PaddTy.bytes ty) true d a dsp ssp ch fun xs =>
      .add ty dsp ssp xs) := commit_groupOnly hl _

end

/-! ### Copies to a ring (R268) -/

section
variable {s : State} {w k r : Nat} {d a : Fin 48} {ssp : Space} {ch : Fin 8} {q : Fin 16}

theorem pcpyRing_unbound (h : s.prismOf ch.val = none ∨ s.attached ch.val = none) :
    s.pcpyRing w d a ssp ch = .trap (tProt 5 none none) s := by
  unfold State.pcpyRing
  split
  next hk ha => rcases h with h | h <;> simp [h] at hk ha
  next => rfl

/-- The slot that a ring copy claims: the ring, its owner noted as a producer, with one slot more filled. -/
def State.claimed (s : State) (r : Nat) : State :=
  s.setRing r { (s.ring r).produces s.g.bid s.g.gix with fill := (s.ring r).fill + 1 }

section
variable (hk : s.prismOf ch.val = some k) (ha : s.attached ch.val = some (q, r)) (hact : (s.ring r).st = .active)
  (hp : ∀ p ∈ s.pairs d a, s.laneSlot w (2 ^ (s.ring r).lsize) ssp p.1 p.2.1 p.2.2 = none)
include hk ha hact hp

/-- No lane is stopped, and the ring, with its owner noted as a producer, is no ring in error. -/
theorem pcpyRing_checked : s.pcpyRing w d a ssp ch =
    if ((s.ring r).produces s.g.bid s.g.gix).canClaim 1 then
      .ok ((s.claimed r).issueOp k .core (.copy w .glob ssp
        ((s.pairs d a).map fun p => (p.2.1, (s.ring r).slotVa (s.ring r).fill + p.2.2)) (some (r, (s.ring r).fill))))
    else .park (.room r) s := by
  have hnone : ((s.pairs d a).filterMap fun p =>
      s.laneSlot w (2 ^ ((s.ring r).produces s.g.bid s.g.gix).lsize) ssp p.1 p.2.1 p.2.2).head? = none := by
    rw [List.head?_filterMap]
    exact List.findSome?_eq_none_iff.mpr hp
  have herr : (((s.ring r).produces s.g.bid s.g.gix).st == .error) = false := by
    change ((s.ring r).st == .error) = false
    rw [hact]
    rfl
  simp only [State.pcpyRing, hk, ha, hnone, herr, Bool.false_eq_true, if_false]
  cases ((s.ring r).produces s.g.bid s.g.gix).canClaim 1 <;> rfl

theorem pcpyRing_parks (hfull : 2 ^ (s.ring r).lcount ≤ ((s.ring r).fill - (s.ring r).read).toNat) :
    s.pcpyRing w d a ssp ch = .park (.room r) s := by
  have hroom : ((s.ring r).produces s.g.bid s.g.gix).room = 0 := Nat.sub_eq_zero_of_le hfull
  rw [pcpyRing_checked hk ha hact hp, if_neg (by simp [Ring.canClaim, hroom])]

theorem pcpyRing_claims (hroom : ((s.ring r).fill - (s.ring r).read).toNat < 2 ^ (s.ring r).lcount) :
    s.pcpyRing w d a ssp ch = .ok ((s.claimed r).issueOp k .core (.copy w .glob ssp
      ((s.pairs d a).map fun p => (p.2.1, (s.ring r).slotVa (s.ring r).fill + p.2.2)) (some (r, (s.ring r).fill)))) := by
  have hpos : 1 ≤ ((s.ring r).produces s.g.bid s.g.gix).room := Nat.sub_pos_of_lt hroom
  have hst : ((s.ring r).produces s.g.bid s.g.gix).st = .active := hact
  rw [pcpyRing_checked hk ha hact hp, if_pos (by simp [Ring.canClaim, hst, hpos])]

end

end

/-- A claimed slot changes its ring alone. -/
theorem wroteTc_of_claimed {s t : State} {r k : Nat} {c : Tc} (h : WroteTc (s.claimed r) t k c) :
    Went s t s.next ∧ (t.ring r).fill = (s.ring r).fill + 1 := by
  have hr : t.rings = (s.claimed r).rings := h.memory.rings
  exact ⟨⟨h.went.ent, h.went.others⟩, by rw [State.ring, hr]; exact congrArg Ring.fill (Store.get_set_self _ _ _ _)⟩

/-! ### Bulk transforms (R269 to R271) -/

section
variable {s : State} {ch : Nat} {dsp ssp : Space} {src dst : Word64} {sal dal slen dlen : Nat} {op : EOp}

theorem bulk_unbound (h : s.prismOf ch = none) :
    s.bulk ch dsp ssp src dst sal dal slen dlen op = .trap (tProt 5 none none) s := by
  simp only [State.bulk, h]

theorem bulk_issues {k : Nat} (hk : s.prismOf ch = some k) (hs : src.toNat % sal = 0) (hd : dst.toNat % dal = 0)
    (hb : s.saveBars dsp = false) (hrs : s.rangeAt ssp src slen = none) (hrd : s.rangeAt dsp dst dlen = none) :
    s.bulk ch dsp ssp src dst sal dal slen dlen op = .ok (s.issueOp k .core op) := by
  simp [State.bulk, hk, aligned, hs, hd, hb, hrs, hrd]

end

/-- The bits of a word from one on, all of them. -/
theorem bits_top (x : Word64) {k : Nat} (hk : k ≤ 64) : bits x k (64 - k) = x.toNat / 2 ^ k := by
  rw [bits]
  refine Nat.mod_eq_of_lt (Nat.div_lt_of_lt_mul ?_)
  rw [← Nat.pow_add, Nat.add_sub_cancel' hk]
  exact x.isLt

/-- A control word meets the bounds of R270. -/
def interleaveOk (c : Nat) : Prop :=
  c / 2 ^ 46 = 0 ∧ 2 ≤ c / 2 ^ 32 % 256 ∧ c / 2 ^ 32 % 256 ≤ 64 ∧ 1 ≤ c % 2 ^ 32 ∧ c % 2 ^ 32 ≤ 2 ^ 24

/-- A control word meets the bounds of R271. -/
def swizzleOk (c lb : Nat) : Prop :=
  c / 2 ^ 46 = 0 ∧ c / 2 ^ 32 % 1024 = 0 ∧ 1 ≤ c % 2 ^ 32 ∧ c % 2 ^ 32 ≤ 2 ^ 24 ∧ c % 2 ^ 32 % 2 ^ lb = 0

section
variable {s : State} (hl : s.g.isLoupe = false) {dir : Bool} {ch : Fin 8} {c2 : Fin 2} {n : Fin 62} {z : Swz}
include hl

theorem pcpyi_traps (hc : ¬interleaveOk (s.readS (n.val + 2)).toNat) : Traps (.pcpyi dir ch n) s tEncoding := by
  have hbits : ¬(bits (s.readS (n.val + 2)) 46 18 = 0 ∧ 2 ≤ bits (s.readS (n.val + 2)) 32 8 ∧
      bits (s.readS (n.val + 2)) 32 8 ≤ 64 ∧ 1 ≤ bits (s.readS (n.val + 2)) 0 32 ∧
      bits (s.readS (n.val + 2)) 0 32 ≤ 2 ^ 24) := by
    rw [show 18 = 64 - 46 from rfl, bits_top _ (by decide), bits_zero]
    exact hc
  refine (commit_groupOnly hl _).trans ?_
  rw [State.pcpyi]
  split
  · rw [if_neg hbits]; rfl
  · rfl

theorem pcpys_traps (hc : ¬swizzleOk (s.readS (n.val + 2)).toNat (7 + z.sb.val)) :
    Traps (.pcpys c2 n z) s tEncoding := by
  have hbits : ¬(bits (s.readS (n.val + 2)) 46 18 = 0 ∧ bits (s.readS (n.val + 2)) 32 10 = 0 ∧
      1 ≤ bits (s.readS (n.val + 2)) 0 32 ∧ bits (s.readS (n.val + 2)) 0 32 ≤ 2 ^ 24 ∧
      bits (s.readS (n.val + 2)) 0 32 % 2 ^ (7 + z.sb.val) = 0) := by
    rw [show 18 = 64 - 46 from rfl, bits_top _ (by decide), bits_zero]
    exact hc
  refine (commit_groupOnly hl _).trans ?_
  rw [State.pcpys]
  split
  · rw [if_neg hbits]; rfl
  · rfl

section
variable {dsp ssp : Space} (hd : spaceOf ((s.readS (n.val + 2)).toNat / 2 ^ 44 % 4) = some dsp)
  (hs : spaceOf ((s.readS (n.val + 2)).toNat / 2 ^ 42 % 4) = some ssp)
include hd hs

/-- With a legal control word an interleave is a bulk operation on its channel. -/
theorem exec_pcpyi (hc : interleaveOk (s.readS (n.val + 2)).toNat) : exec (.pcpyi dir ch n) s =
    let c := (s.readS (n.val + 2)).toNat
    let esz := 2 ^ (c / 2 ^ 40 % 4)
    let m := interleaved dir (c / 2 ^ 32 % 256) (c % 2 ^ 32)
    commit (s.bulk ch.val dsp ssp (s.readS n.val) (s.readS (n.val + 1)) esz esz (esz * if dir then m else c % 2 ^ 32)
      (esz * if dir then c % 2 ^ 32 else m)
      (.interleave dir esz (c / 2 ^ 32 % 256) (c % 2 ^ 32) dsp ssp (s.readS n.val) (s.readS (n.val + 1)))) := by
  have hd' : spaceOf (bits (s.readS (n.val + 2)) 44 2) = some dsp := hd
  have hs' : spaceOf (bits (s.readS (n.val + 2)) 42 2) = some ssp := hs
  refine (commit_groupOnly hl _).trans ?_
  rw [State.pcpyi, hd', hs']
  refine congrArg commit ((if_pos ?_).trans ?_)
  · rw [show 18 = 64 - 46 from rfl, bits_top _ (by decide), bits_zero]
    exact hc
  · rw [bits_zero]
    rfl

/-- With a legal control word a swizzle is a bulk operation on its channel. -/
theorem exec_pcpys (hc : swizzleOk (s.readS (n.val + 2)).toNat (7 + z.sb.val)) : exec (.pcpys c2 n z) s =
    let len := (s.readS (n.val + 2)).toNat % 2 ^ 32
    commit (s.bulk (6 + c2.val) dsp ssp (s.readS n.val) (s.readS (n.val + 1)) (2 ^ (4 + z.cs.val))
      (2 ^ (7 + z.sb.val + 3)) len len (.swizzle z len dsp ssp (s.readS n.val) (s.readS (n.val + 1)))) := by
  have hd' : spaceOf (bits (s.readS (n.val + 2)) 44 2) = some dsp := hd
  have hs' : spaceOf (bits (s.readS (n.val + 2)) 42 2) = some ssp := hs
  refine (commit_groupOnly hl _).trans ?_
  rw [State.pcpys, hd', hs']
  refine congrArg commit ((if_pos ?_).trans ?_)
  · rw [show 18 = 64 - 46 from rfl, bits_top _ (by decide), bits_zero]
    exact hc
  · rw [bits_zero]

end

end

/-! ### Zoom operations (R263, R272 to R276, R297) -/

section
variable {s : State} {f : State → Eff}

theorem onZoom_off (hf : s.feature 20 = false) : s.onZoom f = .trap tInstruction s := by
  rw [State.onZoom, hf]
  rfl

variable (hl : s.g.isLoupe = false) (hf : s.feature 20 = true)
include hl hf

theorem onZoom_partial (hm : s.partialMask = true) : s.onZoom f = .trap tPartial s := by
  simp [State.onZoom, State.groupOnly, hl, hf, hm]

theorem onZoom_whole (hm : s.partialMask = false) : s.onZoom f = f s := by
  simp [State.onZoom, State.groupOnly, hl, hf, hm]

end

theorem exec_zoom {s : State} {i : Instr} {h : Fin 32} {n : Fin 64} {slot : Fin 4}
    (hi : i ∈ [Instr.zrst n, .zprl n, .zcpy n, .ztbl h n slot]) : ∃ f, exec i s = commit (s.onZoom f) := by
  simp only [List.mem_cons, List.not_mem_nil, or_false] at hi
  rcases hi with rfl | rfl | rfl | rfl
  · exact ⟨fun s => s.transfer 1 n, rfl⟩
  · exact ⟨fun s => s.transfer 2 n, rfl⟩
  · exact ⟨fun s => s.transfer 3 n, rfl⟩
  · exact ⟨fun s => s.ztbl h n slot, rfl⟩

theorem exec_transfer {s : State} {i : Instr} {n : Fin 64} {op : Nat}
    (hi : op = 1 ∧ i = .zrst n ∨ op = 2 ∧ i = .zprl n ∨ op = 3 ∧ i = .zcpy n) :
    exec i s = commit (s.onZoom fun s => s.transfer op n) := by
  rcases hi with ⟨rfl, rfl⟩ | ⟨rfl, rfl⟩ | ⟨rfl, rfl⟩ <;> rfl

section
variable {s : State} {h : Fin 32} {n : Fin 64} {slot : Fin 4} {bytes : List Byte}

theorem ztbl_checked (hz : (s.tc h.val).bind = .zoom) (ha : (s.readS n.val).toNat % 16 = 0)
    (hb : s.ownTile (s.readS n.val) 1040 = some bytes) : s.ztbl h n slot =
      if tableOk bytes then .ok (s.issueOp h.val .clu (.table slot.val bytes)) else .trap tEncoding s := by
  simp [State.ztbl, hz, aligned, ha, hb]

theorem transfer_misaligned {op : Nat} (ha : (s.readS n.val).toNat % 128 ≠ 0) :
    s.transfer op n = .trap (tProt 0 none (some (s.readS n.val))) s := by
  simp [State.transfer, aligned, ha]

section
variable (ha : (s.readS n.val).toNat % 128 = 0) (hb : s.ownTile (s.readS n.val) 128 = some bytes)
include ha hb

theorem transfer_unparsed {op : Nat} (hp : ZRec.parse (ofBytes bytes) = none) :
    s.transfer op n = .trap tEncoding s := by
  simp [State.transfer, aligned, ha, hb, hp]

section
variable {r : ZRec} (hp : ZRec.parse (ofBytes bytes) = some r)
include hp

theorem transfer_other {op : Nat} (ho : r.op ≠ op) : s.transfer op n = .trap tEncoding s := by
  simp [State.transfer, aligned, ha, hb, hp, ho]

theorem transfer_unbound (hz : (s.tc r.tc).bind ≠ .zoom) : s.transfer r.op n = .trap (tProt 5 none none) s := by
  simp [State.transfer, aligned, ha, hb, hp, hz]

theorem transfer_issues (hz : (s.tc r.tc).bind = .zoom)
    (ht : r.op = 3 ∨ (s.tc r.tc).latest r.slot ≠ [] ∧ tableKind ((s.tc r.tc).latest r.slot) = r.op ∧
      tableDims ((s.tc r.tc).latest r.slot) = r.dims)
    (hov : ¬(r.ssp = r.dsp ∧
      (gridRange r.sbase r.sext r.sstr (FType.bytes r.sfmt)).1 ≤ (gridRange r.dbase r.dext r.dstr (FType.bytes r.dfmt)).2 ∧
      (gridRange r.dbase r.dext r.dstr (FType.bytes r.dfmt)).1 ≤ (gridRange r.sbase r.sext r.sstr (FType.bytes r.sfmt)).2))
    (hsa : gridAligned r.sbase r.sstr (FType.bytes r.sfmt) = true)
    (hda : gridAligned r.dbase r.dstr (FType.bytes r.dfmt) = true) (hsave : s.saveBars r.dsp = false)
    (hsr : s.rangeStop r.ssp (gridRange r.sbase r.sext r.sstr (FType.bytes r.sfmt)).1
      (gridRange r.sbase r.sext r.sstr (FType.bytes r.sfmt)).2 = none)
    (hdr : s.rangeStop r.dsp (gridRange r.dbase r.dext r.dstr (FType.bytes r.dfmt)).1
      (gridRange r.dbase r.dext r.dstr (FType.bytes r.dfmt)).2 = none) :
    s.transfer r.op n = .ok (s.issueOp r.tc .clu (.transfer bytes)) := by
  have htab : ¬(r.op ≠ 3 ∧ ((s.tc r.tc).latest r.slot = [] ∨ tableKind ((s.tc r.tc).latest r.slot) ≠ r.op ∨
      tableDims ((s.tc r.tc).latest r.slot) ≠ r.dims)) := by tauto
  simp only [State.transfer, aligned, ha, beq_self_eq_true, hb, hp, ne_eq, not_true_eq_false, if_false, hz, htab, hov,
    hsa, hda, hsave, hsr, hdr, Bool.not_true, Bool.false_eq_true]

end

end

end

/-! ### Counters (R106, R264) -/

section
variable {s : State} {h : Fin 32} {sa : Fin 64} {x : Scope}

section
variable (hl : s.g.isLoupe = false)
include hl

theorem tcinc_unbound (hb : (s.tc h.val).bind ≠ .soft) : Traps (.tcinc x h sa) s (tProt 5 none none) :=
  (commit_groupOnly hl _).trans (congrArg commit (if_pos hb))

variable (hb : (s.tc h.val).bind = .soft)
include hb

theorem exec_tcinc_soft : exec (.tcinc x h sa) s = commit (
    if 2 ^ 64 ≤ (s.tc h.val).value.toNat + (s.readS sa.val).toNat then .trap (tProt 0 none none) (s.relScope x)
    else .ok ((s.relScope x).setTc h.val { s.tc h.val with value := (s.tc h.val).value + s.readS sa.val })) := by
  have hu : MemOnly s (s.relScope x) := (MemOnly.refl s).relScope x
  refine (commit_groupOnly hl _).trans (congrArg commit ((if_neg (not_not_intro hb)).trans ?_))
  rw [← hu.tc]
  rfl

theorem tcinc_adds (hv : (s.tc h.val).value.toNat + (s.readS sa.val).toNat < 2 ^ 64) :
    ∃ t, exec (.tcinc x h sa) s = .next t ∧
      WroteTc s t h.val { s.tc h.val with value := (s.tc h.val).value + s.readS sa.val } := by
  have hu : MemOnly s (s.relScope x) := (MemOnly.refl s).relScope x
  refine ⟨_, ?_, hu.wroteTc h.val _⟩
  rw [exec_tcinc_soft hl hb, if_neg (Nat.not_le.mpr hv), ← hu.next]
  rfl

/-- A sum past 2^64 - 1 traps after the release, and adds nothing. -/
theorem tcinc_overflows (hv : 2 ^ 64 ≤ (s.tc h.val).value.toNat + (s.readS sa.val).toNat) :
    exec (.tcinc x h sa) s =
      .next (((s.relScope x).takeTrap s.here (tProt 0 none none)).failed (tProt 0 none none)) := by
  have hu : MemOnly s (s.relScope x) := (MemOnly.refl s).relScope x
  rw [exec_tcinc_soft hl hb, if_pos hv, ← hu.here]
  rfl

end

theorem tcrd_unbound {sd : Fin 64} (hb : (s.tc h.val).bind = .unbound) : Traps (.tcrd sd h) s (tProt 5 none none) :=
  congrArg commit (if_pos hb)

theorem tcrd_setsS {sd : Fin 64} (hb : (s.tc h.val).bind ≠ .unbound) :
    SetsS (.tcrd sd h) s sd.val (s.tc h.val).value :=
  setsS_scalar (congrArg commit (if_neg hb))

end

/-! ### Issue of engine operations (R105, R106, R262 to R276) -/

section
variable {s : State} (hl : s.g.isLoupe = false) {w k r : Nat} {pw : PcpyW} {d a : Fin 48} {dsp ssp : Space} {ch : Fin 8}
  {q : Fin 16}
include hl

section
variable (hk : s.prismOf ch.val = some k) (ha : s.attached ch.val = some (q, r)) (hact : (s.ring r).st = .active)
  (hp : ∀ p ∈ s.pairs d a, s.laneSlot (PcpyW.bytes pw) (2 ^ (s.ring r).lsize) ssp p.1 p.2.1 p.2.2 = none)
include hk ha hact hp

theorem pcpyRing_completes (hroom : ((s.ring r).fill - (s.ring r).read).toNat < 2 ^ (s.ring r).lcount) :
    Completes (.pcpy pw true d a dsp ssp ch) s fun t => Went s t s.next ∧
      (t.ring r).fill = (s.ring r).fill + 1 ∧ (t.tc k).issued = (s.tc k).issued + 1 ∧
      (t.tc k).pend.getLast?.map EPend.op = some (.copy (PcpyW.bytes pw) .glob ssp
        ((s.pairs d a).map fun p => (p.2.1, (s.ring r).slotVa (s.ring r).fill + p.2.2)) (some (r, (s.ring r).fill))) := by
  have hex := exec_pcpyRing hl pw d a dsp ssp ch
  rw [pcpyRing_claims hk ha hact hp hroom, commit_issueOp] at hex
  have ht := issueOp_wroteTc (s.claimed r) k .core (.copy (PcpyW.bytes pw) .glob ssp
    ((s.pairs d a).map fun p => (p.2.1, (s.ring r).slotVa (s.ring r).fill + p.2.2)) (some (r, (s.ring r).fill)))
  obtain ⟨hwent, hfill⟩ := wroteTc_of_claimed ht
  refine ⟨_, hex, hwent, hfill, ?_, ?_⟩
  · rw [ht.counter]
    rfl
  · rw [ht.counter, State.issuedTc, List.getLast?_concat]
    rfl

theorem pcpyRing_waits (hfull : 2 ^ (s.ring r).lcount ≤ ((s.ring r).fill - (s.ring r).read).toNat) :
    Completes (.pcpy pw true d a dsp ssp ch) s fun t => t.e.st = .parked ∧ t.e.wait = .room r := by
  refine ⟨(s.parkHere (.room r)).stop, ?_, ?_⟩
  · rw [exec_pcpyRing hl, pcpyRing_parks hk ha hact hp hfull]
    rfl
  · have he : (s.parkHere (.room r)).stop.e = s.e.parked (.room r) s.clock := State.e_setE _ _
    exact ⟨congrArg Entry.st he, congrArg Entry.wait he⟩

end

section
variable (hk : s.prismOf ch.val = some k)
include hk

theorem pcpy_traps {x : Trap} (hb : s.saveBars dsp = false ∨ s.pairs d a ≠ [])
    (hx : (s.pairs d a).findSome? (fun p => s.lanePair (PcpyW.bytes pw) dsp ssp p.1 p.2.1 p.2.2) = some x) :
    Traps (.pcpy pw false d a dsp ssp ch) s x := by
  refine (exec_pcpy hl pw d a dsp ssp ch).trans (congrArg commit (perLane_trap hk hb ?_))
  simpa using hx

variable (hb : s.saveBars dsp = false)
include hb

theorem pcpy_issues (hp : ∀ p ∈ s.pairs d a, s.lanePair (PcpyW.bytes pw) dsp ssp p.1 p.2.1 p.2.2 = none) :
    exec (.pcpy pw false d a dsp ssp ch) s = commit (.ok (s.issueOp k .core
      (.copy (PcpyW.bytes pw) dsp ssp ((s.pairs d a).map Prod.snd) none))) :=
  (exec_pcpy hl pw d a dsp ssp ch).trans (congrArg commit (perLane_issues hk hb hp nofun rfl))

section
variable {ty : PaddTy} (hp : ∀ p ∈ s.pairs d a, s.lanePair (PaddTy.bytes ty) dsp ssp p.1 p.2.1 p.2.2 = none)
include hp

theorem padd_waits (hs : ∀ p ∈ s.pairs d a, s.addStop dsp p.1 p.2.2 = none)
    (hw : (s.pairs d a).filterMap (fun p => s.addWait dsp p.2.2) ≠ []) : exec (.padd ty d a dsp ssp ch) s =
      .next (s.parkHere (Wait.join ((s.pairs d a).filterMap fun p => s.addWait dsp p.2.2))).stop := by
  obtain ⟨q, qs, hq⟩ := List.exists_cons_of_ne_nil hw
  rw [hq]
  exact (exec_padd hl ty d a dsp ssp ch).trans (congrArg commit (perLane_waits (adds := true) hk hb hp (fun _ => hs) hq))

theorem padd_issues (hs : ∀ p ∈ s.pairs d a, s.addStop dsp p.1 p.2.2 = none)
    (hw : (s.pairs d a).filterMap (fun p => s.addWait dsp p.2.2) = []) : exec (.padd ty d a dsp ssp ch) s =
      commit (.ok (s.issueOp k .core (.add ty dsp ssp ((s.pairs d a).map Prod.snd)))) :=
  (exec_padd hl ty d a dsp ssp ch).trans (congrArg commit (perLane_issues (adds := true) hk hb hp (fun _ => hs) hw))

theorem padd_traps {x : Trap} (hx : (s.pairs d a).findSome? (fun p => s.addStop dsp p.1 p.2.2) = some x) :
    Traps (.padd ty d a dsp ssp ch) s x := by
  refine (exec_padd hl ty d a dsp ssp ch).trans (congrArg commit (perLane_trap hk (.inl hb) ?_))
  rw [findSome?_or_of_none hp]
  simpa using hx

end

end

section
variable {h : Fin 32} {n : Fin 64} {slot : Fin 4} {bytes : List Byte} (hf : s.feature 20 = true)
  (hm : s.partialMask = false) (hz : (s.tc h.val).bind = .zoom) (ha : (s.readS n.val).toNat % 16 = 0)
  (ho : s.ownTile (s.readS n.val) 1040 = some bytes)
include hf hm hz ha ho

theorem exec_ztbl : exec (.ztbl h n slot) s = commit
    (if tableOk bytes then .ok (s.issueOp h.val .clu (.table slot.val bytes)) else .trap tEncoding s) :=
  congrArg commit ((onZoom_whole hl hf hm).trans (ztbl_checked hz ha ho))

end

end

theorem zoom_off {s : State} {h : Fin 32} {n : Fin 64} {slot : Fin 4} (hf : s.feature 20 = false) {i : Instr}
    (hi : i ∈ [Instr.zrst n, .zprl n, .zcpy n, .ztbl h n slot]) : Traps i s tInstruction := by
  obtain ⟨f, he⟩ := exec_zoom (s := s) hi
  exact he.trans (congrArg commit (onZoom_off hf))

theorem zoom_partial {s : State} {h : Fin 32} {n : Fin 64} {slot : Fin 4} (hl : s.g.isLoupe = false)
    (hf : s.feature 20 = true) (hm : s.partialMask = true) {i : Instr}
    (hi : i ∈ [Instr.zrst n, .zprl n, .zcpy n, .ztbl h n slot]) : Traps i s tPartial := by
  obtain ⟨f, he⟩ := exec_zoom (s := s) hi
  exact he.trans (congrArg commit (onZoom_partial hl hf hm))

/-- Settles O35: per-lane copies and adds, ring copies, bulk transforms, Zoom transfers and the counter instructions,
each by its checks in order and one rule for the issue of an operation. -/
theorem engineIssue : Obligations.EngineIssue := by
  unfold Obligations.EngineIssue
  refine ⟨?_, fun s sd h => ⟨tcrd_unbound, tcrd_setsS⟩, ?_, ?_⟩
  · intro s hl w ty da aa dsp ssp ch k sa h x n slot bytes issues
    refine ⟨fun hk => ⟨?_, ?_⟩, fun hk => ?_, fun hk hb x => pcpy_traps hl hk hb, fun hk hb => ⟨fun hp => ?_, ?_, ?_⟩,
      fun hf i => zoom_off hf, fun hf hm i => zoom_partial hl hf hm, fun hf hm hz ha ho => ⟨fun ht => ?_, fun ht => ?_⟩,
      tcinc_unbound hl, fun hb hv => ?_, tcinc_overflows hl⟩
    · exact (exec_pcpy hl w da aa dsp ssp ch).trans (congrArg commit (perLane_unbound hk))
    · exact (exec_padd hl ty da aa dsp ssp ch).trans (congrArg commit (perLane_unbound hk))
    · exact (exec_pcpyRing hl w da aa dsp ssp ch).trans (congrArg commit (pcpyRing_unbound hk))
    · exact issues_of (pcpy_issues hl hk hb hp)
    · intro q r ha hact hp
      exact ⟨pcpyRing_waits hl hk ha hact hp, pcpyRing_completes hl hk ha hact hp⟩
    · intro hp
      exact ⟨padd_waits hl hk hb hp, fun hs hw => issues_of (padd_issues hl hk hb hp hs hw),
        fun x => padd_traps hl hk hb hp⟩
    · exact issues_of ((exec_ztbl hl hf hm hz ha ho).trans (congrArg commit (if_pos ht)))
    · exact (exec_ztbl hl hf hm hz ha ho).trans (congrArg commit (if_neg (by simp [ht])))
    · obtain ⟨t, he, hw⟩ := tcinc_adds (x := x) hl hb hv
      exact ⟨t, he, hw.memory, hw.went, hw.block, hw.others, hw.counter⟩
  · intro s dir ch c2 n z k dsp ssp hl src dst c esz f cnt m lb
    refine ⟨fun h => pcpyi_traps hl fun hc => ?_, fun h => pcpys_traps hl fun hc => ?_, fun hd hs h0 hb =>
      ⟨fun h1 h2 h3 h4 hk hsa hda hsr hdr => ?_, fun h1 h2 h3 h4 hk => ?_, fun h1 h2 h3 h4 hk => ?_,
        fun h1 h2 h3 h4 hk hsa hda hsr hdr => ?_⟩⟩
    · obtain ⟨h0, h1, h2, h3, h4⟩ := hc
      omega
    · obtain ⟨h0, h1, h2, h3, h4⟩ := hc
      have hlen : cnt % 2 ^ lb = 0 := h4
      omega
    · rw [exec_pcpyi hl hd hs ⟨h0, h1, h2, h3, h4⟩, ← commit_issueOp]
      exact congrArg commit (bulk_issues hk hsa hda hb hsr hdr)
    · exact (exec_pcpyi hl hd hs ⟨h0, h1, h2, h3, h4⟩).trans (congrArg commit (bulk_unbound hk))
    · exact (exec_pcpys hl hd hs ⟨h0, h1, h2, h3, h4⟩).trans (congrArg commit (bulk_unbound hk))
    · rw [exec_pcpys hl hd hs ⟨h0, h1, h2, h3, h4⟩, ← commit_issueOp]
      exact congrArg commit (bulk_issues hk hsa hda hb hsr hdr)
  · intro s n bytes r op i hl hf hm hi a t sr dr
    have he {e : Eff} (h : s.transfer op n = e) : exec i s = commit e :=
      (exec_transfer hi).trans (congrArg commit ((onZoom_whole hl hf hm).trans h))
    refine ⟨fun ha => he (transfer_misaligned ha), fun ha ho => ⟨fun hp => he (transfer_unparsed ha ho hp), fun hp =>
      ⟨fun hne => he (transfer_other ha ho hp hne), ?_, ?_⟩⟩⟩
    · rintro rfl hz
      exact he (transfer_unbound ha ho hp hz)
    · rintro rfl hz ht hov hsa hda hsave hsr hdr
      rw [← commit_issueOp]
      refine he (transfer_issues ha ho hp hz ht (fun hne => ?_) hsa hda hsave hsr hdr)
      obtain ⟨hsp, hlo, hhi⟩ := hne
      rcases hov with h | h | h
      · exact h hsp
      · exact absurd hhi (not_le.mpr h)
      · exact absurd hlo (not_le.mpr h)

end Sys2Proof.Machine
end

section
/-! PROOFS. The units of the directory tree, and what the operations on a line's copies leave unchanged (R93 to R96). -/

namespace Sys2Proof.Machine

/-! ### Units within units -/

theorem inUnit_refl (u : Nat) : inUnit u u = true := by simp [inUnit]

/-- A unit strictly inside another has a lower number. -/
theorem inUnit_le {u p : Nat} (h : inUnit u p = true) : u ≤ p := by
  rw [inUnit] at h
  split_ifs at h <;> simp at h <;> omega

theorem inUnit_antisymm {u p : Nat} (h : inUnit u p = true) (h' : inUnit p u = true) : u = p :=
  Nat.le_antisymm (inUnit_le h) (inUnit_le h')

theorem inUnit_trans {u v p : Nat} (h : inUnit u v = true) (h' : inUnit v p = true) : inUnit u p = true := by
  rw [inUnit] at h h' ⊢
  split_ifs at h h' ⊢ <;> simp at h h' ⊢ <;> omega

theorem inUnit_cluster {u k : Nat} (hk : k < 64) : inUnit u k = true ↔ u = k := by
  refine ⟨fun h => ?_, fun h => h ▸ inUnit_refl u⟩
  have hle := inUnit_le h
  rw [inUnit, if_pos (by omega)] at h
  simp at h
  omega

theorem mem_unitsWideFirst {u : Nat} : u ∈ unitsWideFirst ↔ u < 78 := by
  simp only [unitsWideFirst, List.mem_append, List.mem_map, List.mem_range]
  constructor
  · rintro (((⟨i, hi, rfl⟩ | ⟨i, hi, rfl⟩) | ⟨i, hi, rfl⟩) | hi) <;> omega
  · intro hu
    by_cases h64 : u < 64
    · exact .inr h64
    by_cases h72 : u < 72
    · exact .inl (.inr ⟨u - 64, by omega, by omega⟩)
    by_cases h76 : u < 76
    · exact .inl (.inl (.inr ⟨u - 72, by omega, by omega⟩))
    · exact .inl (.inl (.inl ⟨u - 76, by omega, by omega⟩))

/-- The copies that an invalidation ends: the valid ones strictly inside, but for those to be kept. -/
theorem mem_others {s : State} {p line u : Nat} {keep : Nat → Bool} (hp : p ≤ 78) : u ∈ s.others p keep line ↔
    inUnit u p = true ∧ u ≠ p ∧ keep u = false ∧ (s.copy u line).valid = true := by
  rw [State.others, List.mem_filter, mem_unitsWideFirst]
  simp only [Bool.and_eq_true, bne_iff_ne, ne_eq, Bool.not_eq_true', and_assoc]
  refine ⟨And.right, fun h => ⟨?_, h⟩⟩
  have hle := inUnit_le h.1
  omega

/-! ### Copies written and unwritten -/

section
variable {s t : State} {u v line l : Nat} {c : Copy}

theorem copy_setCopy_unit (h : u ≠ v) : (s.setCopy v line c).copy u line = s.copy u line := by
  have hk : copyKey u line ≠ copyKey v line := by rw [copyKey, copyKey]; omega
  simp [State.copy, State.setCopy, hk]

theorem copy_setCopy_line (hline : line < 2 ^ 41) (hl : l < 2 ^ 41) (h : l ≠ line) :
    (s.setCopy v line c).copy u l = s.copy u l := by
  have hk : copyKey u l ≠ copyKey v line := by rw [copyKey, copyKey]; omega
  simp [State.copy, State.setCopy, hk]

theorem copy_congr (h : t.coh = s.coh) (u l : Nat) : t.copy u l = s.copy u l := by rw [State.copy, h, State.copy]

theorem coh_setMemBytes (bs : List Byte) (a : Nat) : (s.setMemBytes a bs).coh = s.coh := by
  induction bs generalizing s a with
  | nil => rfl
  | cons b bs ih => exact ih _

theorem coh_meetFill (s : State) (line : Nat) : (s.meetFill line).coh = s.coh := by
  unfold State.meetFill
  split <;> rfl

theorem coh_carryTime (s : State) (i j : Nat) : (s.carryTime i j).coh = s.coh := by
  unfold State.carryTime
  dsimp only
  split <;> rfl

theorem coh_noteDirty (s : State) (k asid : Nat) : (s.noteDirty k asid).coh = s.coh := by
  unfold State.noteDirty
  split <;> rfl

/-- The home answers from its LLC, and no cluster or directory has a part in it. -/
theorem copy_homeRead (hu : u < 80) (asid : Nat) : (s.homeRead line asid).1.copy u line = s.copy u line := by
  unfold State.homeRead
  split
  next st _ =>
    dsimp only
    split_ifs
    · rfl
    · rw [copy_setCopy_unit (by rw [llcUnit]; omega), copy_congr (coh_meetFill s line)]
  next => rfl

theorem copy_homeMerge (hu : u < 80) (asid : Nat) (d : Line) (m : BitVec 128) :
    (s.homeMerge line asid d m).copy u line = s.copy u line := by
  unfold State.homeMerge
  split_ifs
  · rfl
  · split
    next st _ =>
      exact (copy_setCopy_unit (by rw [llcUnit]; omega)).trans (copy_homeRead hu asid)
    next => exact copy_congr (coh_setMemBytes _ _) _ _

/-- A copy but for what is not published of it. -/
def Copy.published (c : Copy) : Copy := { c with dirty := 0 }

/-- The package directory's publication to the home changes nothing of a copy but what is unpublished. -/
theorem published_toHome (hu : u < 80) : ((s.toHome line).copy u line).published = (s.copy u line).published := by
  unfold State.toHome
  dsimp only
  split_ifs
  · rfl
  · by_cases h : u = 78
    · subst h
      rw [State.copy_setCopy_self]
      rfl
    · rw [copy_setCopy_unit h, copy_homeMerge hu]

/-- The copies that some units hold end. -/
def State.dropped (s : State) (us : List Nat) (line : Nat) : State :=
  us.foldl (fun s u => s.setCopy u line Copy.empty) s

theorem copy_dropped (us : List Nat) : (s.dropped us line).copy u line =
    if u ∈ us then Copy.empty else s.copy u line := by
  induction us generalizing s with
  | nil => rfl
  | cons v us ih =>
    have hcons : s.dropped (v :: us) line = (s.setCopy v line Copy.empty).dropped us line := List.foldl_cons ..
    rw [hcons, ih]
    by_cases hu : u ∈ us
    · rw [if_pos hu, if_pos (List.mem_cons_of_mem v hu)]
    · rw [if_neg hu]
      by_cases hv : u = v
      · rw [hv, State.copy_setCopy_self, if_pos (List.mem_cons_self ..)]
      · rw [copy_setCopy_unit hv, if_neg (by simp [hu, hv])]

/-- A fold that gives copies other data keeps what holds of them whatever their data is. -/
theorem foldl_setCopy_rel {α : Type} (f : Copy → α) (g : State → Nat → Copy) (hg : ∀ s u, f (g s u) = f (s.copy u line))
    (us : List Nat) : f ((us.foldl (fun s u => s.setCopy u line (g s u)) s).copy u line) = f (s.copy u line) := by
  induction us generalizing s with
  | nil => rfl
  | cons v us ih =>
    refine (ih (s := s.setCopy v line (g s v))).trans ?_
    by_cases hv : u = v
    · rw [hv, State.copy_setCopy_self, hg]
    · rw [copy_setCopy_unit hv]

/-- The bytes that the copies to be ended have not published, the newest of each, and which bytes those are. -/
def State.unpublished (s : State) (os : List Nat) (line : Nat) : Line × BitVec 128 :=
  os.foldl (fun r u =>
    (mergeBytes r.1 (s.copy u line).data (s.copy u line).dirty, r.2 ||| (s.copy u line).dirty)) ((0 : Line), (0 : BitVec 128))

/-- Unpublished bytes of ended copies reach the unit and the copies that stay inside it. -/
def State.takeIn (s : State) (p line : Nat) (d : Line) (m : BitVec 128) : State :=
  let pc := s.copy p line
  let t := s.setCopy p line { pc with data := mergeBytes pc.data d m, dirty := pc.dirty ||| m }
  (t.others p (fun _ => false) line).foldl (fun s u =>
    s.setCopy u line { s.copy u line with data := mergeBytes (s.copy u line).data d (m &&& ~~~ s.below u p line) }) t

theorem invalidateOthers_eq (s : State) (p : Nat) (keep : Nat → Bool) (line : Nat) :
    s.invalidateOthers p keep line =
      let os := s.others p keep line
      if (s.unpublished os line).2 = 0 then s.dropped os line
      else (s.dropped os line).takeIn p line (s.unpublished os line).1 (s.unpublished os line).2 := rfl

/-- Some units' copies take masked bytes. -/
def State.written (s : State) (us : List Nat) (line : Nat) (d : Line) (m : BitVec 128) : State :=
  us.foldl (fun s u => s.setCopy u line { s.copy u line with data := mergeBytes (s.copy u line).data d m }) s

theorem putBytes_eq (s : State) (line n : Nat) (path : List Nat) (d : Line) (m : BitVec 128) :
    State.putBytes line n path d m s =
      let u := path.getD n 78
      let t := s.written (path.take (n + 1)) line d m
      let t := t.setCopy u line { t.copy u line with dirty := (t.copy u line).dirty ||| m }
      if u = 78 then t.toHome line else t := rfl

/-- Bytes taken in change no more of a copy than its data and what is unpublished of it. -/
theorem takeIn_rel {α : Type} (f : Copy → α) (hf : ∀ (c : Copy) d m, f { c with data := d, dirty := m } = f c) (p : Nat)
    (d : Line) (m : BitVec 128) : f ((s.takeIn p line d m).copy u line) = f (s.copy u line) := by
  unfold State.takeIn
  dsimp only
  rw [foldl_setCopy_rel f _ (fun s u => hf (s.copy u line) _ _)]
  by_cases hu : u = p
  · rw [hu, State.copy_setCopy_self, hf]
  · rw [copy_setCopy_unit hu]

theorem invalidateOthers_rel {α : Type} (f : Copy → α) (hf : ∀ (c : Copy) d m, f { c with data := d, dirty := m } = f c)
    (p : Nat) (keep : Nat → Bool) : f ((s.invalidateOthers p keep line).copy u line) =
      f (if u ∈ s.others p keep line then Copy.empty else s.copy u line) := by
  rw [invalidateOthers_eq]
  dsimp only
  split
  · rw [copy_dropped]
  · rw [takeIn_rel f hf, copy_dropped]

end

end Sys2Proof.Machine
end

section
/-! PROOFS. What a write or an atomic of a line never touches: the copies of other lines, and the clusters' part in
ownership, which directories alone record (R94, R95). -/

namespace Sys2Proof.Machine

/-- The line's copies have changed, with no owner at a cluster, and no other line's. -/
structure Tidy (s0 : State) (line : Nat) (s : State) : Prop where
  shared : ∀ u < 64, (s.copy u line).owner = none
  others : ∀ u l, l < 2 ^ 41 → l ≠ line → s.copy u l = s0.copy u l

section
variable {s0 s t : State} {line : Nat}

theorem Tidy.congr (h : Tidy s0 line s) (hc : t.coh = s.coh) : Tidy s0 line t where
  shared u hu := by rw [copy_congr hc, h.shared u hu]
  others u l hl hne := by rw [copy_congr hc, h.others u l hl hne]

variable (hline : line < 2 ^ 41)
include hline

namespace Tidy

theorem setCopy (h : Tidy s0 line s) {u : Nat} {c : Copy} (hc : u < 64 → c.owner = none) :
    Tidy s0 line (s.setCopy u line c) where
  shared v hv := by
    by_cases hu : v = u
    · subst hu
      rw [State.copy_setCopy_self, hc hv]
    · rw [copy_setCopy_unit hu, h.shared v hv]
  others v l hl hne := by rw [copy_setCopy_line hline hl hne, h.others v l hl hne]

/-- A copy takes other data. -/
theorem setData (h : Tidy s0 line s) (u : Nat) (d : Line) (m : BitVec 128) :
    Tidy s0 line (s.setCopy u line { s.copy u line with data := d, dirty := m }) :=
  h.setCopy hline (h.shared u)

theorem homeRead (h : Tidy s0 line s) (asid : Nat) : Tidy s0 line (s.homeRead line asid).1 := by
  unfold State.homeRead
  split
  · dsimp only
    split_ifs
    · exact h
    · exact (h.congr (coh_meetFill s line)).setCopy hline fun _ => rfl
  · exact h

theorem homeMerge (h : Tidy s0 line s) (asid : Nat) (d : Line) (m : BitVec 128) :
    Tidy s0 line (s.homeMerge line asid d m) := by
  unfold State.homeMerge
  split_ifs
  · exact h
  · split
    next st _ => exact (h.homeRead hline asid).setCopy hline fun hu => by rw [llcUnit] at hu; omega
    next => exact h.congr (coh_setMemBytes _ _)

theorem toHome (h : Tidy s0 line s) : Tidy s0 line (s.toHome line) := by
  unfold State.toHome
  dsimp only
  split_ifs
  · exact h
  · exact (h.homeMerge hline _ _ _).setCopy hline fun hu => absurd hu (by decide)

theorem dropped (h : Tidy s0 line s) (us : List Nat) : Tidy s0 line (s.dropped us line) :=
  foldl_keeps _ (fun _ _ ht => ht.setCopy hline fun _ => rfl) us h

theorem takeIn (h : Tidy s0 line s) (p : Nat) (d : Line) (m : BitVec 128) : Tidy s0 line (s.takeIn p line d m) := by
  unfold State.takeIn
  exact foldl_keeps _ (fun _ u ht => ht.setCopy hline (ht.shared u)) _ (h.setCopy hline (h.shared p))

theorem invalidateOthers (h : Tidy s0 line s) (p : Nat) (keep : Nat → Bool) :
    Tidy s0 line (s.invalidateOthers p keep line) := by
  rw [invalidateOthers_eq]
  dsimp only
  split
  · exact h.dropped hline (s.others p keep line)
  · exact (h.dropped hline (s.others p keep line)).takeIn hline p _ _

section
variable {c p : Nat} (hp : 64 ≤ p)
include hp

theorem receive (h : Tidy s0 line s) (d : Line) (m : BitVec 128) : Tidy s0 line (s.receive c p line d m) := by
  have hi := (h.setCopy (u := p) (c := { s.copy p line with
    data := mergeBytes (s.copy p line).data d m, dirty := (s.copy p line).dirty ||| m, owner := some c }) hline
    fun hu => absurd hu (by omega)).invalidateOthers hline p (inUnit · c)
  unfold State.receive
  dsimp only
  split_ifs
  · exact hi.toHome hline
  · exact hi

theorem raise (h : Tidy s0 line s) : Tidy s0 line (s.raise c p line) := by
  unfold State.raise
  dsimp only
  split_ifs
  · exact h
  · exact (h.setData hline c (s.copy c line).data 0).receive hline hp _ _

theorem publish (h : Tidy s0 line s) : Tidy s0 line (s.publish c p line) := by
  unfold State.publish
  split_ifs
  · exact h
  · exact ((h.congr (coh_carryTime _ _ _)).raise hline hp).congr (coh_carryTime _ _ _)

end

/-- Bytes come up only to a unit that lists an owner, and so to no cluster. -/
theorem gather (h : Tidy s0 line s) (f p : Nat) : Tidy s0 line (State.gather line f p s) := by
  induction f generalizing s p with
  | zero => exact h
  | succ f ih =>
    unfold State.gather
    split
    · exact h
    next c hc =>
      have hp : 64 ≤ p := by
        by_contra hlt
        rw [h.shared p (by omega)] at hc
        cases hc
      split_ifs
      · exact (ih h c).raise hline hp
      · exact h

theorem fetch (h : Tidy s0 line s) (asid : Nat) (path : List Nat) : Tidy s0 line (State.fetch line asid path s) := by
  induction path generalizing s with
  | nil => exact h
  | cons u rest ih =>
    unfold State.fetch
    split_ifs
    · exact h
    · split
      · exact (h.homeRead hline asid).setCopy hline fun _ => rfl
      · exact ((ih h).gather hline _ _).setCopy hline fun _ => rfl

theorem request (h : Tidy s0 line s) (k asid : Nat) : Tidy s0 line (s.request k line asid) := by
  unfold State.request
  dsimp only
  split_ifs
  · exact h
  · exact (h.fetch hline asid _).congr (coh_carryTime _ _ _)

/-- Every unit of a path but its first is a directory. -/
theorem carryUp (h : Tidy s0 line s) (asid n : Nat) {path : List Nat} (hp : ∀ u ∈ path.tail, 64 ≤ u) :
    Tidy s0 line (State.carryUp line asid n path s) := by
  induction n generalizing s path with
  | zero => exact h
  | succ n ih =>
    match path, hp with
    | [], _ => exact h
    | [_], _ => exact h
    | c :: p :: rest, hp =>
      exact ih ((h.fetch hline asid _).publish hline (hp p (List.mem_cons_self ..))) fun u hu =>
        hp u (List.mem_cons_of_mem p hu)

theorem setOwners (h : Tidy s0 line s) (n : Nat) {path : List Nat} (hp : ∀ u ∈ path.tail, 64 ≤ u) :
    Tidy s0 line (State.setOwners line n path s) := by
  induction n generalizing s path with
  | zero => exact h
  | succ n ih =>
    match path, hp with
    | [], _ => exact h
    | [_], _ => exact h
    | c :: p :: rest, hp =>
      have hp64 : 64 ≤ p := hp p (List.mem_cons_self ..)
      exact ih (h.setCopy hline fun hu => absurd hu (by omega)) fun u hu => hp u (List.mem_cons_of_mem p hu)

theorem obtain' (h : Tidy s0 line s) (asid n : Nat) {k : Nat} : Tidy s0 line (State.obtain line asid n k s) := by
  have hp : ∀ u ∈ (cluPath k).tail, 64 ≤ u := by
    simp only [cluPath, List.tail_cons, List.forall_mem_cons, List.not_mem_nil, false_imp_iff, implies_true, and_true]
    omega
  have hc := (h.request hline k asid).carryUp hline asid n hp
  unfold State.obtain
  dsimp only
  split_ifs
  · exact hc
  · exact (hc.invalidateOthers hline _ _).setOwners hline n hp

theorem putBytes (h : Tidy s0 line s) (n : Nat) (path : List Nat) (d : Line) (m : BitVec 128) :
    Tidy s0 line (State.putBytes line n path d m s) := by
  have hw : Tidy s0 line (s.written (path.take (n + 1)) line d m) :=
    foldl_keeps _ (fun _ u ht => ht.setCopy hline (ht.shared u)) _ h
  have hs := fun u m' => hw.setData hline u ((s.written (path.take (n + 1)) line d m).copy u line).data m'
  rw [putBytes_eq]
  dsimp only
  split_ifs
  · exact (hs (path.getD n 78) _).toHome hline
  · exact hs (path.getD n 78) _

end Tidy

end

/-! ### Copies that stay valid -/

section
variable {s : State} {line u p c : Nat} (hp : p ≤ 78)

theorem valid_toHome (hu : u ≤ 78) : ((s.toHome line).copy u line).valid = (s.copy u line).valid :=
  congrArg (fun c => c.valid) (published_toHome (s := s) (u := u) (line := line) (by omega))

/-- A copy's entry takes other contents, valid as it was. -/
theorem valid_setCopy {d : Copy} (h : d.valid = (s.copy p line).valid) :
    ((s.setCopy p line d).copy u line).valid = (s.copy u line).valid := by
  by_cases hu : u = p
  · rw [hu, State.copy_setCopy_self, h]
  · rw [copy_setCopy_unit hu]

include hp

theorem valid_invalidateOthers (hu : inUnit u p = true → u = p) (keep : Nat → Bool) :
    ((s.invalidateOthers p keep line).copy u line).valid = (s.copy u line).valid := by
  rw [invalidateOthers_rel Copy.valid fun _ _ _ => rfl, if_neg]
  rw [mem_others hp]
  exact fun h => h.2.1 (hu h.1)

variable (h78 : u ≤ 78) (hu : inUnit u p = true → u = p)
include h78 hu

/-- Bytes that come to a unit end copies strictly inside it only. -/
theorem valid_receive (d : Line) (m : BitVec 128) :
    ((s.receive c p line d m).copy u line).valid = (s.copy u line).valid := by
  unfold State.receive
  dsimp only
  split_ifs
  · rw [valid_toHome h78, valid_invalidateOthers hp hu]
    exact valid_setCopy rfl
  · rw [valid_invalidateOthers hp hu]
    exact valid_setCopy rfl

theorem valid_raise : ((s.raise c p line).copy u line).valid = (s.copy u line).valid := by
  unfold State.raise
  dsimp only
  split_ifs
  · rfl
  · rw [valid_receive hp h78 hu]
    exact valid_setCopy rfl

theorem valid_publish : ((s.publish c p line).copy u line).valid = (s.copy u line).valid := by
  unfold State.publish
  split_ifs
  · rfl
  · rw [copy_congr (coh_carryTime _ _ _), valid_raise hp h78 hu, copy_congr (coh_carryTime _ _ _)]

end

/-- What a fetch brings in is valid at the first unit of its path. -/
theorem valid_fetch {s : State} {line u : Nat} (asid : Nat) (rest : List Nat) :
    ((State.fetch line asid (u :: rest) s).copy u line).valid = true := by
  unfold State.fetch
  split_ifs with h
  · exact h
  · split
    · rw [State.copy_setCopy_self]
    · rw [State.copy_setCopy_self]

theorem valid_request {s : State} {line k : Nat} (asid : Nat) : ((s.request k line asid).copy k line).valid = true := by
  unfold State.request
  dsimp only
  split_ifs with h
  · exact h
  · rw [copy_congr (coh_carryTime _ _ _)]
    exact valid_fetch asid _

/-- Bytes carried up a path leave every unit that they reach with a valid copy. -/
theorem valid_carryUp {s : State} {line u : Nat} (asid n : Nat) {path : List Nat} (hpath : ∀ v ∈ path, v ≤ 78)
    (h0 : ∀ v, path[0]? = some v → (s.copy v line).valid = true) (hu : path[n]? = some u) :
    ((State.carryUp line asid n path s).copy u line).valid = true := by
  induction n generalizing s path with
  | zero => exact h0 u hu
  | succ n ih =>
    match path, hpath, hu with
    | [_], _, hu => exact absurd hu (by simp)
    | c :: p :: rest, hpath, hu =>
      have hp : p ≤ 78 := hpath p (by simp)
      refine ih (fun v hv => hpath v (List.mem_cons_of_mem c hv)) (fun v hv => ?_) (by simpa using hu)
      obtain rfl : p = v := by simpa using hv
      rw [valid_publish hp hp fun _ => rfl]
      exact valid_fetch asid rest

end Sys2Proof.Machine
end

section
/-! PROOFS. Bytes that every valid copy inside a unit holds: what is read there, and what keeps them (R94 to R96). -/

namespace Sys2Proof.Machine

/-! ### Bytes in a line -/

/-- A line holds bytes at an offset, as far as a mask goes. -/
def ShowsOn (o : Nat) (bs : List Byte) (m : BitVec 128) (d : Line) : Prop :=
  ∀ i < bs.length, m.getLsbD (o + i) = true → Line.byte d (o + i) = bs.getD i 0

/-- A line holds bytes at an offset. -/
def Shows (o : Nat) (bs : List Byte) (d : Line) : Prop := ∀ i < bs.length, Line.byte d (o + i) = bs.getD i 0

section
variable {o : Nat} {bs : List Byte} {d x : Line} {m m' : BitVec 128}

theorem Shows.showsOn (h : Shows o bs d) (m : BitVec 128) : ShowsOn o bs m d := fun i hi _ => h i hi

theorem ShowsOn.and (h : ShowsOn o bs m d) (m' : BitVec 128) : ShowsOn o bs (m &&& m') d := fun i hi hm =>
  h i hi (by rw [BitVec.getLsbD_and, Bool.and_eq_true] at hm; exact hm.1)

variable (ho : o + bs.length ≤ 128)
include ho

theorem Shows.merge (h : Shows o bs d) (hx : ShowsOn o bs m x) : Shows o bs (mergeBytes d x m) := by
  intro i hi
  rw [byte_mergeBytes _ _ _ (by omega)]
  split
  next hm => exact hx i hi hm
  next => exact h i hi

theorem ShowsOn.merge (h : ShowsOn o bs m d) (hx : Shows o bs x) : ShowsOn o bs (m ||| m') (mergeBytes d x m') := by
  intro i hi hm
  rw [byte_mergeBytes _ _ _ (by omega)]
  split
  next => exact hx i hi
  next hm' => exact h i hi (by simpa [hm'] using hm)

/-- A merge of placed bytes holds them, whatever was there. -/
theorem shows_placed (d : Line) : Shows o bs (mergeBytes d (placeBytes o bs) (byteMask o bs.length)) := by
  intro i hi
  have hk : o + i < 128 := by omega
  rw [byte_mergeBytes _ _ _ hk, getLsbD_byteMask hk, decide_eq_true hi, if_pos rfl, byte_placeBytes _ _ hk]

omit ho in
theorem Shows.eq (h : Shows o bs d) : (List.range bs.length).map (fun k => Line.byte d (o + k)) = bs := by
  refine List.ext_getElem (by simp) fun i hi hi' => ?_
  rw [List.getElem_map, List.getElem_range, h i hi', List.getD_eq_getElem _ _ hi']

end

/-! ### Bytes held inside a unit -/

/-- A copy of a unit, where valid, holds the bytes, and its owner is strictly inside. -/
structure Sound (u o : Nat) (bs : List Byte) (c : Copy) : Prop where
  shows : c.valid = true → Shows o bs c.data
  owner : c.valid = true → ∀ w, c.owner = some w → inUnit w u = true ∧ w ≠ u

/-- A unit holds a line, and every valid copy inside it holds the bytes. -/
structure Held (line p o : Nat) (bs : List Byte) (s : State) : Prop where
  valid : (s.copy p line).valid = true
  sound : ∀ u, inUnit u p = true → Sound u o bs (s.copy u line)

section
variable {s t : State} {line p o : Nat} {bs : List Byte}

theorem sound_empty (u : Nat) : Sound u o bs Copy.empty := ⟨nofun, nofun⟩

theorem Sound.setDirty {u : Nat} {c : Copy} (h : Sound u o bs c) (m : BitVec 128) : Sound u o bs { c with dirty := m } :=
  ⟨h.shows, h.owner⟩

namespace Held

theorem congr (h : Held line p o bs s) (hc : t.coh = s.coh) : Held line p o bs t where
  valid := by rw [copy_congr hc, h.valid]
  sound u hu := by rw [copy_congr hc]; exact h.sound u hu

theorem setCopy (h : Held line p o bs s) {u : Nat} {c : Copy} (hv : u = p → c.valid = true)
    (hc : inUnit u p = true → Sound u o bs c) : Held line p o bs (s.setCopy u line c) where
  valid := by
    by_cases hu : p = u
    · subst hu
      rw [State.copy_setCopy_self, hv rfl]
    · rw [copy_setCopy_unit hu, h.valid]
  sound v hin := by
    by_cases hu : v = u
    · subst hu
      rw [State.copy_setCopy_self]
      exact hc hin
    · rw [copy_setCopy_unit hu]
      exact h.sound v hin

theorem setDirty (h : Held line p o bs s) (u : Nat) (m : BitVec 128) :
    Held line p o bs (s.setCopy u line { s.copy u line with dirty := m }) :=
  h.setCopy (fun hu => hu ▸ h.valid) fun hu => (h.sound u hu).setDirty m

theorem dropped (h : Held line p o bs s) {us : List Nat} (hus : p ∉ us) : Held line p o bs (s.dropped us line) where
  valid := by rw [copy_dropped, if_neg hus, h.valid]
  sound u hu := by
    rw [copy_dropped]
    split
    · exact sound_empty u
    · exact h.sound u hu

/-- What the package directory publishes to the home leaves the bytes. -/
theorem toHome (h : Held line p o bs s) (hp : p ≤ 78) : Held line p o bs (s.toHome line) where
  valid := by rw [valid_toHome hp, h.valid]
  sound u hu := by
    have hle : u < 80 := by have := inUnit_le hu; omega
    have hpub := published_toHome (s := s) (line := line) hle
    obtain ⟨hshows, howner⟩ := (h.sound u hu).setDirty 0
    rw [← Copy.published, ← hpub] at hshows howner
    exact ⟨hshows, howner⟩

variable (ho : o + bs.length ≤ 128)
include ho

/-- A copy takes the bytes, or others of its line. -/
theorem setMerged (h : Held line p o bs s) (u : Nat) {d : Line} {m : BitVec 128} (hd : ShowsOn o bs m d) (m' : BitVec 128) :
    Held line p o bs
      (s.setCopy u line { s.copy u line with data := mergeBytes (s.copy u line).data d m, dirty := m' }) := by
  refine h.setCopy (fun hu => hu ▸ h.valid) fun hu => ?_
  obtain ⟨hshows, howner⟩ := h.sound u hu
  exact ⟨fun hv => (hshows hv).merge ho hd, howner⟩

theorem takeIn (h : Held line p o bs s) (q : Nat) {d : Line} {m : BitVec 128} (hd : ShowsOn o bs m d) :
    Held line p o bs (s.takeIn q line d m) := by
  unfold State.takeIn
  exact foldl_keeps _ (fun _ u ht => ht.setMerged ho u (hd.and _) _) _ (h.setMerged ho q hd _)

theorem unpublished_shows {os : List Nat} (hos : ∀ u ∈ os, Shows o bs (s.copy u line).data) :
    ShowsOn o bs (s.unpublished os line).2 (s.unpublished os line).1 := by
  unfold State.unpublished
  refine List.foldlRecOn (motive := fun r : Line × BitVec 128 => ShowsOn o bs r.2 r.1) os _ ?_ fun r hr u hu => ?_
  · intro i _ hm
    simp at hm
  · exact hr.merge ho (hos u hu)

variable (hp : p ≤ 78)
include hp

section
variable {q : Nat} (hq : inUnit q p = true)
include hq

theorem invalidateOthers (h : Held line p o bs s) (keep : Nat → Bool) :
    Held line p o bs (s.invalidateOthers q keep line) := by
  have hq78 : q ≤ 78 := (inUnit_le hq).trans hp
  have hmem : p ∉ s.others q keep line := fun hm => by
    obtain ⟨hin, hne, -⟩ := (mem_others hq78).mp hm
    exact hne (inUnit_antisymm hin hq)
  have hos : ∀ u ∈ s.others q keep line, Shows o bs (s.copy u line).data := fun u hu => by
    obtain ⟨hin, -, -, hv⟩ := (mem_others hq78).mp hu
    exact (h.sound u (inUnit_trans hin hq)).shows hv
  rw [invalidateOthers_eq]
  dsimp only
  split
  · exact h.dropped hmem
  · exact (h.dropped hmem).takeIn ho q (unpublished_shows ho hos)

variable {c : Nat} (hc : inUnit c q = true) (hne : c ≠ q)
include hc hne

theorem receive (h : Held line p o bs s) {d : Line} {m : BitVec 128} (hd : ShowsOn o bs m d) :
    Held line p o bs (s.receive c q line d m) := by
  obtain ⟨hshows, -⟩ := h.sound q hq
  have hs : Held line p o bs (s.setCopy q line { s.copy q line with
      data := mergeBytes (s.copy q line).data d m, dirty := (s.copy q line).dirty ||| m, owner := some c }) := by
    refine h.setCopy (fun hu => hu ▸ h.valid) fun _ => ⟨fun hv => (hshows hv).merge ho hd, fun _ w hw => ?_⟩
    cases hw
    exact ⟨hc, hne⟩
  have hi := hs.invalidateOthers ho hp hq (inUnit · c)
  unfold State.receive
  dsimp only
  split_ifs
  · exact hi.toHome hp
  · exact hi

theorem raise (h : Held line p o bs s) (hv : (s.copy c line).valid = true) : Held line p o bs (s.raise c q line) := by
  have hsound := h.sound c (inUnit_trans hc hq)
  unfold State.raise
  dsimp only
  split_ifs
  · exact h
  · exact (h.setDirty c 0).receive ho hp hq hc hne ((hsound.shows hv).showsOn _)

end

/-- Bytes gathered at a unit keep the bytes held, and end copies strictly inside it only. -/
theorem gather (h : Held line p o bs s) (f : Nat) {q : Nat} (hq : inUnit q p = true) (hv : (s.copy q line).valid = true) :
    Held line p o bs (State.gather line f q s) ∧
      ∀ u ≤ 78, (inUnit u q = true → u = q) → ((State.gather line f q s).copy u line).valid = (s.copy u line).valid := by
  induction f generalizing s q with
  | zero => exact ⟨h, fun u _ _ => rfl⟩
  | succ f ih =>
    unfold State.gather
    split
    · exact ⟨h, fun u _ _ => rfl⟩
    next c hown =>
      obtain ⟨hc, hne⟩ := (h.sound q hq).owner hv c hown
      have hq78 : q ≤ 78 := (inUnit_le hq).trans hp
      split_ifs with hcv
      · obtain ⟨hg, hkeep⟩ := ih h (inUnit_trans hc hq) hcv
        have hcv' := (hkeep c ((inUnit_le hc).trans hq78) fun _ => rfl).trans hcv
        refine ⟨hg.raise ho hp hq hc hne hcv', fun u hu hin => ?_⟩
        rw [valid_raise hq78 hu hin]
        refine hkeep u hu fun huc => ?_
        obtain rfl := hin (inUnit_trans huc hc)
        exact inUnit_antisymm huc hc
      · exact ⟨h, fun u _ _ => rfl⟩

/-- A fetch along units inside brings in the bytes held. -/
theorem fetch (asid : Nat) (us rest : List Nat) (hus : ∀ u ∈ us, inUnit u p = true)
    (h0 : ∀ u ∈ us, (s.copy u line).valid = true → Held line p o bs s)
    (hrest : Held line p o bs (State.fetch line asid (p :: rest) s)) :
    Held line p o bs (State.fetch line asid (us ++ p :: rest) s) := by
  induction us with
  | nil => exact hrest
  | cons u us ih =>
    have hf := ih (fun v hv => hus v (List.mem_cons_of_mem u hv)) fun v hv => h0 v (List.mem_cons_of_mem u hv)
    obtain ⟨q, r, hqr, hq⟩ : ∃ q r, us ++ p :: rest = q :: r ∧ inUnit q p = true := by
      cases us with
      | nil => exact ⟨p, rest, rfl, inUnit_refl p⟩
      | cons v us => exact ⟨v, us ++ p :: rest, rfl, hus v (by simp)⟩
    rw [List.cons_append, hqr]
    rw [hqr] at hf
    unfold State.fetch
    split_ifs with hu
    · exact h0 u (List.mem_cons_self ..) hu
    · have hqv := valid_fetch (s := s) (line := line) (u := q) asid r
      obtain ⟨hg, hkeep⟩ := hf.gather ho hp 4 hq hqv
      have hqv' := (hkeep q ((inUnit_le hq).trans hp) fun _ => rfl).trans hqv
      exact hg.setCopy (fun _ => rfl) fun _ => ⟨fun _ => (hg.sound q hq).shows hqv', nofun⟩

end Held

end

end Sys2Proof.Machine
end

section
/-! PROOFS. A line obtained at a scope, written there, and read anywhere inside it (R90, R95, R96, R102). -/

namespace Sys2Proof.Machine

/-! ### Paths -/

theorem depth_le (x : Scope) : x.depth ≤ 4 := by cases x <;> decide

section
variable {k n : Nat}

theorem getElem?_cluPath (hn : n ≤ 4) : (cluPath k)[n]? = some ((cluPath k).getD n 78) := by
  have hlt : n < (cluPath k).length := Nat.lt_succ_of_le hn
  rw [List.getD_eq_getElem _ _ hlt, List.getElem?_eq_getElem hlt]

/-- A path goes through its unit at a position. -/
theorem cluPath_split (hn : n ≤ 4) : cluPath k =
    (cluPath k).take n ++ (cluPath k).getD n 78 :: (cluPath k).drop (n + 1) := by
  have hlt : n < (cluPath k).length := Nat.lt_succ_of_le hn
  rw [List.getD_eq_getElem _ _ hlt, List.getElem_cons_drop, List.take_append_drop]

theorem take_succ_cluPath (hn : n ≤ 4) :
    (cluPath k).take (n + 1) = (cluPath k).take n ++ [(cluPath k).getD n 78] := by
  rw [List.take_add_one, getElem?_cluPath hn]
  rfl

variable (hk : k < 64)
include hk

theorem cluPath_le {u : Nat} (hu : u ∈ cluPath k) : u ≤ 78 := by
  simp only [cluPath, List.mem_cons, List.not_mem_nil, or_false] at hu
  omega

/-- Each unit of a path is strictly inside the next. -/
theorem isChain_cluPath : (cluPath k).IsChain fun c p => inUnit c p = true ∧ c ≠ p := by
  simp only [cluPath, List.isChain_cons_cons, List.isChain_singleton, and_true, inUnit]
  split_ifs <;> simp <;> omega

/-- What stands on a path up to a unit is inside it. -/
theorem inUnit_cluPath {u : Nat} (hn : n ≤ 4) (hu : u ∈ (cluPath k).take n) :
    inUnit u ((cluPath k).getD n 78) = true := by
  have hchain : (cluPath k).IsChain fun c p => inUnit c p = true := (isChain_cluPath hk).imp fun _ _ h => h.1
  have : IsTrans Nat fun c p => inUnit c p = true := ⟨fun _ _ _ => inUnit_trans⟩
  have hpair := List.isChain_iff_pairwise.mp hchain
  rw [cluPath_split hn, List.pairwise_append] at hpair
  exact hpair.2.2 u hu _ (List.mem_cons_self ..)

end

/-! ### A line obtained -/

section
variable {s : State} {line : Nat}

/-- A directory's owner of a line, if it has one, is strictly inside it. -/
def State.OwnerIn (s : State) (line u : Nat) : Prop :=
  ∀ w, (s.copy u line).owner = some w → inUnit w u = true ∧ w ≠ u

theorem ownerIn_setOwner {u c p : Nat} (hcp : inUnit c p = true ∧ c ≠ p) (h : u = p ∨ s.OwnerIn line u) :
    (s.setCopy p line { s.copy p line with owner := some c }).OwnerIn line u := by
  intro w hw
  by_cases hu : u = p
  · subst hu
    rw [State.copy_setCopy_self] at hw
    cases hw
    exact hcp
  · rw [copy_setCopy_unit hu] at hw
    exact (h.resolve_left hu) w hw

/-- Owners set along a path are strictly inside their units. -/
theorem ownerIn_setOwners {u : Nat} (n : Nat) {path : List Nat}
    (hpath : path.IsChain fun c p => inUnit c p = true ∧ c ≠ p)
    (hu : u ∈ (path.take (n + 1)).tail ∨ s.OwnerIn line u) : (State.setOwners line n path s).OwnerIn line u := by
  induction n generalizing s path with
  | zero =>
    refine hu.resolve_left fun hmem => ?_
    cases path <;> simp at hmem
  | succ n ih =>
    match path, hpath, hu with
    | [], _, hu => exact hu.resolve_left (by simp)
    | [_], _, hu => exact hu.resolve_left (by simp)
    | c :: p :: rest, hpath, hu =>
      obtain ⟨hcp, hrest⟩ := List.isChain_cons_cons.mp hpath
      refine ih hrest ?_
      rcases hu with hu | hu
      · rcases List.mem_cons.mp hu with hp | hu
        · exact .inr (ownerIn_setOwner hcp (.inl hp))
        · exact .inl hu
      · exact .inr (ownerIn_setOwner hcp (.inr hu))

theorem valid_setOwners (u n : Nat) (path : List Nat) :
    ((State.setOwners line n path s).copy u line).valid = (s.copy u line).valid := by
  induction n generalizing s path with
  | zero => rfl
  | succ n ih =>
    match path with
    | [] => rfl
    | [_] => rfl
    | c :: p :: rest => exact (ih _).trans (valid_setCopy rfl)

/-- A cluster has obtained a line at a position of its path: the unit there holds it, and inside the unit only the path
does, with owners strictly inside their units. -/
structure Obtained (s : State) (line n k : Nat) : Prop where
  valid : (s.copy ((cluPath k).getD n 78) line).valid = true
  only : ∀ u, inUnit u ((cluPath k).getD n 78) = true → (s.copy u line).valid = true → u ∈ (cluPath k).take (n + 1)
  owner : ∀ u, inUnit u ((cluPath k).getD n 78) = true → (s.copy u line).valid = true → s.OwnerIn line u

theorem obtained {n k : Nat} (hline : line < 2 ^ 41) (hs : ∀ u < 64, (s.copy u line).owner = none) (hk : k < 64)
    (hn : n ≤ 4) (asid : Nat) : Obtained (State.obtain line asid n k s) line n k := by
  have htidy : Tidy s line (State.obtain line asid n k s) := (Tidy.mk hs fun _ _ _ _ => rfl).obtain' hline asid n
  have hclu : (State.obtain line asid n k s).OwnerIn line k := fun w hw => by
    rw [htidy.shared k hk] at hw
    cases hw
  have hup : ((State.carryUp line asid n (cluPath k) (s.request k line asid)).copy ((cluPath k).getD n 78) line).valid =
      true := by
    refine valid_carryUp asid n (fun v hv => cluPath_le hk hv) (fun v hv => ?_) (getElem?_cluPath hn)
    obtain rfl : k = v := Option.some.inj hv
    exact valid_request asid
  by_cases h0 : n = 0
  · subst h0
    have hobt : State.obtain line asid 0 k s = State.carryUp line asid 0 (cluPath k) (s.request k line asid) := rfl
    refine ⟨hup, fun u hu _ => ?_, fun u hu _ => ?_⟩
    · obtain rfl := (inUnit_cluster hk).mp hu
      exact List.mem_cons_self ..
    · obtain rfl := (inUnit_cluster hk).mp hu
      exact hclu
  · have hp : (cluPath k).getD n 78 ≤ 78 := cluPath_le hk (List.mem_of_getElem? (getElem?_cluPath hn))
    have hobt : State.obtain line asid n k s = State.setOwners line n (cluPath k)
        ((State.carryUp line asid n (cluPath k) (s.request k line asid)).invalidateOthers ((cluPath k).getD n 78)
          ((cluPath k).take n).contains line) := if_neg h0
    have honly : ∀ u, inUnit u ((cluPath k).getD n 78) = true →
        ((State.obtain line asid n k s).copy u line).valid = true → u ∈ (cluPath k).take (n + 1) := by
      intro u hu hv
      rw [hobt, valid_setOwners, invalidateOthers_rel Copy.valid fun _ _ _ => rfl] at hv
      split at hv
      next => cases hv
      next hmem =>
        by_contra hnot
        rw [take_succ_cluPath hn, List.mem_append, List.mem_singleton, not_or] at hnot
        exact hmem ((mem_others hp).mpr ⟨hu, hnot.2, by simpa using hnot.1, hv⟩)
    refine ⟨?_, honly, fun u hu hv => ?_⟩
    · rw [hobt, valid_setOwners, valid_invalidateOthers hp fun _ => rfl]
      exact hup
    · rcases List.mem_cons.mp (honly u hu hv) with rfl | hmem
      · exact hclu
      · rw [hobt]
        exact ownerIn_setOwners n (isChain_cluPath hk) (.inl hmem)

end

/-! ### A line written -/

section
variable {s : State} {line u : Nat}

theorem copy_written_of_notMem {us : List Nat} (hu : u ∉ us) (d : Line) (m : BitVec 128) :
    (s.written us line d m).copy u line = s.copy u line := by
  induction us generalizing s with
  | nil => rfl
  | cons v us ih =>
    obtain ⟨hne, hu⟩ := not_or.mp (mt List.mem_cons.mpr hu)
    exact (ih hu).trans (copy_setCopy_unit hne)

/-- Each of the units written holds the bytes. -/
theorem shows_written {o : Nat} {bs : List Byte} (ho : o + bs.length ≤ 128) {us : List Nat} (hu : u ∈ us) :
    Shows o bs ((s.written us line (placeBytes o bs) (byteMask o bs.length)).copy u line).data := by
  induction us generalizing s with
  | nil => cases hu
  | cons v us ih =>
    by_cases hmem : u ∈ us
    · exact ih hmem
    · obtain rfl : u = v := (List.mem_cons.mp hu).resolve_right hmem
      have hcopy := copy_written_of_notMem (s := s.setCopy u line { s.copy u line with
        data := mergeBytes (s.copy u line).data (placeBytes o bs) (byteMask o bs.length) }) (line := line) hmem
        (placeBytes o bs) (byteMask o bs.length)
      rw [State.copy_setCopy_self] at hcopy
      refine Eq.mpr (congrArg (fun c : Copy => Shows o bs c.data) hcopy) ?_
      exact shows_placed ho _

/-- A line obtained and written at a unit is held there. -/
theorem held_putBytes {o n k : Nat} {bs : List Byte} (ho : o + bs.length ≤ 128) (hk : k < 64) (hn : n ≤ 4)
    (h : Obtained s line n k) : Held line ((cluPath k).getD n 78) o bs
      (State.putBytes line n (cluPath k) (placeBytes o bs) (byteMask o bs.length) s) := by
  have hp : (cluPath k).getD n 78 ≤ 78 := cluPath_le hk (List.mem_of_getElem? (getElem?_cluPath hn))
  obtain ⟨hvalid, honly, howner⟩ := h
  have hrel {α : Type} (f : Copy → α) (hf : ∀ (c : Copy) d, f { c with data := d } = f c) (u : Nat) :
      f ((s.written ((cluPath k).take (n + 1)) line (placeBytes o bs) (byteMask o bs.length)).copy u line) =
        f (s.copy u line) := foldl_setCopy_rel f _ (fun s u => hf (s.copy u line) _) _
  have hw : Held line ((cluPath k).getD n 78) o bs
      (s.written ((cluPath k).take (n + 1)) line (placeBytes o bs) (byteMask o bs.length)) := by
    refine ⟨(hrel Copy.valid (fun _ _ => rfl) _).trans hvalid, fun u hu => ⟨fun hv => ?_, fun hv w hw => ?_⟩⟩
    · exact shows_written ho (honly u hu ((hrel Copy.valid (fun _ _ => rfl) u).symm.trans hv))
    · exact howner u hu ((hrel Copy.valid (fun _ _ => rfl) u).symm.trans hv) w
        ((hrel Copy.owner (fun _ _ => rfl) u).symm.trans hw)
  have hd := fun m => hw.setDirty ((cluPath k).getD n 78) m
  rw [putBytes_eq]
  dsimp only
  split_ifs
  · exact (hd _).toHome hp
  · exact hd _

end

/-! ### A line read -/

section
variable {s : State} {line o : Nat} {bs : List Byte}

/-- A request leaves the copies that a fetch along the cluster's path leaves. -/
theorem coh_request (s : State) (k line asid : Nat) :
    (s.request k line asid).coh = (State.fetch line asid (cluPath k) s).coh := by
  unfold State.request
  dsimp only
  split_ifs with h
  · rw [cluPath, State.fetch, if_pos h]
  · exact coh_carryTime _ _ _

/-- A cluster reads the bytes held at a unit around it, once its fetch has reached the unit. -/
theorem getBytes_request {n k : Nat} (ho : o + bs.length ≤ 128) (hk : k < 64) (hn : n ≤ 4) (asid : Nat)
    (h0 : ∀ u ∈ (cluPath k).take n, (s.copy u line).valid = true → Held line ((cluPath k).getD n 78) o bs s)
    (hrest : Held line ((cluPath k).getD n 78) o bs
      (State.fetch line asid ((cluPath k).getD n 78 :: (cluPath k).drop (n + 1)) s)) :
    (s.request k line asid).getBytes k line o bs.length = bs := by
  have hp : (cluPath k).getD n 78 ≤ 78 := cluPath_le hk (List.mem_of_getElem? (getElem?_cluPath hn))
  have hin : inUnit k ((cluPath k).getD n 78) = true := by
    by_cases hz : n = 0
    · subst hz
      exact inUnit_refl k
    · refine inUnit_cluPath hk hn ?_
      obtain ⟨m, rfl⟩ := Nat.exists_eq_succ_of_ne_zero hz
      exact List.mem_cons_self ..
  have hf := Held.fetch ho hp asid _ _ (fun u hu => inUnit_cluPath hk hn hu) h0 hrest
  rw [← cluPath_split hn] at hf
  have hr : Held line ((cluPath k).getD n 78) o bs (s.request k line asid) := hf.congr (coh_request s k line asid)
  exact ((hr.sound k hin).shows (valid_request asid)).eq

/-- What is held at a unit every cluster inside it reads. -/
theorem Held.getBytes_request {n k : Nat} (ho : o + bs.length ≤ 128) (hk : k < 64) (hn : n ≤ 4) (asid : Nat)
    (h : Held line ((cluPath k).getD n 78) o bs s) : (s.request k line asid).getBytes k line o bs.length = bs := by
  refine Machine.getBytes_request ho hk hn asid (fun _ _ _ => h) ?_
  unfold State.fetch
  rwa [if_pos h.valid]

end

end Sys2Proof.Machine
end

section
/-! PROOFS. Atomics at the home of a line, and what every cluster of a scope reads after a write or an atomic (R90, R95,
R102, R231). -/

namespace Sys2Proof.Machine

/-! ### Bytes that reach the home of a line (R80, R96) -/

section
variable {s : State} {line : Nat}

theorem memByte_setMemBytes_below (bs : List Byte) {a c : Nat} (h : c < a) :
    (s.setMemBytes a bs).memByte c = s.memByte c := by
  induction bs generalizing s a with
  | nil => rfl
  | cons b bs ih => exact (ih (Nat.lt_succ_of_lt h)).trans (State.memByte_setMemByte_ne s b (Nat.ne_of_lt h))

theorem memByte_setMemBytes (bs : List Byte) (a : Nat) {i : Nat} (hi : i < bs.length) :
    (s.setMemBytes a bs).memByte (a + i) = bs.getD i 0 := by
  induction bs generalizing s a i with
  | nil => exact absurd hi (Nat.not_lt_zero i)
  | cons b bs ih =>
    cases i with
    | zero => exact (memByte_setMemBytes_below bs (Nat.lt_succ_self a)).trans (State.memByte_setMemByte_self s a b)
    | succ i =>
      rw [List.getD_cons_succ, ← ih (s := s.setMemByte a b) (a + 1) (Nat.lt_of_succ_lt_succ hi), Nat.add_right_comm]
      rfl

/-- Memory takes the bytes of a line. -/
theorem byte_memLine_setMemLine (d : Line) {k : Nat} (hk : k < 128) :
    Line.byte ((s.setMemLine line d).memLine line) k = Line.byte d k := by
  rw [State.memLine, byte_ofBytes _ hk, getD_map_range _ _ hk, State.setMemLine,
    memByte_setMemBytes _ _ (by simpa using hk), getD_map_range _ _ hk]

theorem llcOf_congr {t : State} (hf : t.hbmFine = s.hbmFine) (hw : t.win = s.win) : t.llcOf line = s.llcOf line := by
  simp only [State.llcOf, State.windowHome, State.windowWith, hf, hw]

theorem llcOf_meetFill : (s.meetFill line).llcOf line = s.llcOf line := by
  unfold State.meetFill
  split <;> rfl

theorem llcOf_homeRead (asid : Nat) : (s.homeRead line asid).1.llcOf line = s.llcOf line := by
  unfold State.homeRead
  split
  · dsimp only
    split_ifs
    · rfl
    · exact llcOf_meetFill
  · rfl

theorem llcOf_setMemBytes (bs : List Byte) (a : Nat) : (s.setMemBytes a bs).llcOf line = s.llcOf line := by
  induction bs generalizing s a with
  | nil => rfl
  | cons b bs ih => exact ih (s := s.setMemByte a b) (a + 1)

/-! The home of a line that an LLC holds, and of one that none does. -/

section
variable {st : Nat} (hl : s.llcOf line = some st)
include hl

theorem homeRead_of_valid (hv : (s.copy (llcUnit st) line).valid = true) (asid : Nat) :
    s.homeRead line asid = (s, s.copy (llcUnit st) line) := by
  simp only [State.homeRead, hl, hv, if_true]

theorem homeRead_setCopy_llc {c : Copy} (hv : c.valid = true) (asid : Nat) :
    ((s.setCopy (llcUnit st) line c).homeRead line asid).2 = c := by
  have hl' : (s.setCopy (llcUnit st) line c).llcOf line = some st := hl
  rw [homeRead_of_valid hl' (by rw [State.copy_setCopy_self, hv]), State.copy_setCopy_self]

theorem valid_homeRead (asid : Nat) : (s.homeRead line asid).2.valid = true := by
  simp only [State.homeRead, hl]
  split_ifs with hv
  · exact hv
  · rfl

theorem homeMerge_llc (asid : Nat) (d : Line) {m : BitVec 128} (hm : m ≠ 0) : s.homeMerge line asid d m =
    (s.homeRead line asid).1.setCopy (llcUnit st) line { (s.homeRead line asid).2 with
      data := mergeBytes (s.homeRead line asid).2.data d m, dirty := (s.homeRead line asid).2.dirty ||| m } := by
  simp only [State.homeMerge, if_neg hm, hl]

theorem homeRead_homeMerge_llc (asid asid' : Nat) (d : Line) {m : BitVec 128} (hm : m ≠ 0) :
    ((s.homeMerge line asid d m).homeRead line asid').2.data = mergeBytes (s.homeRead line asid).2.data d m := by
  rw [homeMerge_llc hl asid d hm, homeRead_setCopy_llc ((llcOf_homeRead asid).trans hl)]
  exact valid_homeRead hl asid

end

section
variable (hl : s.llcOf line = none)
include hl

theorem homeRead_memory (asid : Nat) : (s.homeRead line asid).2.data = s.memLine line := by
  simp only [State.homeRead, hl]

theorem homeMerge_memory (asid : Nat) (d : Line) {m : BitVec 128} (hm : m ≠ 0) :
    s.homeMerge line asid d m = s.setMemLine line (mergeBytes (s.memLine line) d m) := by
  simp only [State.homeMerge, if_neg hm, hl]

end

/-- Bytes written at the home are those that it then answers with. -/
theorem shows_homeMerge {o : Nat} {bs : List Byte} (ho : o + bs.length ≤ 128) (asid asid' : Nat) :
    Shows o bs ((s.homeMerge line asid (placeBytes o bs) (byteMask o bs.length)).homeRead line asid').2.data := by
  intro i hi
  have hm : byteMask o bs.length ≠ 0 := fun h0 => by
    have hbit := getLsbD_byteMask (o := o) (n := bs.length) (k := i) (by omega)
    rw [h0, decide_eq_true hi] at hbit
    simp at hbit
  cases hl : s.llcOf line with
  | some st =>
    rw [homeRead_homeMerge_llc hl asid asid' _ hm]
    exact shows_placed ho _ i hi
  | none =>
    have hl' : ∀ d, (s.setMemLine line d).llcOf line = none := fun d => (llcOf_setMemBytes _ _).trans hl
    rw [homeMerge_memory hl asid _ hm, homeRead_memory (hl' _), byte_memLine_setMemLine _ (by omega)]
    exact shows_placed ho _ i hi

end

/-! ### Reads after a recall (R102, R231) -/

section
variable {s : State} {line o : Nat} {bs : List Byte}

/-- A recall leaves no copy of the line in a cluster or a directory. -/
theorem recallHome_invalid (asid : Nat) {u : Nat} (hu : inUnit u 78 = true) :
    ((s.recallHome line asid).copy u line).valid = false := by
  unfold State.recallHome
  dsimp only
  by_cases h : u = 78
  · subst h
    rw [State.copy_setCopy_self]
    rfl
  · rw [copy_setCopy_unit h, valid_toHome (inUnit_le hu), invalidateOthers_rel Copy.valid fun _ _ _ => rfl]
    split
    next => rfl
    next hmem =>
      rw [mem_others le_rfl] at hmem
      simpa [hu, h] using hmem

theorem fetch_home (hv : (s.copy 78 line).valid = false) (asid : Nat) : State.fetch line asid [78] s =
    (s.homeRead line asid).1.setCopy 78 line
      { valid := true, data := (s.homeRead line asid).2.data, tag := (s.homeRead line asid).2.tag } := by
  unfold State.fetch
  rw [hv]
  rfl

/-- With no copy inside the package, a fetch to its directory brings in what the home answers with. -/
theorem held_fetch_home (hs : ∀ u, inUnit u 78 = true → (s.copy u line).valid = false) (asid : Nat)
    (hd : Shows o bs (s.homeRead line asid).2.data) : Held line 78 o bs (State.fetch line asid [78] s) := by
  rw [fetch_home (hs 78 rfl)]
  refine ⟨by rw [State.copy_setCopy_self], fun u hu => ?_⟩
  by_cases h : u = 78
  · subst h
    rw [State.copy_setCopy_self]
    exact ⟨fun _ => hd, nofun⟩
  · have hle : u < 80 := by have := inUnit_le hu; omega
    rw [copy_setCopy_unit h, copy_homeRead hle]
    exact ⟨fun hv => absurd hv (by simp [hs u hu]), fun hv => absurd hv (by simp [hs u hu])⟩

/-- What the home answers with every cluster reads, where no copy is left inside the package. -/
theorem getBytes_request_home {k : Nat} (ho : o + bs.length ≤ 128) (hk : k < 64)
    (hs : ∀ u, inUnit u 78 = true → (s.copy u line).valid = false) (asid : Nat)
    (hd : Shows o bs (s.homeRead line asid).2.data) : (s.request k line asid).getBytes k line o bs.length = bs := by
  refine getBytes_request (n := 4) ho hk le_rfl asid (fun u hu hv => ?_) (held_fetch_home hs asid hd)
  have hin : inUnit u 78 = true := inUnit_cluPath hk (n := 4) le_rfl hu
  simp [hs u hin] at hv

end

/-! ### What is read after a write or an atomic of a scope (R90, R95, R102) -/

section
variable {s : State} {k k' asid asid' pa n : Nat} {x : Scope} (hk : k < 64) (hk' : k' < 64)
  (hline : pa / 128 < 2 ^ 41) (ho : pa % 128 + n ≤ 128)
include hk hk' hline ho

section
variable (hs : ∀ u < 64, (s.copy u (pa / 128)).owner = none)
  (hpath : (cluPath k').getD x.depth 78 = (cluPath k).getD x.depth 78)
include hs hpath

/-- Bytes written to a line that a cluster has obtained at a scope are what each cluster of the scope reads. -/
theorem readFrom_putBytes {bs : List Byte} (hb : bs.length = n) : ((State.putBytes (pa / 128) x.depth (cluPath k)
    (placeBytes (pa % 128) bs) (byteMask (pa % 128) bs.length)
    (State.obtain (pa / 128) asid x.depth k s)).readFrom k' asid' pa n).2 = bs := by
  subst hb
  have hheld := held_putBytes ho hk (depth_le x) (obtained hline hs hk (depth_le x) asid)
  rw [← hpath] at hheld
  exact hheld.getBytes_request ho hk' (depth_le x) asid'

variable {f : List Byte → List Byte} (hf : ∀ b, (f b).length = n)
include hf

theorem readFrom_rmwOwned : ((s.rmwOwned k x asid pa n f).1.readFrom k' asid' pa n).2 = f (s.rmwOwned k x asid pa n f).2 :=
  readFrom_putBytes (s := s.noteDirty k asid) hk hk' hline ho
    (fun u hu => by rw [copy_congr (coh_noteDirty s k asid), hs u hu]) hpath (hf _)

end

end

theorem rmwHome_eq (s : State) (asid pa n : Nat) (f : List Byte → List Byte) : s.rmwHome asid pa n f =
    let t := (s.recallHome (pa / 128) asid).homeRead (pa / 128) asid
    let old := (List.range n).map fun k => t.2.data.byte (pa % 128 + k)
    (t.1.homeMerge (pa / 128) asid (placeBytes (pa % 128) (f old)) (byteMask (pa % 128) (f old).length), old) := rfl

/-- The time counters have no part in what the home answers. -/
theorem homeRead_times (s : State) (x : Store Word64) (line asid : Nat) :
    (({ s with times := x } : State).homeRead line asid).2 = (s.homeRead line asid).2 := by
  have hl : ({ s with times := x } : State).llcOf line = s.llcOf line := rfl
  have hc (u : Nat) : ({ s with times := x } : State).copy u line = s.copy u line := rfl
  unfold State.homeRead
  rw [hl]
  cases s.llcOf line with
  | none => rfl
  | some st =>
    dsimp only
    rw [hc]
    split_ifs
    · rfl
    · rfl

theorem homeRead_carryTime (s : State) (i j line asid : Nat) :
    ((s.carryTime i j).homeRead line asid).2 = (s.homeRead line asid).2 := by
  unfold State.carryTime
  dsimp only
  split_ifs
  · exact homeRead_times s _ line asid
  · rfl

/-- The new value of an atomic at the home is what each cluster of the package reads. -/
theorem readFrom_rmwHome {s : State} {k asid asid' pa n : Nat} (hk : k < 64) (ho : pa % 128 + n ≤ 128)
    {f : List Byte → List Byte} (hf : ∀ b, (f b).length = n) (i j : Nat) :
    (((s.rmwHome asid pa n f).1.carryTime i j).readFrom k asid' pa n).2 = f (s.rmwHome asid pa n f).2 := by
  rw [rmwHome_eq]
  dsimp only
  let t := (s.recallHome (pa / 128) asid).homeRead (pa / 128) asid
  have hlen := hf ((List.range n).map fun k => t.2.data.byte (pa % 128 + k))
  generalize hbs : f ((List.range n).map fun k => t.2.data.byte (pa % 128 + k)) = bs at hlen ⊢
  subst hlen
  refine getBytes_request_home ho hk (fun u hu => ?_) asid' ?_
  · have hle : u < 80 := by have := inUnit_le hu; omega
    rw [copy_congr (coh_carryTime _ i j), copy_homeMerge hle, copy_homeRead hle, recallHome_invalid asid hu]
  · rw [homeRead_carryTime]
    exact shows_homeMerge ho asid asid'

section
variable {s : State} {k asid pa n : Nat} {x : Scope} {f : List Byte → List Byte}

theorem coh_predict (s : State) (k pa : Nat) (a b : Bool) : (s.predict k pa a b).coh = s.coh := rfl

theorem atomicFrom_owned (hx : x.depth ≠ 4) : s.atomicFrom k x asid pa n f = s.rmwOwned k x asid pa n f := if_neg hx

variable (hx : x.depth = 4)
include hx

/-- At package scope the predictor may send an atomic to the home. -/
theorem atomicFrom_home (hp : 2 ≤ (s.pred.get 1 (predKey (k / 16) pa)).toNat) : s.atomicFrom k x asid pa n f =
    let r := (s.predict k pa true false).rmwHome asid pa n f
    (r.1.carryTime ((r.1.llcOf (pa / 128)).elim (dieKey 78 (pa / 128)) (72 + ·)) (k / 8), r.2) := by
  rw [State.atomicFrom, if_pos hx, if_pos hp]

theorem atomicFrom_predicted (hp : ¬2 ≤ (s.pred.get 1 (predKey (k / 16) pa)).toNat) : s.atomicFrom k x asid pa n f =
    (s.predict k pa false ((List.range 64).any fun u => u != k && (s.copy u (pa / 128)).valid)).rmwOwned k x asid pa n f := by
  rw [State.atomicFrom, if_pos hx, if_neg hp]

end

/-! ### Coherent writes -/

/-- Settles O30: a line that a cluster has obtained at a scope is valid inside the unit on that cluster's path alone, so
bytes written there are held inside the unit and any fetch inside it keeps them; an atomic at the home finds no copy. -/
theorem coherentWrites : Obligations.CoherentWrites := by
  unfold Obligations.CoherentWrites
  intro s k k' asid asid' pa n x bs f line hk hk' hpa ho hb hf hs hpath
  have hline : pa / 128 < 2 ^ 41 := by omega
  have hn : ∀ u < 64, ((s.noteDirty k asid).copy u line).owner = none := fun u hu => by
    rw [copy_congr (coh_noteDirty s k asid), hs u hu]
  refine ⟨readFrom_putBytes hk hk' hline ho hn hpath hb, ?_, fun u l _ hl hne => ?_⟩
  · by_cases hx : x.depth = 4
    · by_cases hp : 2 ≤ (s.pred.get 1 (predKey (k / 16) pa)).toNat
      · rw [atomicFrom_home hx hp]
        exact readFrom_rmwHome hk' ho hf _ _
      · rw [atomicFrom_predicted hx hp]
        exact readFrom_rmwOwned hk hk' hline ho (fun u hu => by rw [copy_congr (coh_predict s k pa _ _), hs u hu]) hpath hf
    · rw [atomicFrom_owned hx]
      exact readFrom_rmwOwned hk hk' hline ho hs hpath hf
  · have htidy : Tidy s line (s.noteDirty k asid) := ⟨hn, fun u l _ _ => copy_congr (coh_noteDirty s k asid) u l⟩
    exact ((htidy.obtain' hline asid x.depth).putBytes hline _ _ _ _).others u l hl hne

end Sys2Proof.Machine
end

section
/-! PROOFS. Lane-wise integer arithmetic, its carries and comparisons (R110, R111, R180, R182, R186, R188). -/

namespace Sys2Proof.Machine

/-! ### Patterns and the integers that they stand for (R110, R111) -/

theorem sval_modEq (w x : Nat) : sval w x ≡ x [ZMOD 2 ^ w] := by
  have hx : ((x % 2 ^ w : Nat) : Int) ≡ x [ZMOD 2 ^ w] := by
    simpa using Int.mod_modEq (x : Int) (2 ^ w)
  unfold sval
  split
  · exact hx
  · exact (Int.modEq_sub_modulus_iff.mpr rfl).symm.trans hx

theorem ival_modEq (signed : Bool) (w x : Nat) : ival signed w x ≡ x [ZMOD 2 ^ w] := by
  cases signed
  · simpa [ival] using Int.mod_modEq (x : Int) (2 ^ w)
  · exact sval_modEq w x

theorem wrap_modEq (w : Nat) (z : Int) : (wrap w z : Int) ≡ z [ZMOD 2 ^ w] := by
  rw [wrap, Int.toNat_of_nonneg (Int.emod_nonneg z (by positivity))]
  exact Int.mod_modEq z _

theorem intMin_le_intMax (signed : Bool) (w : Nat) : intMin signed w ≤ intMax signed w := by
  have h (k : Nat) : (1 : Int) ≤ 2 ^ k := one_le_pow₀ (by decide)
  cases signed
  · simpa [intMin, intMax] using h w
  · have := h (w - 1)
    simp only [intMin, intMax, if_true]
    omega

/-- Saturation takes the nearest of the type's values. -/
theorem saturate_eq (signed : Bool) (w : Nat) (z : Int) :
    saturate signed w z = wrap w (max (intMin signed w) (min (intMax signed w) z)) := by
  have := intMin_le_intMax signed w
  rw [saturate]
  congr 1
  split_ifs <;> omega

theorem iminmax_modEq (mx signed : Bool) (w a b : Nat) : (iminmax mx signed w a b : Int) ≡
    if mx then max (ival signed w a) (ival signed w b) else min (ival signed w a) (ival signed w b) [ZMOD 2 ^ w] := by
  have ha := (ival_modEq signed w a).symm
  have hb := (ival_modEq signed w b).symm
  cases mx
  · simp only [iminmax, Bool.false_eq_true, if_false]
    split_ifs with h
    · rwa [min_eq_right h.le]
    · rwa [min_eq_left (not_lt.mp h)]
  · simp only [iminmax, if_true]
    split_ifs with h
    · rwa [max_eq_right h.le]
    · rwa [max_eq_left (not_lt.mp h)]

theorem extend_mod (signed : Bool) (w x : Nat) : extend signed w (x % 2 ^ w) = extend signed w x := by
  simp [extend, ival, sval]

/-- What a lane-wise write leaves depends on the patterns' low w bits alone. -/
theorem writeLanes_congr {s : State} {signed : Bool} {w : Nat} {d : Fin 96} {f g : Nat → Nat}
    (h : ∀ l, f l % 2 ^ w = g l % 2 ^ w) : s.writeLanes signed w d f = s.writeLanes signed w d g := by
  unfold State.writeLanes
  split
  next hw =>
    subst hw
    have h64 (l : Nat) : BitVec.ofNat 64 (f l) = BitVec.ofNat 64 (g l) := BitVec.eq_of_toNat_eq (by simpa using h l)
    simp only [h64]
  next =>
    have hext (l : Nat) : extend signed w (f l) = extend signed w (g l) := by rw [← extend_mod, h l, extend_mod]
    simp only [hext]

/-! ### Results modulo 2^w (R180, R182) -/

/-- A lane-wise form whose pattern in each lane is congruent to an integer gives that integer modulo 2^w. -/
theorem setsInts_of_modEq {i : Instr} {s : State} {signed : Bool} {w : Nat} {d : Fin 96} {f : Nat → Nat} {z : Nat → Int}
    (h : exec i s = commit (.ok (s.writeLanes signed w d f))) (hz : ∀ l, (f l : Int) ≡ z l [ZMOD 2 ^ w]) :
    SetsInts i s signed w d fun l => (z l % 2 ^ w).toNat := by
  refine setsInts_of (h.trans ?_)
  rw [writeLanes_congr fun l => ?_]
  have hw : (0 : Int) ≤ z l % 2 ^ w := Int.emod_nonneg _ (by positivity)
  zify
  rw [Int.toNat_of_nonneg hw, Int.emod_emod]
  exact hz l

section
variable (s : State) (t : IType) (d : Fin 96) (a b : Src)

/-- A lane's operand as an integer of the type. -/
def State.intAt (x : Src) (l : Nat) : Int := ival (IType.signed t) (IType.width t) (s.srcI x t.opT l)

variable {s t d a b} {i : Instr}

theorem setsInts_vecWrap {f : Int → Int → Int} (h : exec i s = s.vecWrap t d a b f) :
    SetsInts i s (IType.signed t) (IType.width t) d fun l =>
      (f (s.intAt t a l) (s.intAt t b l) % 2 ^ IType.width t).toNat :=
  setsInts_of h

theorem setsInts_vecSat {f : Int → Int → Int} (h : exec i s = s.vecSat t d a b f) :
    SetsInts i s (IType.signed t) (IType.width t) d fun l =>
      (max (intMin (IType.signed t) (IType.width t)) (min (intMax (IType.signed t) (IType.width t))
        (f (s.intAt t a l) (s.intAt t b l))) % 2 ^ IType.width t).toNat :=
  setsInts_of_modEq h fun l => by rw [saturate_eq]; exact wrap_modEq _ _

theorem vmad_setsInts : SetsInts (.vmad t d a b) s (IType.signed t) (IType.width t) d fun l =>
    ((s.intAt t a l * s.intAt t b l + ival (IType.signed t) (IType.width t) (s.oldD (IType.width t) d l)) %
      2 ^ IType.width t).toNat := by
  refine setsInts_of_modEq rfl fun l => ?_
  push_cast
  exact (Int.mod_modEq _ _).trans
    (((ival_modEq _ _ _).symm.mul (ival_modEq _ _ _).symm).add (ival_modEq _ _ _).symm)

theorem vmin_setsInts : SetsInts (.vmin t d a b) s (IType.signed t) (IType.width t) d fun l =>
    (min (s.intAt t a l) (s.intAt t b l) % 2 ^ IType.width t).toNat :=
  setsInts_of_modEq rfl fun _ => iminmax_modEq false _ _ _ _

theorem vmax_setsInts : SetsInts (.vmax t d a b) s (IType.signed t) (IType.width t) d fun l =>
    (max (s.intAt t a l) (s.intAt t b l) % 2 ^ IType.width t).toNat :=
  setsInts_of_modEq rfl fun _ => iminmax_modEq true _ _ _ _

end

/-! ### VADDC (R186) -/

/-- The lanes of m take f, the others keep their bits. -/
theorem Mask.has_merge (old m : Mask) (f : Nat → Bool) {l : Nat} (hl : l < 96) :
    Mask.has ((old &&& ~~~ m) ||| (Mask.ofFn f &&& m)) l = if Mask.has m l then f l else Mask.has old l := by
  have hf := Mask.has_ofFn f l hl
  unfold Mask.has at hf ⊢
  rw [BitVec.getLsbD_or, BitVec.getLsbD_and, BitVec.getLsbD_and, BitVec.getLsbD_not, hf]
  cases m.getLsbD l <;> simp [hl]

theorem writeLanes_tookV (s : State) (signed : Bool) (w : Nat) (d : Fin 96) (f : Nat → Nat) :
    ∃ v, s.writeLanes signed w d f = s.setG { s.g with v := v } ∧
      TookV s.g s.active d.val (regCount w) (fun k l => regWord signed w (f l.val) k) v := by
  have hn : regCount w = regCount w - 1 + 1 := by
    unfold regCount
    split <;> rfl
  rw [writeLanes_eq, hn]
  exact writeVs_tookV s s.active d.val _ _

theorem vaddc_completes (s : State) (w : Wid) (d : Fin 96) (a b : Src) :
    let n := Wid.width w
    let sum := fun l => s.srcI a w.opT l + s.srcI b w.opT l + if Mask.has (s.readP 6) l then 1 else 0
    Completes (.vaddc w d a b) s fun t =>
      OnlyGroup s t ∧ Went s t s.next ∧
      SetV s t s.active d.val (regCount n) (fun k l => regWord false n (sum l % 2 ^ n) k) 0 ∧
      (∀ l < 96, Mask.has (t.g.p.get 0 6) l =
        if Mask.has s.active l then decide (2 ^ n ≤ sum l) else Mask.has (s.g.p.get 0 6) l) ∧
      (∀ r, r ≠ 6 → t.g.p.get 0 r = s.g.p.get 0 r) ∧
      t.g = { s.g with v := t.g.v, p := t.g.p, tab := t.g.tab } := by
  intro n sum
  obtain ⟨v, hw, htook⟩ := writeLanes_tookV s false n d fun l => sum l % 2 ^ n
  let q := (s.g.p.get 0 6 &&& ~~~ s.active) ||| (Mask.ofFn (fun l => decide (2 ^ n ≤ sum l)) &&& s.active)
  let g : Group := { s.g with v := v, p := s.g.p.set 0 6 q }
  have he : exec (.vaddc w d a b) s = commit (.ok (s.setG g)) := by
    change commit (.ok ((s.writeLanes false n d fun l => sum l % 2 ^ n).writeP s.active 6 _)) = _
    rw [hw, State.writeP, State.g_setG, State.setG_setG]
    rfl
  refine ⟨_, he.trans (commit_ok_setG s g), onlyGroup_setG _ _, went_setG s g _ rfl, ⟨fun k hk l hl => ?_, fun r hr => ?_, ?_⟩,
    fun l hl => ?_, fun r hr => ?_, ?_⟩
  · simp [g, htook.value k hk, hl]
  · simpa [g] using htook.others r hr
  · simp [g]
  · simpa [g, q] using Mask.has_merge (s.g.p.get 0 6) s.active (fun l => decide (2 ^ n ≤ sum l)) hl
  · simp [g, hr]
  · simp [g, Group.setEnt]

/-! ### VCMP (R188) -/

theorem vcmp_setsP {s : State} {c : Cond} {t : IType} {p : Fin 7} {a b : Src} {f : Nat → Bool}
    (hf : ∀ l, icmp c (s.intAt t a l) (s.intAt t b l) = f l) : SetsP (.vcmp c t p a b) s p.val f 0 := by
  obtain rfl : (fun l => icmp c (s.intAt t a l) (s.intAt t b l)) = f := funext hf
  exact setsP_of rfl

/-- Settles O12: sums, differences and products are congruent to the exact integer, a saturated or chosen one to the
value that it takes, so that each form gives it modulo 2^w. -/
theorem vectorIntegers : Obligations.VectorIntegers := by
  refine ⟨fun s t d a b => ?_, fun s d a b => ⟨fun w => vaddc_completes s w d a b, fun t p => ?_⟩⟩
  · exact ⟨setsInts_vecWrap (f := (· + ·)) rfl, setsInts_vecWrap (f := (· - ·)) rfl, setsInts_vecWrap (f := (· * ·)) rfl,
      vmad_setsInts, setsInts_vecWrap (f := fun x y => x * y / 2 ^ IType.width t) rfl,
      setsInts_vecSat (f := (· + ·)) rfl, setsInts_vecSat (f := (· - ·)) rfl, vmin_setsInts, vmax_setsInts⟩
  · exact ⟨vcmp_setsP fun _ => rfl, vcmp_setsP fun _ => decide_not.symm, vcmp_setsP fun _ => rfl,
      vcmp_setsP fun _ => rfl, vcmp_setsP fun _ => rfl, vcmp_setsP fun _ => rfl⟩

end Sys2Proof.Machine
end

section
/-! PROOFS. Values of the floating-point formats (R112, R114, R115): the special ones, how FTZ reads an operand, and the
flags of NaN operands. -/

namespace Sys2Proof.Machine

/-! ### Operands read as FTZ says (R115) -/

section
variable {f : Fmt} {x : Nat} {z : Bool}

theorem flush_eq (h : z = true → ¬f.isSub x = true) : f.flush z x = x := by
  unfold Fmt.flush
  rw [if_neg]
  simpa using h

variable (hf : 0 < f.eb)
include hf

theorem emax_ne_zero : f.emax ≠ 0 := by
  have : 2 ≤ 2 ^ f.eb := Nat.le_pow hf
  unfold Fmt.emax
  omega

theorem val_of_isSub (h : f.isSub x = true) : ∃ m ≠ 0,
    f.val x = .fin (x / 2 ^ (f.eb + f.fb) % 2 == 1) m (1 - (f.bias : Int) - f.fb) := by
  obtain ⟨hex, hfr⟩ : x / 2 ^ f.fb % 2 ^ f.eb = 0 ∧ x % 2 ^ f.fb ≠ 0 := by simpa [Fmt.isSub] using h
  exact ⟨_, hfr, by simp only [Fmt.val, hex, if_neg (emax_ne_zero hf).symm, if_true]⟩

theorem val_zero (g : Bool) : f.val (f.zero g) = .fin g 0 (1 - (f.bias : Int) - f.fb) := by
  have hneg : f.zero g / 2 ^ (f.eb + f.fb) % 2 = g.toNat := by
    cases g <;> simp [Fmt.zero, Fmt.sgn]
  have hex : f.zero g / 2 ^ f.fb % 2 ^ f.eb = 0 := by
    cases g <;> simp [Fmt.zero, Fmt.sgn, pow_add]
  have hfr : f.zero g % 2 ^ f.fb = 0 := by
    cases g <;> simp [Fmt.zero, Fmt.sgn, pow_add]
  simp only [Fmt.val, hneg, hex, hfr, if_neg (emax_ne_zero hf).symm, if_true]
  cases g <;> rfl

/-- Where an operand is no subnormal number, FTZ does not act on it. -/
theorem val_flush_of_val {v : FV} (h : f.val x = v) (hv : ∀ g m e, v = .fin g m e → m = 0) (z : Bool) :
    f.val (f.flush z x) = v := by
  rw [flush_eq fun _ hs => ?_, h]
  obtain ⟨m, hm, hval⟩ := val_of_isSub hf hs
  exact hm (hv _ _ _ (h.symm.trans hval))

theorem val_flush_nan {g : Bool} (h : f.val x = .nan g) (z : Bool) : f.val (f.flush z x) = .nan g :=
  val_flush_of_val hf h nofun z

theorem val_flush_inf {g : Bool} (h : f.val x = .inf g) (z : Bool) : f.val (f.flush z x) = .inf g :=
  val_flush_of_val hf h nofun z

theorem val_flush_zero {g : Bool} {e : Int} (h : f.val x = .fin g 0 e) (z : Bool) : f.val (f.flush z x) = .fin g 0 e :=
  val_flush_of_val hf h (by rintro _ _ _ ⟨⟩; rfl) z

theorem isNan_val_flush (x : Nat) (z : Bool) : (f.val (f.flush z x)).isNan = (f.val x).isNan := by
  by_cases hs : f.isSub x = true
  · obtain ⟨m, -, hval⟩ := val_of_isSub hf hs
    cases z
    · rw [flush_eq (by simp)]
    · rw [hval, Fmt.flush, if_pos (by simp [hs]), val_zero hf]
      rfl
  · rw [flush_eq fun _ => hs]

end

/-! ### NaN operands (R114) -/

theorem FV.isNan_iff {v : FV} : v.isNan = true ↔ ∃ g, v = .nan g := by cases v <;> simp [FV.isNan]

/-- NV is raised by a signalling operand alone. -/
theorem nvOf_eq (vs : List FV) : nvOf vs = if .nan true ∈ vs then flNV else 0 := by
  induction vs with
  | nil => rfl
  | cons v t ih =>
    rcases v with (_ | _) | _ | _
    case nan.true => simp [nvOf]
    all_goals simpa [nvOf] using ih

theorem FV.nan_eq_negate {v : FV} {g : Bool} : .nan g = v.negate ↔ .nan g = v := by cases v <;> simp [FV.negate]

section
variable (f : Fmt) (n : Rnd) (z : Bool) {a b : Nat}

theorem addV_nan {u v : FV} (h : u.isNan = true ∨ v.isNan = true) : f.addV n z u v = (f.nan, nvOf [u, v]) := by
  rcases h with h | h
  · obtain ⟨g, rfl⟩ := FV.isNan_iff.mp h
    cases v <;> rfl
  · obtain ⟨g, rfl⟩ := FV.isNan_iff.mp h
    cases u <;> rfl

section
variable (h : (f.val (f.flush z a)).isNan = true ∨ (f.val (f.flush z b)).isNan = true)
include h

theorem sub_nan : f.sub n z a b = (f.nan, nvOf [f.val (f.flush z a), f.val (f.flush z b)]) := by
  have hneg : ∀ v : FV, v.negate.isNan = v.isNan := fun v => by cases v <;> rfl
  rw [Fmt.sub, addV_nan f n z (by rwa [hneg])]
  simp [nvOf_eq, FV.nan_eq_negate]

theorem mul_nan : f.mul n z a b = (f.nan, nvOf [f.val (f.flush z a), f.val (f.flush z b)]) := by
  unfold Fmt.mul
  rcases h with h | h
  · obtain ⟨g, hg⟩ := FV.isNan_iff.mp h
    rw [hg]
  · obtain ⟨g, hg⟩ := FV.isNan_iff.mp h
    rw [hg]
    cases f.val (f.flush z a) <;> rfl

theorem div_nan : f.div z a b = (f.nan, nvOf [f.val (f.flush z a), f.val (f.flush z b)]) := by
  unfold Fmt.div
  rcases h with h | h
  · obtain ⟨g, hg⟩ := FV.isNan_iff.mp h
    rw [hg]
  · obtain ⟨g, hg⟩ := FV.isNan_iff.mp h
    rw [hg]
    cases f.val (f.flush z a) <;> rfl

end

/-- A signalling operand of a fused operation, whatever the others are. -/
theorem fmaV_signals {u v w : FV} (h : .nan true ∈ [u, v, w]) :
    (f.fmaV n z u v w).1 = f.nan ∧ (f.fmaV n z u v w).2 &&& flNV = flNV := by
  have hn : (u.isNan || v.isNan || w.isNan) = true := by
    simp only [List.mem_cons, List.not_mem_nil, or_false] at h
    rcases h with rfl | rfl | rfl <;> simp [FV.isNan]
  have hfl : ∀ x : Flags, (flNV ||| x) &&& flNV = flNV := by decide
  simp only [Fmt.fmaV, hn, Bool.true_or, if_true, nvOf_eq, if_pos h, hfl, and_self]

end
end Sys2Proof.Machine
end

section
/-! PROOFS. Lane-wise floating-point arithmetic (R112 to R116, R180, R189 to R194): NaN operands, infinities and zeros. -/

namespace Sys2Proof.Machine

/-! ### NaN operands (R114, R189) -/

theorem Fmt.eb_pos {f : Fmt} (hf : f ∈ [Fmt.f16, .bf16, .f32, .f64]) : 0 < f.eb := by
  revert f
  decide

section
variable {f : Fmt} (hf : 0 < f.eb) (n : Rnd) (z : Bool) {a b c : Nat}
include hf

theorem arith_of_nan (h : (f.val a).isNan = true ∨ (f.val b).isNan = true) :
    ∀ r ∈ [f.add n z a b, f.sub n z a b, f.mul n z a b, f.div z a b],
      r = (f.nan, nvOf [f.val (f.flush z a), f.val (f.flush z b)]) := by
  rw [← isNan_val_flush hf a z, ← isNan_val_flush hf b z] at h
  simp only [List.forall_mem_cons, List.not_mem_nil, false_imp_iff, implies_true, and_true]
  exact ⟨addV_nan f n z h, sub_nan f n z h, mul_nan f n z h, div_nan f z h⟩

theorem arith_of_signalling (h : f.val a = .nan true ∨ f.val b = .nan true) (c : Nat) :
    ∀ r ∈ [f.add n z a b, f.sub n z a b, f.mul n z a b, f.div z a b, f.fma n z a b c, f.fma n z c a b],
      r.1 = f.nan ∧ r.2 &&& flNV = flNV := by
  have hmem : f.val (f.flush z a) = .nan true ∨ f.val (f.flush z b) = .nan true :=
    h.imp (val_flush_nan hf · z) (val_flush_nan hf · z)
  have hnv : nvOf [f.val (f.flush z a), f.val (f.flush z b)] = flNV := by
    rw [nvOf_eq, if_pos]
    simpa [eq_comm] using hmem
  have h2 := arith_of_nan hf n z (h.imp (fun h => FV.isNan_iff.mpr ⟨_, h⟩) fun h => FV.isNan_iff.mpr ⟨_, h⟩)
  rw [hnv] at h2
  simp only [List.forall_mem_cons, List.not_mem_nil, false_imp_iff, implies_true, and_true] at h2 ⊢
  obtain ⟨hadd, hsub, hmul, hdiv⟩ := h2
  simp only [hadd, hsub, hmul, hdiv, BitVec.and_self, and_self, true_and]
  refine ⟨fmaV_signals f n z ?_, fmaV_signals f n z ?_⟩
  · rcases hmem with h | h <;> simp [h]
  · rcases hmem with h | h <;> simp [h]

theorem arith_of_quiet (ha : f.val a = .nan false) (hb : ∀ g, f.val b ≠ .nan g) :
    f.add n z a b = (f.nan, 0) ∧ f.sub n z a b = (f.nan, 0) ∧ f.mul n z a b = (f.nan, 0) ∧ f.div z a b = (f.nan, 0) := by
  have hb' : f.val (f.flush z b) ≠ .nan true := fun h => by
    obtain ⟨g, hg⟩ := FV.isNan_iff.mp ((isNan_val_flush hf b z).symm.trans (FV.isNan_iff.mpr ⟨_, h⟩))
    exact hb g hg
  have hnv : nvOf [f.val (f.flush z a), f.val (f.flush z b)] = 0 := by
    rw [nvOf_eq, if_neg]
    simpa [val_flush_nan hf ha] using hb'.symm
  have h := arith_of_nan (b := b) hf n z (.inl (FV.isNan_iff.mpr ⟨_, ha⟩))
  rw [hnv] at h
  simpa using h

/-! ### Infinities and zeros (R114, R119, R189) -/

theorem arith_inf_inf {g h : Bool} (ha : f.val a = .inf g) (hb : f.val b = .inf h) :
    f.add n z a b = (if g = h then (f.inf g, 0) else (f.nan, flNV)) ∧
    f.sub n z a b = (if g = h then (f.nan, flNV) else (f.inf g, 0)) ∧
    f.mul n z a b = (f.inf (g != h), 0) ∧ f.div z a b = (f.nan, flNV) := by
  have ha := val_flush_inf hf ha z
  have hb := val_flush_inf hf hb z
  refine ⟨by simp [Fmt.add, Fmt.addV, ha, hb], ?_, by simp only [Fmt.mul, ha, hb], by simp only [Fmt.div, ha, hb]⟩
  simp only [Fmt.sub, Fmt.addV, FV.negate, ha, hb]
  cases g <;> cases h <;> rfl

/-- An infinity times zero is invalid whatever the addend. -/
theorem arith_inf_zero {g h : Bool} {e : Int} (ha : f.val a = .inf g) (hb : f.val b = .fin h 0 e) (c : Nat) :
    f.mul n z a b = (f.nan, flNV) ∧ (f.fma n z a b c).1 = f.nan ∧ (f.fma n z a b c).2 &&& flNV = flNV := by
  have ha := val_flush_inf hf ha z
  have hb := val_flush_zero hf hb z
  have hfl : ∀ x : Flags, (x ||| flNV) &&& flNV = flNV := by decide
  refine ⟨by simp [Fmt.mul, ha, hb], ?_⟩
  simp [Fmt.fma, Fmt.fmaV, ha, hb, hfl]

theorem div_fin_zero {g h : Bool} {m : Nat} {e e' : Int} (ha : f.val a = .fin g m e) (hm : m ≠ 0)
    (hs : z = true → ¬f.isSub a = true) (hb : f.val b = .fin h 0 e') : f.div z a b = (f.inf (g != h), flDZ) := by
  rw [Fmt.div, flush_eq hs, ha, val_flush_zero hf hb]
  simp only [if_true, if_neg hm]

theorem div_zero_zero {g h : Bool} {e e' : Int} (ha : f.val a = .fin g 0 e) (hb : f.val b = .fin h 0 e') :
    f.div z a b = (f.nan, flNV) := by
  rw [Fmt.div, val_flush_zero hf ha, val_flush_zero hf hb]
  rfl

end

theorem nan_canonical {f : Fmt} (hf : f ∈ [Fmt.f16, .bf16, .f32, .f64]) :
    f.val f.nan = .nan false ∧ (f.width = 16 → f = Fmt.f16 ∧ f.nan = 0x7E00 ∨ f = Fmt.bf16 ∧ f.nan = 0x7FC0) ∧
    (f.width = 32 → f.nan = 0x7FC00000) ∧ (f.width = 64 → f.nan = 0x7FF8000000000000) := by
  revert f
  decide

/-- Settles O16: each form is its function of the lanes' operands; the special cases follow from the values of the
operands, which FTZ leaves as they are. -/
theorem floatArithmetic : Obligations.FloatArithmetic := by
  refine ⟨fun s f n d a b => ?_, fun f n z a b c hmem => ?_⟩
  · exact ⟨setsLanes_of rfl, setsLanes_of rfl, setsLanes_of rfl, setsLanes_of rfl, setsLanes_of rfl, setsLanes_of rfl,
      setsLanes_of rfl, setsLanes_of rfl, setsLanes_of rfl, setsLanes_of rfl, setsLanes_of rfl, setsLanes_of rfl,
      setsLanes_of rfl, setsLanes_of rfl, setsLanes_of rfl⟩
  · have hf := Fmt.eb_pos hmem
    exact ⟨fun h => arith_of_signalling hf n z h c, arith_of_quiet hf n z, fun g h => arith_inf_inf hf n z,
      fun g h e ha hb => arith_inf_zero hf n z ha hb c, fun g h m e e' => div_fin_zero hf z,
      fun g h e e' => div_zero_zero hf z, nan_canonical hmem⟩

end Sys2Proof.Machine
end

section
/-! PROOFS. The special functions (R118, R119, R180, R366): their trap on .f64, and the special operands of the formats. -/

namespace Sys2Proof.Machine

/-! ### Completion and the trap on .f64 (R118, R366) -/

section
variable {i : Instr} {s : State} {f : FType} {d : Fin 96} {a : Src} {g : Nat → Nat × Flags}

theorem special1_setsLanes (h : exec i s = s.special1 f d a g) (hf : f ≠ .f64) :
    SetsLanes i s false (FType.fmt f).width d fun l => g (s.srcF a f l) := by
  rw [State.special1, if_neg hf] at h
  exact setsLanes_of h

theorem special1_traps (h : exec i s = s.special1 f d a g) (hf : f = .f64) : Traps i s (tUnimpl 3) := by
  rw [State.special1, if_pos hf] at h
  exact h

end

theorem tUnimpl_synd {k : Nat} (hk : k < 3) (n : Fin 4) :
    (tUnimpl n).synd k = BitVec.ofNat 64 (n * 2 ^ 48 + 0x7F * 2 ^ 41 + k * 2 ^ 32 + 7) := by
  revert k n
  decide

/-! ### NaN operands and infinities (R119) -/

/-- Plus or minus one. -/
def Fmt.one (f : Fmt) (g : Bool) : Nat := f.sgn g + f.bias * 2 ^ f.fb

theorem round_one {f : Fmt} (hf : f ∈ [Fmt.f16, .bf16, .f32]) (z g : Bool) : f.round .rne z g 1 0 false = (f.one g, 0) := by
  revert f z g
  decide

section
variable {f : Fmt} {x : Nat} {z : Bool}

theorem special_of_nan {g : Bool} (hv : f.val (f.flush z x) = .nan g) :
    ∀ r ∈ [f.exp2 z x, f.log2 z x, f.sinp z false x, f.sinp z true x, f.tanh z x], r = (f.nan, if g then flNV else 0) := by
  simp only [List.forall_mem_cons, List.not_mem_nil, false_imp_iff, implies_true, and_true]
  simp only [Fmt.exp2, Fmt.log2, Fmt.sinp, Fmt.tanh, hv, and_self]

section
variable (hf : f ∈ [Fmt.f16, .bf16, .f32])
include hf

theorem special_of_inf {g : Bool} (hv : f.val (f.flush z x) = .inf g) :
    f.exp2 z x = (if g then f.zero false else f.inf false, 0) ∧
    f.log2 z x = (if g then (f.nan, flNV) else (f.inf false, 0)) ∧
    f.sinp z false x = (f.nan, flNV) ∧ f.sinp z true x = (f.nan, flNV) ∧ f.tanh z x = (f.one g, 0) := by
  simp only [Fmt.exp2, Fmt.log2, Fmt.sinp, Fmt.tanh, hv, round_one hf, and_self, and_true]
  cases g <;> rfl

theorem special_of_zero {g : Bool} {e : Int} (hv : f.val (f.flush z x) = .fin g 0 e) :
    f.exp2 z x = (f.one false, 0) ∧ f.log2 z x = (f.inf true, flDZ) ∧
    f.sinp z false x = (f.zero g, 0) ∧ f.sinp z true x = (f.one false, 0) ∧ f.tanh z x = (f.zero g, 0) := by
  simp only [Fmt.exp2, Fmt.log2, Fmt.sinp, Fmt.tanh, hv, round_one hf, if_true, Bool.false_eq_true, if_false, and_self]

end

/-! ### Logarithms of one and of negative numbers (R119) -/

/-- A finite value is one when it is a power of two with the opposite exponent. -/
theorem eq_two_pow_of_value_one {m : Nat} {e : Int} (h : (m : ℚ) * 2 ^ e = 1) : ∃ l : Nat, m = 2 ^ l ∧ e = -l := by
  obtain ⟨j, rfl | rfl⟩ := e.eq_nat_or_neg
  · have hn : m * 2 ^ j = 1 := by exact_mod_cast h
    obtain ⟨rfl, hj⟩ := mul_eq_one.mp hn
    obtain rfl : j = 0 := by simpa using hj
    exact ⟨0, rfl, rfl⟩
  · rw [zpow_neg, zpow_natCast, mul_inv_eq_one₀ (by positivity)] at h
    exact ⟨j, by exact_mod_cast h, rfl⟩

theorem log2_one {m : Nat} {e : Int} (hv : f.val (f.flush z x) = .fin false m e) (h : (m : ℚ) * 2 ^ e = 1) :
    f.log2 z x = (f.zero false, 0) := by
  obtain ⟨l, rfl, rfl⟩ := eq_two_pow_of_value_one h
  simp [Fmt.log2, hv, Fmt.roundInt]

theorem log2_negative {m : Nat} {e : Int} (hv : f.val (f.flush z x) = .fin true m e) (hm : m ≠ 0) :
    f.log2 z x = (f.nan, flNV) := by
  simp only [Fmt.log2, hv, if_neg hm, if_true]

/-! ### Sines and cosines at multiples of a half turn (R119) -/

/-- Fraction bits in which the magnitude of an operand is taken modulo 2. -/
def turnBits (e : Int) : Nat := if e ≤ -2 then (-e).toNat else 2

/-- The magnitude modulo 2, in those bits. -/
def turn (m : Nat) (e : Int) : Nat := m * 2 ^ (e + turnBits e).toNat % 2 ^ (turnBits e + 1)

theorem exists_turnBits (e : Int) : ∃ k, turnBits e = k + 1 :=
  Nat.exists_eq_succ_of_ne_zero (by unfold turnBits; split <;> omega)

theorem add_turnBits_nonneg (e : Int) : 0 ≤ e + turnBits e := by unfold turnBits; split <;> omega

/-- In those bits the magnitude is a natural number. -/
theorem turn_numerator {m : Nat} {e : Int} {q : ℚ} (h : (m : ℚ) * 2 ^ e = q) :
    ((m * 2 ^ (e + turnBits e).toNat : Nat) : ℚ) = q * 2 ^ turnBits e := by
  have hp : (2 : ℚ) ^ (e + turnBits e).toNat = 2 ^ e * 2 ^ turnBits e := by
    rw [← zpow_natCast, Int.toNat_of_nonneg (add_turnBits_nonneg e), zpow_add₀ two_ne_zero, zpow_natCast]
  push_cast
  rw [hp, ← mul_assoc, h]

theorem turn_int {m n : Nat} {e : Int} (h : (m : ℚ) * 2 ^ e = n) : turn m e = n % 2 * 2 ^ turnBits e := by
  have hn : m * 2 ^ (e + turnBits e).toNat = n * 2 ^ turnBits e := by exact_mod_cast turn_numerator h
  rw [turn, hn, pow_succ', Nat.mul_mod_mul_right]

theorem turn_half {m n : Nat} {e : Int} (h : (m : ℚ) * 2 ^ e = n + 1 / 2) :
    (turn m e + 2 ^ (turnBits e - 1)) % 2 ^ (turnBits e + 1) % 2 ^ turnBits e = 0 := by
  obtain ⟨k, hk⟩ := exists_turnBits e
  have hn : m * 2 ^ (e + turnBits e).toNat + 2 ^ (turnBits e - 1) = (n + 1) * 2 ^ turnBits e := by
    have := turn_numerator h
    rw [hk] at this ⊢
    rw [← Nat.cast_inj (R := ℚ), Nat.cast_add, this, Nat.add_sub_cancel]
    push_cast
    ring
  rw [turn, Nat.mod_add_mod, hn, Nat.mod_mod_of_dvd _ (pow_dvd_pow 2 (Nat.le_succ _)), Nat.mul_mod_left]

section
variable {g : Bool} {m : Nat} {e : Int} (hv : f.val (f.flush z x) = .fin g m e) (hm : m ≠ 0)
include hv hm

theorem sinp_of_turn (h : turn m e % 2 ^ turnBits e = 0) : f.sinp z false x = (f.zero g, 0) := by
  unfold turn turnBits at h
  simp only [Fmt.sinp, hv, if_neg hm, h, Bool.false_eq_true, if_false, if_true]

theorem cosp_of_turn (h : (turn m e + 2 ^ (turnBits e - 1)) % 2 ^ (turnBits e + 1) % 2 ^ turnBits e = 0) :
    f.sinp z true x = (f.zero false, 0) := by
  unfold turn turnBits at h
  simp only [Fmt.sinp, hv, if_neg hm, h, if_true]

theorem cosp_of_quarter {j : Nat} (hj : (turn m e + 2 ^ (turnBits e - 1)) % 2 ^ (turnBits e + 1) = j)
    (h : j % 2 ^ turnBits e ≠ 0) (h' : j % 2 ^ (turnBits e - 1) = 0) :
    f.sinp z true x = f.round .rne z (decide (2 ^ turnBits e < j)) 1 0 false := by
  unfold turn turnBits at hj
  unfold turnBits at h h' ⊢
  simp only [Fmt.sinp, hv, if_neg hm, hj, if_neg h, h', if_true]

theorem sinp_int {n : Nat} (h : (m : ℚ) * 2 ^ e = n) : f.sinp z false x = (f.zero g, 0) :=
  sinp_of_turn hv hm (by rw [turn_int h, Nat.mul_mod_left])

theorem cosp_int (hf : f ∈ [Fmt.f16, .bf16, .f32]) {n : Nat} (h : (m : ℚ) * 2 ^ e = n) :
    f.sinp z true x = (f.one (decide (n % 2 = 1)), 0) := by
  obtain ⟨k, hk⟩ := exists_turnBits e
  have hr : n % 2 < 2 := Nat.mod_lt n two_pos
  have hpos : 0 < 2 ^ k := Nat.two_pow_pos k
  have hj : (turn m e + 2 ^ (turnBits e - 1)) % 2 ^ (turnBits e + 1) = (2 * (n % 2) + 1) * 2 ^ k := by
    have hlt : (2 * (n % 2) + 1) * 2 ^ k < 4 * 2 ^ k := Nat.mul_lt_mul_of_pos_right (by omega) hpos
    rw [turn_int h, hk, Nat.add_sub_cancel, ← Nat.mod_eq_of_lt hlt]
    ring_nf
  rw [cosp_of_quarter hv hm hj, round_one hf, hk, pow_succ']
  · simp only [Nat.mul_lt_mul_right hpos]
    rw [decide_eq_decide.mpr (by omega : 2 < 2 * (n % 2) + 1 ↔ n % 2 = 1)]
  · rw [hk, pow_succ', Nat.mul_mod_mul_right, Nat.mul_add_mod]
    simp
  · rw [hk, Nat.add_sub_cancel, Nat.mul_mod_left]

end

end

/-- Settles O17: on .f64 the shared operation traps; the special operands follow from the value of the operand, taken
modulo 2 as a natural number of fixed bits for sine and cosine. -/
theorem specialFunctions : Obligations.SpecialFunctions := by
  refine ⟨fun s f d a => ⟨fun hf => ?_, fun hf => ?_⟩, fun k hk => tUnimpl_synd hk 3, fun f z x hmem => ?_⟩
  · exact ⟨special1_setsLanes rfl hf, special1_setsLanes rfl hf, special1_setsLanes rfl hf, special1_setsLanes rfl hf,
      special1_setsLanes rfl hf⟩
  · simp only [List.forall_mem_cons, List.not_mem_nil, false_imp_iff, implies_true, and_true]
    exact ⟨special1_traps rfl hf, special1_traps rfl hf, special1_traps rfl hf, special1_traps rfl hf,
      special1_traps rfl hf⟩
  · have hf : 0 < f.eb := Fmt.eb_pos (List.mem_append_left [Fmt.f64] hmem)
    refine ⟨fun g h => special_of_nan (val_flush_nan hf h z), fun g h => special_of_inf hmem (val_flush_inf hf h z),
      fun g e h => special_of_zero hmem (val_flush_zero hf h z), fun g m e h hm hs => ?_⟩
    have hv : f.val (f.flush z x) = .fin g m e := by rw [flush_eq hs, h]
    refine ⟨?_, ?_, fun n hn => ⟨sinp_int hv hm hn, cosp_int hv hm hmem hn⟩, fun n hn => cosp_of_turn hv hm (turn_half hn)⟩
    · rintro rfl
      exact log2_negative hv hm
    · rintro rfl h1
      exact log2_one hv h1

end Sys2Proof.Machine
end

section
/-! PROOFS. FCMP, conversions, and the dual-exponent conversions (R117, R120 to R123, R190, R195 to R199). -/

namespace Sys2Proof.Machine

/-! ### FCMP (R190) -/

theorem nvOf_pair (u v : FV) : nvOf [u, v] = if u = .nan true ∨ v = .nan true then flNV else 0 := by
  simp only [nvOf_eq, List.mem_cons, List.not_mem_nil, or_false, eq_comm]

section
variable {i : Instr} {s : State} {r : FRel} {f : FType} {p : Fin 7} {a b : Src}

theorem fcmp_setsP {g : Nat → Bool} {fl : Nat → Flags} (h : exec i s = s.fcmp r f p a b)
    (hv : ∀ l, (FType.fmt f).cmp r (s.srcF a f l) (s.srcF b f l) = (g l, fl l)) :
    SetsP i s p.val g (s.laneFlags fl) := by
  simp only [State.fcmp, hv] at h
  exact setsP_of h

end

theorem ordering_bne_gt (o : Ordering) : (o != .gt) = (o == .lt || o == .eq) := by cases o <;> decide

theorem ordering_bne_lt (o : Ordering) : (o != .lt) = (o == .gt || o == .eq) := by cases o <;> decide

/-! ### Conversions to integers (R117) -/

section
variable {f : Fmt} (hf : 0 < f.eb) (signed : Bool) (w : Nat) (n : Rnd) (z : Bool) {g : Bool} {x : Nat}
include hf

theorem toInt_nan (h : f.val x = .nan g) : f.toInt signed w n z x = (0, flNV) := by
  simp only [Fmt.toInt, val_flush_nan hf h z]

theorem toInt_inf (h : f.val x = .inf g) :
    f.toInt signed w n z x = (wrap w (if g then intMin signed w else intMax signed w), flNV) := by
  simp only [Fmt.toInt, val_flush_inf hf h z, wrap]

end

theorem FType.fmt_eb_pos (f : FType) : 0 < (FType.fmt f).eb := by cases f <;> decide

/-! ### What a write and its flags take from the active lanes (R116, R180) -/

section
variable {s : State}

theorem writeV_congr {m : Mask} (r : Nat) {f g : Lane → Word32} (h : ∀ l : Lane, Mask.has m l.val → f l = g l) :
    s.writeV m r f = s.writeV m r g := by
  have hrow (old : Row) : Row.merge m old f = Row.merge m old g := by
    unfold Row.merge
    congr 1
    funext l
    split_ifs with hl
    · exact h l hl
    · rfl
  simp only [State.writeV, hrow]

theorem active_of_mem_actNH {l : Lane} (h : l ∈ Mask.list s.actNH) : Mask.has s.active l.val = true := by
  have hl := (List.mem_filter.mp h).2
  simp only [Mask.has, State.actNH, BitVec.getLsbD_and, Bool.and_eq_true] at hl
  exact hl.1

theorem laneFlags_congr {f g : Nat → Flags} (h : ∀ l < 96, Mask.has s.active l → f l = g l) :
    s.laneFlags f = s.laneFlags g :=
  List.foldl_ext _ _ _ fun a l hl => by rw [h l.val l.isLt (active_of_mem_actNH hl)]

end

/-! ### Blocks of a DXENC (R122, R198) -/

section
variable (s : State) (scl dx4 : Bool) (d : Fin 96) (a : Src)

/-- The value that a lane gives its block: zero from an inactive lane. -/
def State.dxIn (l : Nat) : FV :=
  if Mask.has s.active l then Fmt.f32.val (Fmt.f32.flush s.ftz (s.srcF a .f32 l)) else .fin false 0 0

/-- The scales of the block of b lanes from lane l0 on: those of its first lane's old destination, or its own. -/
def State.dxPair (l0 b : Nat) : Nat × Nat :=
  dxScales dx4 (if scl then some ((s.readV d.val l0).toNat / 256 % 256, (s.readV d.val l0).toNat / 65536 % 256) else none)
    ((List.range b).map fun k => s.dxIn a (l0 + k))

/-- The code and flags of lane l's element, in blocks of b lanes. -/
def State.dxEl (b l : Nat) : Nat × Flags :=
  dxElement dx4 (s.dxPair scl dx4 d a (l / b * b) b).1 (s.dxPair scl dx4 d a (l / b * b) b).2 (s.dxIn a l)

/-- The result of lane l. -/
def State.dxOut (b l : Nat) : Nat × Flags :=
  (laneForm (s.dxPair scl dx4 d a (l / b * b) b).1 (s.dxPair scl dx4 d a (l / b * b) b).2 (s.dxEl scl dx4 d a b l).1,
    (s.dxEl scl dx4 d a b l).2)

variable {s scl dx4 d a}

/-- A block gives its active lanes their results. -/
theorem mem_dxBlock {k b : Nat} {r : Nat × Nat × Flags} : r ∈ s.dxBlock scl dx4 d a (b * k) b ↔
    ∃ j < b, Mask.has s.active (b * k + j) ∧ r = (b * k + j, s.dxOut scl dx4 d a b (b * k + j)) := by
  have hlane {j : Nat} (hj : j < b) : (b * k + j) / b * b = b * k := by
    rw [Nat.mul_add_div (by omega), Nat.div_eq_of_lt hj, Nat.add_zero, Nat.mul_comm]
  simp only [State.dxBlock, List.mem_map, List.mem_filter, List.mem_range, List.map_map]
  constructor
  · rintro ⟨_, ⟨⟨j, hj, rfl⟩, hact⟩, rfl⟩
    refine ⟨j, hj, hact, ?_⟩
    rw [State.dxOut, State.dxEl, hlane hj]
    rfl
  · rintro ⟨j, hj, hact, rfl⟩
    refine ⟨_, ⟨⟨j, hj, rfl⟩, hact⟩, ?_⟩
    rw [State.dxOut, State.dxEl, hlane hj]
    rfl

/-- All blocks of a group. -/
def State.dxAll (s : State) (scl dx4 : Bool) (d : Fin 96) (a : Src) (b : Nat) : List (Nat × Nat × Flags) :=
  (List.range (96 / b)).flatMap fun k => s.dxBlock scl dx4 d a (b * k) b

/-- The blocks of a group give every active lane its result, and nothing else. -/
theorem mem_dxAll {b : Nat} (hb : 0 < b) (hdvd : b ∣ 96) {r : Nat × Nat × Flags} : r ∈ s.dxAll scl dx4 d a b ↔
    ∃ l < 96, Mask.has s.active l ∧ r = (l, s.dxOut scl dx4 d a b l) := by
  simp only [State.dxAll, List.mem_flatMap, List.mem_range, mem_dxBlock]
  constructor
  · rintro ⟨k, hk, j, hj, hact, rfl⟩
    refine ⟨b * k + j, ?_, hact, rfl⟩
    calc b * k + j < b * (k + 1) := by rw [Nat.mul_succ]; omega
      _ ≤ b * (96 / b) := Nat.mul_le_mul_left b hk
      _ = 96 := Nat.mul_div_cancel' hdvd
  · rintro ⟨l, hl, hact, rfl⟩
    refine ⟨l / b, Nat.div_lt_div_of_lt_of_dvd hdvd hl, l % b, Nat.mod_lt l hb, ?_⟩
    rw [Nat.div_add_mod]
    exact ⟨hact, rfl⟩

/-- What DXENC finds for lane l among the results of the blocks. -/
def State.dxLook (s : State) (scl dx4 : Bool) (d : Fin 96) (a : Src) (b l : Nat) : Option (Nat × Flags) :=
  ((s.dxAll scl dx4 d a b).find? fun r => r.1 == l).map Prod.snd

theorem dxLook_of_active {b l : Nat} (hb : 0 < b) (hdvd : b ∣ 96) (hl : l < 96) (hact : Mask.has s.active l = true) :
    s.dxLook scl dx4 d a b l = some (s.dxOut scl dx4 d a b l) := by
  unfold State.dxLook
  cases hfind : (s.dxAll scl dx4 d a b).find? fun r => r.1 == l with
  | none =>
    have := List.find?_eq_none.mp hfind _ ((mem_dxAll hb hdvd).mpr ⟨l, hl, hact, rfl⟩)
    simp at this
  | some r =>
    obtain ⟨l', -, -, rfl⟩ := (mem_dxAll hb hdvd).mp (List.mem_of_find?_eq_some hfind)
    obtain rfl : l' = l := by simpa using List.find?_some hfind
    rfl

/-! ### The dual-exponent conversions (R120 to R123, R197 to R199) -/

section
variable (hf : s.feature (if dx4 then 16 else 17) = false)
include hf

theorem dxdec_traps : Traps (.dxdec dx4 d a) s (tUnimpl 0) := by
  change execDxdec dx4 d a s = _
  rw [execDxdec, hf]
  rfl

theorem dxenc_traps (hl : s.g.isLoupe = false) (b16 : Bool) : Traps (.dxenc scl b16 dx4 d a) s (tUnimpl 0) := by
  refine (commit_groupOnly hl _).trans ?_
  dsimp only
  rw [hf]
  rfl

end

section
variable (hf : s.feature (if dx4 then 16 else 17) = true)
include hf

theorem dxdec_setsLanes : SetsLanes (.dxdec dx4 d a) s false 32 d fun l =>
    let x := s.srcI a .i32 l
    (dxDecode dx4 (x % (if dx4 then 16 else 256)) (x / 256 % 256) (x / 65536 % 256), 0) := by
  refine setsLanes_of ?_
  change execDxdec dx4 d a s = _
  rw [execDxdec, hf]
  rfl

theorem exec_dxenc (hl : s.g.isLoupe = false) (b16 : Bool) :
    let look := s.dxLook scl dx4 d a (if b16 then 16 else 32)
    exec (.dxenc scl b16 dx4 d a) s = commit (.ok
      ((s.writeV s.active d.val fun l => BitVec.ofNat 32 (((look l.val).map Prod.fst).getD 0)).orFlags
        (s.laneFlags fun l => ((look l).map Prod.snd).getD 0))) := by
  refine (commit_groupOnly hl _).trans ?_
  dsimp only
  rw [hf]
  rfl

theorem dxenc_setsV (hl : s.g.isLoupe = false) (b16 : Bool) : SetsV (.dxenc scl b16 dx4 d a) s s.active d.val 1
    (fun _ l => BitVec.ofNat 32 (s.dxOut scl dx4 d a (if b16 then 16 else 32) l).1)
    (s.laneFlags fun l => (s.dxOut scl dx4 d a (if b16 then 16 else 32) l).2) := by
  obtain ⟨hb, hdvd⟩ : 0 < (if b16 then 16 else 32) ∧ (if b16 then 16 else 32) ∣ 96 := by cases b16 <;> decide
  refine setsV_of ((exec_dxenc hf hl b16).trans ?_)
  rw [writeV_congr d.val fun l hact => by rw [dxLook_of_active hb hdvd l.isLt hact, Option.map_some, Option.getD_some],
    laneFlags_congr fun l hl hact => by rw [dxLook_of_active hb hdvd hl hact, Option.map_some, Option.getD_some]]
  rfl

end

end

/-- Settles O18: FCMP by its relation, the conversions by the value of their operand, DXENC by the results that the
blocks of the group give its active lanes. -/
theorem floatCompareAndConvert : Obligations.FloatCompareAndConvert := by
  refine ⟨fun s f p a b => ?_, ⟨fun s r f j n d a => ?_, fun f j n z g x => ?_⟩, fun s scl b16 dx4 d a => ?_⟩
  · refine ⟨fcmp_setsP rfl fun l => ?_, fcmp_setsP rfl fun l => ?_, fcmp_setsP rfl fun l => ?_, fcmp_setsP rfl fun l => ?_,
      fcmp_setsP rfl fun l => ?_, fcmp_setsP rfl fun l => ?_, fcmp_setsP rfl fun l => ?_, fcmp_setsP rfl fun l => ?_⟩
    all_goals simp only [Fmt.cmp, nvOf_pair, ordering_bne_gt, ordering_bne_lt]
  · exact ⟨setsLanes_of rfl, setsLanes_of rfl, setsLanes_of rfl⟩
  · exact ⟨toInt_nan (FType.fmt_eb_pos f) _ _ n z, toInt_inf (FType.fmt_eb_pos f) _ _ n z⟩
  · exact ⟨fun hf => ⟨dxdec_traps hf, fun hl => dxenc_traps hf hl b16⟩, fun hl => exec_recalls hl rfl nofun,
      dxdec_setsLanes, fun hf hl => dxenc_setsV hf hl b16⟩

end Sys2Proof.Machine
end
